-- ==== Sys2Proof/Word.lean ====
section
/-! DEFINITION. The words of the machine: a scalar of 64 bits, a vector of 2048 bits with one poison bit for each of its
32 words (R45), a 64-byte line, and the sparse table that every large memory of the state is kept in. -/

namespace Sys2Proof

/-- A scalar register or a 64-bit word of memory (R53). -/
abbrev Word := BitVec 64

/-- A byte of memory. -/
abbrev Byte := BitVec 8

/-- A 64-byte line, byte `i` in bits `8i+7..8i` (R3, R66). -/
abbrev Line := BitVec 512

/-- A result-queue value or a named vector register (R45, R53): 2048 bits and one poison bit for each 64-bit word. A scalar
is a value whose bits 2047:64 and poison bits 31:1 are 0. -/
structure Val where
  /-- The kind tag: a vector, or a scalar. -/
  vec : Bool
  bits : BitVec 2048
  poison : BitVec 32
  deriving DecidableEq, Repr

/-- Scalar +0 with a clear poison bit (R48). -/
def Val.zero : Val := ⟨false, 0, 0⟩

/-- Vector +0 with clear poison bits (R60). -/
def Val.vzero : Val := ⟨true, 0, 0⟩

/-- A scalar value with its poison bit. -/
def Val.scalar (w : Word) (p : Bool) : Val := ⟨false, w.zeroExtend 2048, if p then 1 else 0⟩

/-- The 64 bits of a scalar. -/
def Val.word (v : Val) : Word := v.bits.truncate 64

/-- A scalar's poison bit: bit 0 of the poison bits. -/
def Val.sp (v : Val) : Bool := v.poison.getLsbD 0

/-- A sparse table: pairs of a key and a value, keys strictly rising, and no value equal to the one that an unlisted key
has (the caller's default), so that equal tables are equal lists. A memory is a table of bytes (a list of `Host.Cell`). -/
structure Tbl (α : Type) where
  entries : List (Nat × α)
  deriving DecidableEq, Repr

/-- The table that lists nothing. -/
def Tbl.empty {α : Type} : Tbl α := ⟨[]⟩

end Sys2Proof
end

