-- ==== Sys2Proof/Config.lean ====
section
/-! DEFINITION. What the spec fixes for this module, and the free values: constants without a body, one for each value the
spec leaves open, applied to a counter of the state (log entries name each). -/

namespace Sys2Proof.Config

open Sys2Proof

/-- R12: contexts of a core. -/
def contexts : Nat := 4

/-- R9, R12: cores of the package. -/
def cores : Nat := 512

/-- R13: barriers of a die. -/
def barriers : Nat := 64

/-- R345: bytes of DRAM of one die, and of the package. -/
def dieDram : Nat := 2 ^ 37
def packageDram : Nat := 2 ^ 39

/-- R214: entries of a core's store log, and of its extension. -/
def logOnCore : Nat := 1024
def logExtension : Nat := 131072

/-- R12: bytes of a die's DRAM that its cores' store-log extensions take, and what an access to them reads. (DESIGN CHOICE, log entry 82). -/
def logCarve : Nat := 2 ^ 31
opaque extensionLine : Nat → Line

/-- R212: which of its DRAM lines a full bay gives up. (DESIGN CHOICE, log entry 82). -/
opaque bayVictim : Nat → Nat

/-- R18 gives about 360 cycles for a DRAM load; the cycles that a first touch of a DRAM line adds (log entry 6). -/
def dramExtra : Nat := 320

/-- R350: cycles that a walker takes for a table line held in the Hall, and for one from DRAM. -/
def walkHall : Nat := 40
def walkDram : Nat := 360

/-- R16, R213: the bank, of a bay's 16, that serves a line, by the line's number: the spec does not say which. (DESIGN CHOICE, log entry 17). -/
opaque bankOf : Nat → Nat

/-- R274 states no time for the Curator's reading of a launch. (DESIGN CHOICE, log entry 14). -/
opaque readTime : Nat → Nat

/-- R286 leaves the first bundle of a placed context between 40 and 400 cycles after the decision: the cycles beyond 40.
(DESIGN CHOICE, log entry 14). -/
opaque placeSlack : Nat → Nat

/-- R189 leaves each core's changeover between 1 and 64 cycles after the VITQ. (DESIGN CHOICE, log entry 14). -/
opaque changeover : Nat → Nat

/-- R351 states no time for the acknowledgements of an INVAL. (DESIGN CHOICE, log entry 14). -/
opaque invalTime : Nat → Nat

/-- R284 states no time for binding a loose record to an idle context. (DESIGN CHOICE, log entry 14). -/
opaque bindTime : Nat → Nat

/-- R418 leaves the host's own time open. (DESIGN CHOICE, log entry 14). -/
opaque hostTime : Nat → Nat

/-- R319 leaves the package traversals of a remote path to the cabling, and the hops and edge crossings on the remote package lie outside the
module. (DESIGN CHOICE, log entry 14). -/
opaque remoteCrossings : Nat → Nat
opaque remoteHops : Nat → Nat
opaque remoteEdges : Nat → Nat

/-- R318: what a remote package answers to a load (its memory lies outside the module), by a counter. (DESIGN CHOICE, log entry 15). -/
opaque remoteWord : Nat → Word

/-- R410: the quote's signature, over the SM3 digest of what it covers, and its time within 2,000,000 cycles. (PRESUMED, log entry 78). -/
opaque quoteSignature : BitVec 256 → BitVec 512
opaque quoteTime : Nat → Nat

/-- R410: the public key fused at manufacture. (PRESUMED, log entry 78). -/
opaque publicKey : BitVec 512

/-- R408, R409: measurements of the firmware image, the vitrine table and the configuration block. (DESIGN CHOICE, log entry 8). -/
opaque firmwareDigest : Nat → BitVec 256

/-- R408: the step, 1 to 7, at which bring-up fails, by the count of resets; any other number when all steps succeed.
(DESIGN CHOICE, log entry 8). -/
opaque bringUpFails : Nat → Nat

/-- R408: the host ports, the package identifier, and VITCTL.TBLVER that the signed image's configuration gives. (DESIGN CHOICE, log entry 8). -/
opaque hostPorts : Nat → BitVec 64
opaque packageId : Nat → BitVec 10
opaque tableVersion : BitVec 16

/-- R193: the digests of the vitrine entries whose bodies the spec does not print. (PRESUMED, log entry 78). -/
opaque vitDigest : Nat → BitVec 128

/-- R411: a block of an encrypted segment as DRAM holds it: the count of resets gives the keys, then the block's number and its
plaintext. SM4-XTS under keys that no register exposes is not computed. (DESIGN CHOICE, log entry 49). -/
opaque cipherLine : Nat → Nat → Line → Line

/-- R374: what three or more symbols in error leave of a block. (DESIGN CHOICE, log entry 50). -/
opaque lostLine : Nat → Line

/-- R383: the width that a retrained link comes up with. (DESIGN CHOICE, log entry 53). -/
opaque trainedLanes : Nat → Nat

/-- R405: the module's average power over a window, in watts. (DESIGN CHOICE, log entry 56). -/
opaque power : Nat → Nat

/-- R407, R412: the nominal voltage of each domain, in millivolts. (DESIGN CHOICE, log entry 56). -/
opaque nominalVoltage : Nat → Nat

/-- R64: what a merge leaves of a written line where contexts of one job differ in DET. (DESIGN CHOICE, log entry 65). -/
opaque mixedLine : Nat → Line

/-- Where a group's save area keeps a line of a core's scratchpad: 16 times the bank and the bay of its die (R213, R222).
(DESIGN CHOICE, log entry 17). -/
opaque saveBank : Nat → Nat → Nat → Nat

/-- R98, R136: the code that SFCVT yields from a scalar holding the I4X marker alone, outside any block, by TYPE code.
(DESIGN CHOICE, log entry 29). -/
opaque loneMarker : Nat → Word

end Sys2Proof.Config
end

