-- ==== Sys2Proof/Syntax.lean ====
section
/-! DEFINITION. The steps of the machine: one constructor of `Instr` for each row of the opcode table. A constructor of
an instruction carries the fields of its slot (R73 to R78); a constructor of an event carries the plain data that the
event acts on. An operand specifier is kept as the seven bits of its field, which `Opnd.ofBits` reads (R80). -/

namespace Sys2Proof

/-- The element types, by their codes (R75). -/
inductive Ty where
  | i64 | i32 | i16 | i8 | u64 | u32 | u16 | u8 | f64 | f32 | f16 | bf16 | e4m3 | e5m2 | int4 | i4x
  deriving DecidableEq, Repr

/-- R75: the type of a TYPE code. -/
def Ty.ofBits (b : BitVec 4) : Ty :=
  match b.toNat with
  | 0 => .i64 | 1 => .i32 | 2 => .i16 | 3 => .i8 | 4 => .u64 | 5 => .u32 | 6 => .u16 | 7 => .u8
  | 8 => .f64 | 9 => .f32 | 10 => .f16 | 11 => .bf16 | 12 => .e4m3 | 13 => .e5m2 | 14 => .int4 | _ => .i4x

/-- R75: the TYPE code of a type. -/
def Ty.toBits : Ty → BitVec 4
  | .i64 => 0 | .i32 => 1 | .i16 => 2 | .i8 => 3 | .u64 => 4 | .u32 => 5 | .u16 => 6 | .u8 => 7
  | .f64 => 8 | .f32 => 9 | .f16 => 10 | .bf16 => 11 | .e4m3 => 12 | .e5m2 => 13 | .int4 => 14 | .i4x => 15

/-- An operand specifier, read (R80). -/
inductive Opnd where
  /-- result-queue entry by age -/
  | q (n : Nat)
  /-- named register, scalar or vector by the field's kind -/
  | reg (n : Nat)
  /-- prefetch-queue entry -/
  | f (n : Nat)
  /-- constant 56 to 63, counted from 0 (R82) -/
  | const (n : Nat)
  /-- specifier 64: the slot's long immediate -/
  | limm
  /-- short immediate (R83) -/
  | simm (v : Int)
  deriving DecidableEq, Repr

/-- R80, R83: an operand specifier. -/
def Opnd.ofBits (b : BitVec 7) : Opnd :=
  let n := b.toNat
  if n < 16 then .q n else if n < 48 then .reg (n - 16) else if n < 56 then .f (n - 48)
  else if n < 64 then .const (n - 56) else if n = 64 then .limm
  else .simm (if n < 96 then (n : Int) - 64 else (n : Int) - 128)

/-- Fields of an A-, V- or T-class slot above the opcode (R73, R74). -/
structure AvtF where
  ext : BitVec 7
  ernd : BitVec 1
  sat : BitVec 1
  ty : BitVec 4
  pinv : BitVec 1
  pred : BitVec 3
  rnd : BitVec 2
  c : BitVec 7
  b : BitVec 7
  a : BitVec 7
  dst : BitVec 6
  deriving DecidableEq, Repr

/-- Fields of a C-class slot above the opcode (R77). -/
structure CF where
  imm : BitVec 22
  cinv : BitVec 1
  cond : BitVec 3
  b : BitVec 7
  a : BitVec 7
  dst : BitVec 6
  deriving DecidableEq, Repr

/-- Fields of an M-class slot above the opcode (R76). -/
structure MF where
  off : BitVec 8
  size : BitVec 3
  dst : BitVec 6
  data : BitVec 7
  index : BitVec 7
  base : BitVec 7
  evp : BitVec 3
  scope : BitVec 3
  ord : BitVec 2
  deriving DecidableEq, Repr

/-- Fields of an E-class slot above the opcode (R78). -/
structure EF where
  cmd : BitVec 16
  scope : BitVec 3
  c : BitVec 7
  b : BitVec 7
  a : BitVec 7
  dst : BitVec 6
  deriving DecidableEq, Repr

/-- A translated request (R203): the IA and what its range set gives it. -/
structure Xl where
  ia : Nat
  pkg : Nat
  rmt : Bool
  host : Bool
  desc : Bool
  asid : Nat
  gen : Nat
  deriving DecidableEq, Repr

/-- Who made a request. -/
inductive Agent where
  | ctx (core ctx epoch : Nat)
  /-- engine 0 to 3, or 4 for the walker (R240, R295) -/
  | engine (core eng : Nat)
  | curator
  | host
  | bay (n : Nat)
  | sideBand (core : Nat)
  deriving DecidableEq, Repr

/-- The key of a store (R215): the sequence value, the source package and die (R259), the core, the segment position. -/
structure Key where
  s : Nat
  pkg : Nat
  die : Nat
  core : Nat
  pos : Nat
  deriving DecidableEq, Repr

/-- A write of up to 64 bytes to one line (R214): `xl.ia` is the line's IA, mask bit `i` covers byte `i`, poison bit `k`
covers word `k`. -/
structure LineWrite where
  xl : Xl
  data : Line
  mask : BitVec 64
  poison : BitVec 8
  deriving DecidableEq, Repr

/-- The predicate or mask that a result writes beside its queue entry (R118, R141). -/
inductive PredW where
  | none
  | c (n : Nat) (v : Bool) (poison : Bool)
  | m (n : Nat) (v : Word) (poison : Bool)
  deriving DecidableEq, Repr

/-- A result on its way to its reserved queue entry (R46). `epoch` is the task the result belongs to: a killed task's
results are dropped (R369). -/
structure ResultP where
  core : Nat
  ctx : Nat
  epoch : Nat
  id : Nat
  val : Val
  /-- named destination: its number, its kind being the value's -/
  dst : Option Nat
  pred : PredW
  deriving DecidableEq, Repr

/-- A path through Gust: routers, which bear the numbers of their cores, each with the output port taken there (R308). -/
abbrev Path := List (Nat × Nat)

/-- A read of one line on its way to its home (R213). `load` names the waiting load of the context; `view` is the core's
refresh count at issue, so that a line requested before a refresh is not kept after it. -/
structure ReadReq where
  core : Nat
  ctx : Nat
  epoch : Nat
  load : Nat
  xl : Xl
  evp : Nat
  view : Nat
  path : Path
  /-- a line of a writer's history that an LACQ replays (R218) -/
  replay : Bool
  /-- the engine that asks, with its command's number (R241); the Syrraul port by which another package's request came (R318) -/
  eng : Option (Nat × Nat) := none
  via : Option Nat := none
  /-- the privilege level that asks (R7, R269) -/
  priv : Nat := 0
  deriving DecidableEq, Repr

/-- A line on its way back to the core that missed it (R207). -/
structure FillP where
  req : ReadReq
  data : Line
  poison : BitVec 8
  /-- the PROT subcode of a fault at home, or 0 (R353) -/
  fault : Nat
  /-- the value of the home die's counter when it was read (R259) -/
  seq : Nat
  deriving DecidableEq, Repr

/-- A drained log entry (or a replayed side-log entry) on its way to its home (R215, R355). -/
structure LogPkt where
  core : Nat
  ctx : Nat
  epoch : Nat
  pos : Nat
  w : LineWrite
  key : Key
  va : Nat
  taskid : Nat
  path : Path
  /-- a replay of a parked entry (R355) -/
  replay : Bool
  /-- a host write's entry (R223) -/
  host : Bool
  /-- the level of the context whose store it is (R7) -/
  priv : Nat
  /-- the engine whose write it is, with its command's number (R241); the Syrraul port by which another package's entry came (R318) -/
  eng : Option (Nat × Nat) := none
  via : Option Nat := none
  deriving DecidableEq, Repr

/-- The operations of ATOM and RED (R234). -/
inductive AtomOp where
  | add | fadd | min | max | and | or | xor | xchg | cas
  deriving DecidableEq, Repr

/-- An ATOM or RED on its way to its home bank (R235). -/
structure AtomReq where
  core : Nat
  ctx : Nat
  epoch : Nat
  /-- queue entry of an ATOM; none for a RED -/
  id : Option Nat
  op : AtomOp
  wide : Bool
  d : Word
  e : Word
  poison : Bool
  xl : Xl
  va : Nat
  dst : Option Nat
  acquire : Bool
  /-- issued in deterministic mode (R236) -/
  det : Bool
  /-- a replay of a parked reduction (R355) -/
  replay : Bool
  /-- its number among a deterministic task's (R236) -/
  num : Nat
  /-- the sender die's counter, which the access carries (R259) -/
  seq : Nat
  taskid : Nat
  path : Path
  /-- an operand came through a port (R87) -/
  port : Bool
  /-- the Syrraul port by which another package's operation came (R318) -/
  via : Option Nat := none
  deriving DecidableEq, Repr

/-- A JOIN, or a RETIRE that joins, on its way to its join block (R123, R417). -/
structure JoinReq where
  core : Nat
  ctx : Nat
  epoch : Nat
  id : Option Nat
  dst : Option Nat
  xl : Xl
  va : Nat
  pc : Word
  taskid : Nat
  jobid : Nat
  seq : Nat
  path : Path
  /-- an operand came through a port (R87) -/
  port : Bool
  /-- the Syrraul port by which another package's join came (R318) -/
  via : Option Nat := none
  deriving DecidableEq, Repr

/-- A 32-byte continuation record with the address it was read from (R267). -/
structure RecP where
  bits : BitVec 256
  va : Nat
  /-- the job it belongs to, and whether a JOIN or a RETIRE pushed it (R265) -/
  job : Nat
  joined : Bool
  deriving DecidableEq, Repr

/-- A gang entry (R176): what the leader sends to each partner. -/
structure GangEntry where
  leader : Nat
  gid : Nat
  gang : Nat
  partner : Nat
  f : AvtF
  d1 : Word
  d2 : Word
  word : Word
  bix : Nat
  phase : Nat
  cols : BitVec 32
  colPoison : Bool
  fmode : BitVec 4
  deriving DecidableEq, Repr

/-- A subscription update (R221): one line's bytes for a subscriber region; subscriber and publisher by
group-relative index. -/
structure SubUpd where
  sub : Nat
  pub : Nat
  gid : Nat
  addr : Nat
  data : Line
  mask : BitVec 64
  poison : BitVec 8
  /-- the barrier whose arrival closed the window (R222) -/
  bar : Option Nat
  deriving DecidableEq, Repr

/-- A SUBS or UNSUB request on its way to the publisher core (R390, R222). -/
structure SubsReq where
  sub : Nat
  ctx : Nat
  epoch : Nat
  id : Nat
  dst : Option Nat
  pub : Nat
  entry : Nat
  base : Nat
  pbase : Nat
  len : Nat
  path : Path
  deriving DecidableEq, Repr

/-- A host write (R223). -/
structure HostWrite where
  ia : Nat
  data : Line
  mask : BitVec 64
  deriving DecidableEq, Repr

/-- A fault-ring record's words (R358, R359), word 1 (CYCLE) filled in when it reaches the ring unit. -/
structure RingRec where
  word0 : Word
  word2 : Word
  word3 : Word
  word4 : Word
  word5 : Word
  word6 : Word
  word7 : Word
  /-- the unit that waits on the record, if one is held -/
  held : Option Agent
  deriving DecidableEq, Repr

/-- A write to the device control space that reached its unit (R269, R419): the offset of its line, and who made it. -/
structure CtlWrite where
  off : Nat
  data : Line
  mask : BitVec 64
  core : Nat
  ctx : Nat
  host : Bool
  priv : Nat
  ia : Nat
  asidGen : Nat
  taskid : Nat
  deriving DecidableEq, Repr

/-- The steps of the machine, one constructor for each row of the opcode table. Constructors without fields stand last:
instructions whose every field has one legal value, and events that concern the unit which the state names as acting. -/
inductive Instr where
  /-- BUNDLE_ISSUE (R92). The current context's next bundle passes decode, its wait and its issue conditions, and its slots issue together in ascending slot order. -/
  | bundleIssue (core : Nat)
  /-- RESULT_PRODUCED (R46). When an instruction's latency has elapsed its value is written into its reserved queue entry, the produced bit is set and any named destination is written. -/
  | resultProduced (p : ResultP)
  /-- PFQ_ENTRY_ARRIVAL (R54). Three cycles after a PFQ an f entry receives the current value of its bound register. -/
  | pfqEntryArrival (core ctx entry stamp : Nat)
  /-- BR (R119). Unconditional delayed branch by a bundle displacement. -/
  | br (f : CF)
  /-- BRC (R119). Delayed branch taken when a uniform predicate, optionally inverted, is 1. -/
  | brc (f : CF)
  /-- BRI (R119). Delayed branch to the address in operand A. -/
  | bri (f : CF)
  /-- CALL (R119). Delayed call by displacement that pushes and writes the link pc + 128. -/
  | call (f : CF)
  /-- CALLI (R119). Delayed call to the address in A that pushes and writes the link. -/
  | calli (f : CF)
  /-- RET (R119). Delayed return to the address in A, behaving exactly as BRI. -/
  | ret (f : CF)
  /-- CALLR (R120). Calls routine RIDX of the job's image, taking the entry checkpoint and looking up the routine cache and vitrine. -/
  | callr (f : CF)
  /-- REP (R121). Repeats the instruction of a target slot a counted number of times, stepping register fields and offset. -/
  | rep (f : CF)
  /-- SPAWN (R122). Reads a 32-byte continuation record and pushes it to the core, group or die queue chosen by QSEL. -/
  | spawn (f : CF)
  /-- SPAWN_RECORD_PUSH (R122). Once SPAWN's record read returns, the record is pushed onto its chosen queue. -/
  | spawnRecordPush (core ctx epoch qsel : Nat) (r : RecP)
  /-- JOIN (R123). Drains as a release and sends an atomic decrement of a join counter to its home bay. -/
  | join (f : CF)
  /-- JOIN_COUNTER_DECREMENT (R123). At the home bay a join counter is decremented atomically and, on reaching 0, its continuation record is sent back for the joining core's die queue. -/
  | joinCounterDecrement (j : JoinReq)
  /-- BARR (R125). Arrives at a hardware barrier and waits for the phase to complete, yielding its status word. -/
  | barr (f : CF)
  /-- BARRA (R125). Records the context's arrival at a hardware barrier for the current phase. -/
  | barra (f : CF)
  /-- BARRW (R125). Waits for the phase of the context's outstanding arrival to complete and yields the status word. -/
  | barrw (f : CF)
  /-- TRAP (R127). Delivers a software trap of class TRAP with the instruction's code as subcode. -/
  | trap (f : CF)
  /-- PHASE (R125). Arrives at a barrier and, when the phase completes, switches the group's routers to a Tradewind phase and enters transfer mode. -/
  | phase (f : CF)
  /-- ADD (R130). Scalar integer add, wrapping or saturating. -/
  | add (f : AvtF)
  /-- SUB (R130). Scalar integer subtract, wrapping or saturating. -/
  | sub (f : AvtF)
  /-- MUL (R130). Low bits of a scalar integer product. -/
  | mul (f : AvtF)
  /-- MULH (R130). High bits of the signed double-width product. -/
  | mulh (f : AvtF)
  /-- MULHU (R130). High bits of the unsigned double-width product. -/
  | mulhu (f : AvtF)
  /-- DIV (R131). Signed integer division rounding toward zero on the shared divider. -/
  | div (f : AvtF)
  /-- DIVU (R131). Unsigned integer division on the shared divider. -/
  | divu (f : AvtF)
  /-- REM (R131). Signed remainder taking the dividend's sign. -/
  | rem (f : AvtF)
  /-- REMU (R131). Unsigned remainder. -/
  | remu (f : AvtF)
  /-- AND (R130). Scalar bitwise and. -/
  | and (f : AvtF)
  /-- OR (R130). Scalar bitwise or. -/
  | or (f : AvtF)
  /-- XOR (R130). Scalar bitwise exclusive or. -/
  | xor (f : AvtF)
  /-- ANDN (R130). Scalar A and not B. -/
  | andn (f : AvtF)
  /-- SHL (R130). Scalar shift left by B mod w. -/
  | shl (f : AvtF)
  /-- SHR (R130). Scalar logical shift right by B mod w. -/
  | shr (f : AvtF)
  /-- SAR (R130). Scalar arithmetic shift right by B mod w. -/
  | sar (f : AvtF)
  /-- ROTL (R130). Scalar rotate left within w bits. -/
  | rotl (f : AvtF)
  /-- CLZ (R130). Counts leading zeros of A. -/
  | clz (f : AvtF)
  /-- CTZ (R130). Counts trailing zeros of A. -/
  | ctz (f : AvtF)
  /-- POPC (R130). Counts one bits of A. -/
  | popc (f : AvtF)
  /-- MIN (R130). Signed scalar minimum. -/
  | min (f : AvtF)
  /-- MAX (R130). Signed scalar maximum. -/
  | max (f : AvtF)
  /-- MINU (R130). Unsigned scalar minimum. -/
  | minu (f : AvtF)
  /-- MAXU (R130). Unsigned scalar maximum. -/
  | maxu (f : AvtF)
  /-- SEL (R132). Selects A or B by a uniform predicate. -/
  | sel (f : AvtF)
  /-- CMP (R132). Integer compare yielding 1 or 0 and optionally writing a predicate. -/
  | cmp (f : AvtF)
  /-- LI (R132). Loads an immediate or constant. -/
  | li (f : AvtF)
  /-- MOV (R132). Copies A's 64 bits and poison. -/
  | mov (f : AvtF)
  /-- ADDA (R132). Adds B shifted left by 0 to 6 to A. -/
  | adda (f : AvtF)
  /-- EXT (R132). Extracts and extends a bit field of A. -/
  | ext (f : AvtF)
  /-- INS (R132). Inserts A's low bits into a field of C. -/
  | ins (f : AvtF)
  /-- PAND (R133). Writes the and of two predicates to a predicate. -/
  | pand (f : AvtF)
  /-- POR (R133). Writes the or of two predicates to a predicate. -/
  | por (f : AvtF)
  /-- PXOR (R133). Writes the exclusive or of two predicates to a predicate. -/
  | pxor (f : AvtF)
  /-- PNOT (R133). Writes the inverse of a predicate to a predicate. -/
  | pnot (f : AvtF)
  /-- UNIF (R133). Sets a uniform predicate from a lane mask (any, all, none) or a scalar. -/
  | unif (f : AvtF)
  /-- MFS (R134). Reads a system register. -/
  | mfs (f : AvtF)
  /-- MTS (R134). Writes a system register, effective for the next bundle. -/
  | mts (f : AvtF)
  /-- PFQ (R135). Binds up to four prefetch-queue entries to named registers. -/
  | pfq (f : AvtF)
  /-- SFADD (R136). Scalar floating add or subtract, rounded once. -/
  | sfadd (f : AvtF)
  /-- SFMUL (R136). Scalar floating multiply, rounded once. -/
  | sfmul (f : AvtF)
  /-- SFFMA (R136). Scalar fused multiply-add with optional negations, rounded once. -/
  | sffma (f : AvtF)
  /-- SFCMP (R136). Scalar floating compare yielding 1 or 0 and optionally writing a predicate. -/
  | sfcmp (f : AvtF)
  /-- SFCVT (R136). Scalar conversion between any two types by R104. -/
  | sfcvt (f : AvtF)
  /-- VADD (R142). Lane-wise floating add. -/
  | vadd (f : AvtF)
  /-- VSUB (R142). Lane-wise floating subtract. -/
  | vsub (f : AvtF)
  /-- VMUL (R142). Lane-wise floating multiply. -/
  | vmul (f : AvtF)
  /-- VFMA (R142). Lane-wise fused A·B + C, rounded once. -/
  | vfma (f : AvtF)
  /-- VFMS (R142). Lane-wise fused −(A·B) + C, rounded once. -/
  | vfms (f : AvtF)
  /-- VMIN (R142). Lane-wise floating minimum. -/
  | vmin (f : AvtF)
  /-- VMAX (R142). Lane-wise floating maximum. -/
  | vmax (f : AvtF)
  /-- VABS (R143). Clears each lane's sign bit. -/
  | vabs (f : AvtF)
  /-- VNEG (R143). Inverts each lane's sign bit. -/
  | vneg (f : AvtF)
  /-- VCPYS (R143). Copies B's sign bit onto A in each lane. -/
  | vcpys (f : AvtF)
  /-- VIADD (R144). Lane-wise integer add. -/
  | viadd (f : AvtF)
  /-- VISUB (R144). Lane-wise integer subtract. -/
  | visub (f : AvtF)
  /-- VIMUL (R144). Lane-wise integer multiply. -/
  | vimul (f : AvtF)
  /-- VAND (R144). Lane-wise bitwise and. -/
  | vand (f : AvtF)
  /-- VOR (R144). Lane-wise bitwise or. -/
  | vor (f : AvtF)
  /-- VXOR (R144). Lane-wise bitwise exclusive or. -/
  | vxor (f : AvtF)
  /-- VSHL (R144). Lane-wise shift left. -/
  | vshl (f : AvtF)
  /-- VSHR (R144). Lane-wise logical shift right. -/
  | vshr (f : AvtF)
  /-- VSAR (R144). Lane-wise arithmetic shift right. -/
  | vsar (f : AvtF)
  /-- VIMIN (R144). Lane-wise integer minimum. -/
  | vimin (f : AvtF)
  /-- VIMAX (R144). Lane-wise integer maximum. -/
  | vimax (f : AvtF)
  /-- VCMP (R145). Lane-wise compare writing a lane mask and pushing it. -/
  | vcmp (f : AvtF)
  /-- VSEL (R146). Lane-wise select of A or B by a mask. -/
  | vsel (f : AvtF)
  /-- MAND (R147). Writes the and of two masks to a mask. -/
  | mand (f : AvtF)
  /-- MOR (R147). Writes the or of two masks to a mask. -/
  | mor (f : AvtF)
  /-- MNOT (R147). Writes the inverse of a mask to a mask. -/
  | mnot (f : AvtF)
  /-- VCVT (R148). Converts vector elements between types, widening or narrowing by part. -/
  | vcvt (f : AvtF)
  /-- VSCL (R149). Scales each lane by a power of two. -/
  | vscl (f : AvtF)
  /-- VFREX_SIG (R149). Yields each lane's significand in [1, 2). -/
  | vfrexSig (f : AvtF)
  /-- VFREX_EXP (R149). Yields each lane's exponent as an integral value. -/
  | vfrexExp (f : AvtF)
  /-- VRND (R149). Rounds each lane to an integral value. -/
  | vrnd (f : AvtF)
  /-- VRCPS (R151). 12-bit seed of the reciprocal. -/
  | vrcps (f : AvtF)
  /-- VRSQS (R151). 12-bit seed of the reciprocal square root. -/
  | vrsqs (f : AvtF)
  /-- VEXP2F (R151). 12-bit seed of 2 to the fractional part. -/
  | vexp2f (f : AvtF)
  /-- VLOG2S (R151). 12-bit seed of log2 of the scaled magnitude. -/
  | vlog2s (f : AvtF)
  /-- VPOLY (R152). Evaluates a polynomial of degree 1 to 7 per lane by Horner's rule. -/
  | vpoly (f : AvtF)
  /-- VPERM (R153). Permutes lanes of A by indices in B. -/
  | vperm (f : AvtF)
  /-- VSHUF (R153). Shuffles lanes of A and B by a fixed pattern. -/
  | vshuf (f : AvtF)
  /-- VBCST (R154). Broadcasts a scalar to every lane. -/
  | vbcst (f : AvtF)
  /-- VBCST_LANE (R154). Broadcasts one lane of a vector to every lane. -/
  | vbcstLane (f : AvtF)
  /-- VEXTR (R154). Extracts one lane as a scalar. -/
  | vextr (f : AvtF)
  /-- VRED (R155). Reduces enabled lanes by add, min or max on a fixed tree. -/
  | vred (f : AvtF)
  /-- VSCAN (R156). Forms inclusive running add, min or max across lanes. -/
  | vscan (f : AvtF)
  /-- TLATCH (R168). Loads a stationary latch with 32 rows of K elements from the scratchpad. -/
  | tlatch (f : AvtF)
  /-- TTRN (R168). Loads a stationary latch transposed from K rows of 32 elements. -/
  | ttrn (f : AvtF)
  /-- TZERO (R169). Sets an accumulator's enabled columns to +0 and its tag. -/
  | tzero (f : AvtF)
  /-- TMAC (R170). Performs one matrix step into an accumulator from scratchpad rows and a latch. -/
  | tmac (f : AvtF)
  /-- TRDA (R172). Writes an accumulator to the scratchpad converted to a type. -/
  | trda (f : AvtF)
  /-- TWRA (R173). Reads 32 rows from the scratchpad into an accumulator. -/
  | twra (f : AvtF)
  /-- TGANG (R176). Sends one matrix step to several partner cores' gang queues and registers a pending barrier completion. -/
  | tgang (f : AvtF)
  /-- TILE_INSTRUCTION_START (R162). A tile instruction starts on its unit once the unit is free and hazards allow, three cycles after issue when a descriptor came through a port. -/
  | tileInstructionStart (core id : Nat)
  /-- TILE_INSTRUCTION_COMPLETE (R174). A tile instruction's latch, accumulator or tiles are written and become readable. -/
  | tileInstructionComplete (core id : Nat)
  /-- GANG_ENTRY_ARRIVAL (R176). A gang entry arrives in a partner core's gang queue 12 cycles after the leader's issue. -/
  | gangEntryArrival (core : Nat) (g : GangEntry)
  /-- GANG_SHARE_DONE (R176). A gang share finishes 20 cycles after its start and writes its accumulator. -/
  | gangShareDone (core id : Nat)
  /-- GANG_STATUS_DEPOSIT (R177). Twelve cycles after the last share is done the fail bits are deposited at the barrier on every partner and the leader. -/
  | gangStatusDeposit (gid gang : Nat)
  /-- LD (R229). Loads 1 to 8 bytes from the scratchpad, the log, the view or home. -/
  | ld (f : MF)
  /-- LDV (R229). Loads a 64- or 256-byte vector. -/
  | ldv (f : MF)
  /-- ST (R229). Stores 1 to 8 bytes to the scratchpad or appends them to the store log. -/
  | st (f : MF)
  /-- STV (R229). Stores 64 or 256 bytes of a vector. -/
  | stv (f : MF)
  /-- LDB (R230). Claims a load-block of 1 to 64 lines in the view and yields a token. -/
  | ldb (f : MF)
  /-- DISC (R231). Discards lines from the issuing core's view. -/
  | disc (f : MF)
  /-- DISC_HOME (R231). Discards lines from the view and logs a store of zeros to them. -/
  | discHome (f : MF)
  /-- LPUB (R233). Drains, waits for acknowledgements within scope, then writes the publication word. -/
  | lpub (f : MF)
  /-- LACQ (R233). Reads up to eight publication words with acquire order and replays each writer's history into the view. -/
  | lacq (f : MF)
  /-- ATOM_ADD (R235). Atomic wrapping add at the home bay returning the old value. -/
  | atomAdd (f : MF)
  /-- ATOM_FADD (R235). Atomic floating add at the home bay returning the old value. -/
  | atomFadd (f : MF)
  /-- ATOM_MIN (R235). Atomic signed minimum at the home bay. -/
  | atomMin (f : MF)
  /-- ATOM_MAX (R235). Atomic signed maximum at the home bay. -/
  | atomMax (f : MF)
  /-- ATOM_AND (R235). Atomic and at the home bay. -/
  | atomAnd (f : MF)
  /-- ATOM_OR (R235). Atomic or at the home bay. -/
  | atomOr (f : MF)
  /-- ATOM_XOR (R235). Atomic exclusive or at the home bay. -/
  | atomXor (f : MF)
  /-- ATOM_XCHG (R235). Atomic exchange at the home bay. -/
  | atomXchg (f : MF)
  /-- ATOM_CAS (R235). Atomic compare-and-swap at the home bay. -/
  | atomCas (f : MF)
  /-- RED_ADD (R235). Reduction add at the home bay with no result. -/
  | redAdd (f : MF)
  /-- RED_FADD (R235). Reduction floating add at the home bay with no result. -/
  | redFadd (f : MF)
  /-- RED_MIN (R235). Reduction signed minimum at the home bay. -/
  | redMin (f : MF)
  /-- RED_MAX (R235). Reduction signed maximum at the home bay. -/
  | redMax (f : MF)
  /-- SUBS (R237). Binds a subscriber region of this core to a publisher region of a group core. -/
  | subs (f : MF)
  /-- UNSUB (R238). Ends a subscription and waits until its last updates are applied. -/
  | unsub (f : MF)
  /-- CPY (R244). Reads a descriptor and enqueues a multi-dimensional copy on the copy engine. -/
  | cpy (f : EF)
  /-- GATH (R245). Enqueues an indexed gather on the index engine. -/
  | gath (f : EF)
  /-- SCAT (R245). Enqueues an indexed scatter on the index engine. -/
  | scat (f : EF)
  /-- COLL_ALLREDUCE (R246). Starts an all-reduce across the job's collective set. -/
  | collAllreduce (f : EF)
  /-- COLL_REDUCE_SCATTER (R246). Starts a reduce-scatter across the collective set. -/
  | collReduceScatter (f : EF)
  /-- COLL_ALLGATHER (R246). Starts an all-gather across the collective set. -/
  | collAllgather (f : EF)
  /-- COLL_BROADCAST (R246). Starts a broadcast from the root package. -/
  | collBroadcast (f : EF)
  /-- OWN_ENG (R247). Flips a range of tiles to engine ownership. -/
  | ownEng (f : EF)
  /-- OWN_THR (R247). Flips a range of tiles to thread ownership. -/
  | ownThr (f : EF)
  /-- SEMS (R248). Adds to a local semaphore at retirement. -/
  | sems (f : EF)
  /-- SEMS_REM (R248). Sends a semaphore increment to another core of the group over Gust. -/
  | semsRem (f : EF)
  /-- SEMW (R249). Waits until a semaphore reaches a threshold and subtracts it. -/
  | semw (f : EF)
  /-- CMPL (R250). Enqueues a completion-word write on the completion engine. -/
  | cmpl (f : EF)
  /-- XMIT (R251). Hands a 256-bit part of a vector to the router's local input. -/
  | xmit (f : EF)
  /-- IMUX (R252). Takes a 256-bit part from a router input into a vector. -/
  | imux (f : EF)
  /-- ITIN (R253). Starts the core's itinerary walker. -/
  | itin (f : EF)
  /-- INVAL_ALL (R351). Drops every cached translation and view line of an ASID with a stale generation. -/
  | invalAll (f : EF)
  /-- INVAL_SEG (R351). Drops a segment's translations and view lines package-wide. -/
  | invalSeg (f : EF)
  /-- INVAL_REGION (R351). Frees a 64 KiB region's homing record. -/
  | invalRegion (f : EF)
  /-- MIGR (R362). Migrates a DRAM-placed segment to a new physical address on the completion engine. -/
  | migr (f : EF)
  /-- FRING_ACK (R357). Acknowledges fault-ring records and starts resumption of held units. -/
  | fringAck (f : EF)
  /-- FRING_BASE (R255). Sets the fault ring's base and size. -/
  | fringBase (f : EF)
  /-- FRING_HEAD (R399). Yields the fault ring's head index and overflow flag. -/
  | fringHead (f : EF)
  /-- ALMC_QUERY (R343). Yields the Almanac status word of the job. -/
  | almcQuery (f : EF)
  /-- ALMC_REC (R337). Arms Almanac recording for the job into a buffer. -/
  | almcRec (f : EF)
  /-- ALMC_PLAY (R339). Arms Almanac replay for the job from a buffer. -/
  | almcPlay (f : EF)
  /-- ALMC_STOP (R337). Writes the Almanac header and disarms it. -/
  | almcStop (f : EF)
  /-- VITQ_ENTRY (R188). Yields a 64-byte vitrine entry. -/
  | vitqEntry (f : EF)
  /-- VITQ_RD (R254). Yields VITCTL or a VITMASK word. -/
  | vitqRd (f : EF)
  /-- VITQ_WR (R189). Writes VITCTL or a VITMASK word package-wide. -/
  | vitqWr (f : EF)
  /-- MON_START (R413). Starts a monitor over windows of 2^B cycles. -/
  | monStart (f : EF)
  /-- MON_STOP (R413). Freezes a monitor's readable capture. -/
  | monStop (f : EF)
  /-- MON_RD (R413). Yields a word of a monitor's readable capture. -/
  | monRd (f : EF)
  /-- ROUTINE_DISPATCH_DECISION (R190). After the delay bundle or digest computation, a CALLR chooses the native unit or the body. -/
  | routineDispatchDecision (core ctx epoch : Nat)
  /-- NATIVE_CALL_RETURN (R193). A native unit finishes a call and returns as RETR does. -/
  | nativeCallReturn (core ctx epoch : Nat)
  /-- VITRINE_CHANGEOVER (R189). A core takes a vitrine control write into force, within 64 cycles of the VITQ. -/
  | vitrineChangeover (core : Nat) (index : Nat) (value : Word)
  /-- LOG_ENTRY_ARRIVAL (R215). A drained log entry reaches its home bay and each byte is applied if its key is higher. -/
  | logEntryArrival (p : LogPkt)
  /-- LOG_ACK (R215). A bay's acknowledgement removes a drained entry from the segment and may complete a drain or free log room. -/
  | logAck (core ctx epoch pos : Nat)
  /-- PUBLICATION_WRITE (R217). After its acknowledgements and an empty side log, LPUB's publication word is written at home. -/
  | publicationWrite (core ctx epoch : Nat)
  /-- LACQ_WORD_READ (R218). A publication word read with acquire order returns and its writer's history is replayed or the view is invalidated. -/
  | lacqWordRead (core ctx epoch index : Nat)
  /-- REPLAY_REFILL (R218). A replayed line is refilled from home and pinned in the view. -/
  | replayRefill (core ctx epoch : Nat) (p : FillP)
  /-- BAY_READ_REQUEST (R213). A bay unit serves a miss at its bank, walking or faulting as needed and replying with the line. -/
  | bayReadRequest (r : ReadReq)
  /-- VIEW_FILL_ARRIVAL (R207). A fill reply arrives at the core, allocates a view line by the victim rule and may complete a load-block token. -/
  | viewFillArrival (p : FillP)
  /-- BAY_ATOMIC (R213). An ATOM or RED is performed at its home bank and a reply is sent for ATOM. -/
  | bayAtomic (r : AtomReq)
  /-- TABLE_WALK_COMPLETE (R350). A walker finishes reading the segment table and fills the translation cache or ends in a fault. -/
  | tableWalkComplete (bay id : Nat)
  /-- INVAL_COMPLETE (R351). Every bay and view cache has acknowledged an INVAL and its context is released. -/
  | invalComplete (core ctx epoch : Nat)
  /-- SUBS_REQUEST_ARRIVAL (R390). A SUBS request reaches the publisher core and a forwarding entry is allocated. -/
  | subsRequestArrival (r : SubsReq)
  /-- UNSUB_REQUEST_ARRIVAL (R222). An UNSUB request reaches the publisher, which closes and sends its open window and removes the entry. -/
  | unsubRequestArrival (r : SubsReq)
  /-- SUBS_WINDOW_TIMEOUT (R221). A coalescing window closes 32 cycles after opening and sends its update. -/
  | subsWindowTimeout (core entry stamp : Nat)
  /-- SUBSCRIPTION_UPDATE_APPLY (R221). A subscription update arrives and is written into the subscriber region as one access. -/
  | subscriptionUpdateApply (u : SubUpd)
  /-- SUBS_UPDATE_SAVED_IMAGE (R222). An update for a swapped-out subscriber is applied by its home bay to the saved scratchpad image. -/
  | subsUpdateSavedImage (u : SubUpd)
  /-- HOST_WRITE_ARRIVAL (R223). A host write enters the ingress buffer or is answered with retry when it is full. -/
  | hostWriteArrival (w : HostWrite)
  /-- HOST_READ (R321). A host read of a device IA is served at home or at the control unit, faulting or returning poisoned status. -/
  | hostRead (ia size tag : Nat)
  /-- LAUNCH_WRITE (R274). A full 64-byte write to LAUNCH enters the Curator's intake, which reads the whole launch. -/
  | launchWrite (block : Line) (host : Bool)
  /-- START_VECTOR_LAUNCH (R275). After reading the image, the Curator forms whole-die groups and starts the named contexts. -/
  | startVectorLaunch (launch : Nat)
  /-- TASK_LAUNCH (R276). After reading every descriptor and record, the Curator dispatches the launch's groups. -/
  | taskLaunch (launch : Nat)
  /-- ENSEMBLE_DISPATCH (R278). When every member can be placed, all ensemble members are sent in one batch cycle. -/
  | ensembleDispatch (launch : Nat)
  /-- RECORD_POP (R285). An idle context pops the next record from its core queue, then its group queue. -/
  | recordPop (core ctx : Nat)
  /-- AGING_RISE (R282). An aging item rises one priority level each 2^AGEK µs it waits. -/
  | agingRise (die item : Nat)
  /-- GROUP_PREEMPT (R271). GRPCMD 0 pre-empts a group. -/
  | groupPreempt (gid : Nat)
  /-- GROUP_KILL (R293). GRPCMD 1 kills every task of a group. -/
  | groupKill (gid : Nat)
  /-- GROUP_HOLD (R271). GRPCMD 2 pre-empts a group and keeps it out of dispatch. -/
  | groupHold (gid : Nat)
  /-- GROUP_RELEASE (R271). GRPCMD 3 returns a held group to dispatch. -/
  | groupRelease (gid : Nat)
  /-- PREEMPT_SAVE (R290). When the stopped group has quiesced, its contexts are rolled back and its state is written to the save area. -/
  | preemptSave (gid : Nat)
  /-- PREEMPT_RELEASE (R290). When the save ends, caches are dropped, cores are released and the group enters its dispatch queue. -/
  | preemptRelease (gid : Nat)
  /-- BARRIER_PHASE_COMPLETE (R125). A barrier phase completes at every core 12 cycles after the last arrival, death, deposit or update it waits for. -/
  | barrierPhaseComplete (gid bix phase : Nat)
  /-- DOLDRUMS_EXPIRY (R298). A group's sink-free counter reaches 2^DOLDN cycles and hang records are written. -/
  | doldrumsExpiry (gid stamp : Nat)
  /-- ENGINE_COMMAND_START (R240). An engine starts the next queued command and moves its lines one per cycle. -/
  | engineCommandStart (core eng : Nat)
  /-- ENGINE_COMMAND_COMPLETE (R243). A command's last write performs, its token is produced and its bundle's signal may be added. -/
  | engineCommandComplete (core eng : Nat)
  /-- OWN_FLIP_EFFECT (R206). A pending ownership flip takes effect once the accesses it waits for have performed. -/
  | ownFlipEffect (core id : Nat)
  /-- REMOTE_SEMS_ARRIVAL (R248). A remote semaphore increment arrives at its target core. -/
  | remoteSemsArrival (core sem inc : Nat)
  /-- COLL_CONTRIBUTION (R323). A contribution reaches the lowest member's port, which folds all contributions and sends the result. -/
  | collContribution (set index pkg : Nat) (data : List Word)
  /-- COLL_RESULT_DELIVERY (R323). A collective's result reaches a member, which places it and produces its token. -/
  | collResultDelivery (core : Nat) (data : List Word) (fail : Word)
  /-- COLL_ABSENT_TIMEOUT (R324). A member missing after 2^CTMO cycles fails the collective with GANGFAIL ABSENT. -/
  | collAbsentTimeout (set index : Nat)
  /-- PRESENCE_MESSAGE (R388). A package's presence message for an ensemble reaches a member package. -/
  | presenceMessage (jobid pkg : Nat)
  /-- FAULT_RECORD_WRITE (R356). A record is written at the fault ring's head, waiting while the ring is full. -/
  | faultRecordWrite (r : RingRec)
  /-- HELD_ACCESS_REMAKE (R357). An acknowledged held load or engine access is made again, one per cycle in record order. -/
  | heldAccessRemake (who : Agent)
  /-- SIDE_LOG_REPLAY (R355). Parked entries of an acknowledged segment are tried again with their original keys. -/
  | sideLogReplay (core segment : Nat)
  /-- RETRY_RESPONSE (R320). A refused packet's sender starts its back-off. -/
  | retryResponse (id : Nat)
  /-- RETRY_BACKOFF_EXPIRY (R320). A back-off of 128·2^min(k−1,7) cycles ends and the packet is sent again. -/
  | retryBackoffExpiry (id : Nat)
  /-- FLIT_CRC_REPLAY (R383). A flit with a bad CRC is replayed by its sender, up to 8 times. -/
  | flitCrcReplay (link lane replays : Nat)
  /-- RETRAIN_COMPLETE (R383). A retrain ends after 125,000 cycles with the lanes that trained. -/
  | retrainComplete (link trained : Nat)
  /-- DRAM_BLOCK_READ (R374). A DRAM block read is delivered clean, corrected or poisoned by its outcome code, with tag check for encrypted blocks. -/
  | dramBlockRead (pa outcome symbol : Nat) (enc tagOk : Bool)
  /-- PARITY_RETRY (R375). A parity-mismatched transfer is retried 16 cycles later, narrowing or failing the channel after four attempts. -/
  | parityRetry (pa attempt : Nat) (groups : BitVec 8)
  /-- CHANNEL_NARROW_COMPLETE (R375). After 256 cycles a narrowed channel serves again at half width. -/
  | channelNarrowComplete (channel pa : Nat)
  /-- SCRUB_BLOCK (R379). The patrol scrubber decodes, tag-checks and may write back one block per channel every 2^RATE cycles. -/
  | scrubBlock (block : Nat)
  /-- THROTTLE_WINDOW_END (R406). At each 2^20-cycle window end THR rises or falls against the power cap. -/
  | throttleWindowEnd (power : Nat)
  /-- JUNCTION_TEMPERATURE_CHANGE (R404). The hottest junction crosses 105 °C or 115 °C, holding throttle at 7 or resetting the module. -/
  | junctionTemperatureChange (die celsius : Nat)
  /-- MONITOR_WINDOW_END (R413). A monitor's working capture becomes readable and a new window begins. -/
  | monitorWindowEnd (core monitor stamp : Nat)
  /-- MERGE (R331). When a merge set's entries have reached home, conflicts are found and logs, reductions and deferred words are applied in merge-identity order. -/
  | merge (set : Nat)
  /-- ALMANAC_WAIT_TIMEOUT (R340). A named record absent for 2^ALMTMO cycles raises ALMANAC MISMATCH. -/
  | almanacWaitTimeout (core ctx stamp : Nat)
  /-- GUSTPATH_WRITE (R401). A GUSTPATH write sets ring directions and shared-slot limits at every router of the die. -/
  | gustpathWrite (die : Nat) (value : Word)
  /-- TBLWR_WRITE (R397). A whole TBLWR write stores 8 bytes to DRAM and drops every bay's copy of the line. -/
  | tblwrWrite (w : CtlWrite)
  /-- M3_EXTEND (R409). A 32-byte write extends measurement M3 by SM3. -/
  | m3Extend (w : CtlWrite)
  /-- QUOTE_NONCE_WRITE (R410). A nonce write clears DONE and starts an attestation quote. -/
  | quoteNonceWrite (nonce : BitVec 256)
  /-- QUOTE_COMPLETE (R410). The device writes the quote signature and sets DONE. -/
  | quoteComplete (stamp : Nat)
  /-- CONTROL_REGISTER_WRITE (R419). A write to a control-space register without a row of its own merges its bytes or is discarded with a record. -/
  | controlRegisterWrite (w : CtlWrite)
  /-- RESET (R408). Power-on, thermal or host reset clears state and runs firmware bring-up to the supervisor's launch. -/
  | reset (cause : Nat)
  /-- NOP (R72). An all-zero slot does nothing. -/
  | nop
  /-- RETR (R120). Returns from a routine body to the routine link and clears ROUTIDX. -/
  | retr
  /-- CKPT (R120). Inside a routine, takes a new checkpoint image and seals the log segment at LOGTAIL. -/
  | ckpt
  /-- RETIRE (R124). Drains the log segment, joins on JOINADDR if set, then pops the next record or goes idle. -/
  | retire
  /-- YIELD (R124). If a record of equal or higher priority waits, saves the task as a resume record on the core queue and pops the next record. -/
  | yield
  /-- ERET (R127). Restores the trap shadow and resumes at TRAPPC, re-executing a pending delay bundle first. -/
  | eret
  /-- HALT (R124). Drains the log segment and makes the context idle without popping a record. -/
  | halt
  /-- PHEND (R306). Ends the context's part in the Tradewind phase and returns it to compute mode. -/
  | phend
  /-- ITSTOP (R253). Stops the walker at its next node boundary. -/
  | itstop
  /-- DRAIN (R233). Drains the context's log segment and waits for acknowledgement and an empty side log. -/
  | drain
  /-- CURATOR_DISPATCH (R283). The Curator assigns groups to dies and sends Docents batches of at most 64. -/
  | curatorDispatch
  /-- PREDICTIVE_WINDOW_END (R385). At each predictive window end corrected-error counts revert or lock undervolting, declare failure, or allow an undervolt step. -/
  | predictiveWindowEnd
  /-- MONITOR_PERIODIC_SAMPLE (R412). Every 1,024 cycles monitors 4 to 7 take a sample of dispatch-queue depth, store-log occupancy, junction temperature or domain voltage into their working capture. -/
  | monitorPeriodicSample
  /-- ITIN_COMMAND_NODE (R296). The walker enqueues a command node's command, or performs OWN or SEMS itself. -/
  | itinCommandNode
  /-- ITIN_CONDITION_NODE (R296). The walker compares a condition word and goes to NEXT or ALT. -/
  | itinConditionNode
  /-- ITIN_WHILE_NODE (R296). The walker decrements CNT and loops, or resets it and goes on. -/
  | itinWhileNode
  /-- ITIN_JOIN_NODE (R296). The walker waits for its commands and flips to complete before going on. -/
  | itinJoinNode
  /-- ITIN_END_NODE (R296). The walker waits as join does and produces token 1. -/
  | itinEndNode
  /-- DOCENT_PLACEMENT (R286). A Docent places the head item on the lowest free rectangle of its shape, at most once every 8 cycles. -/
  | docentPlacement
  /-- DOCENT_PREEMPTION_DECISION (R287). A Docent chooses the rectangle with fewest victim cores and pre-empts lower-priority groups. -/
  | docentPreemptionDecision
  /-- LOOSE_RECORD_BINDING (R284). A loose record at the head is bound to an idle pool context or a new pool group. -/
  | looseRecordBinding
  /-- GROUP_RESTORE (R292). A pre-empted group at the head is restored onto a rectangle and its contexts resume. -/
  | groupRestore
  /-- CMPL_WRITE (R250). After earlier commands complete and the drain, the completion word is written with release order. -/
  | cmplWrite
  /-- MIGRATION_COPY (R362). Once BUSY is 0 the segment is copied, rebound, held writes applied and the token produced. -/
  | migrationCopy
  /-- GANG_SHARE_START (R394). A queued gang share starts when the partner's array is free, checking owner bits, latch and accumulator, or aborts. -/
  | gangShareStart
  /-- ROUTER_POWER_DOWN (R316). A router idle for 2^PDI cycles powers down. -/
  | routerPowerDown
  /-- ROUTER_WAKE_SIGNAL (R316). A wake signal or local placement starts a powered-down router's wake. -/
  | routerWakeSignal
  /-- ROUTER_WAKE_COMPLETE (R316). A waking router is up WAKE cycles after the signal. -/
  | routerWakeComplete
  /-- JOB_COMPLETE (R279). When every task has ended and nothing of the job waits, the completion word is written. -/
  | jobComplete
  /-- PRESENCE_TIMEOUT (R388). Presence missing after 2^CTMO cycles fails the first COLL with GANGFAIL LAUNCH and kills the job. -/
  | presenceTimeout
  deriving DecidableEq, Repr

end Sys2Proof
end

