-- ==== Sys2Proof/Machine/State.lean ====
section
/-! DEFINITION. The state of the machine: plain data, holding every piece of state the spec gives it, and the state after
reset. Large memories and tables are sparse (`Tbl`), each with the value that an unlisted key has. -/

namespace Sys2Proof.Machine

open Sys2Proof

/-- Why the machine stops. -/
inductive Fault where
  /-- Raised by an access to a physical address that no DRAM of the module holds (R345 gives 512 GiB). Safe: the machine
  stops where no outcome is stated. -/
  | physicalHole
  deriving DecidableEq, Repr

/-- Why an instruction has no meaning here. -/
inductive Refusal where
  /-- Raised by the dispatch of an instruction that has no meaning yet. Safe: nothing is claimed of it. -/
  | notModelled (mnemonic : String)
  deriving DecidableEq, Repr

/-! ## The state of a context (R44) -/

/-- An entry of the result queue (R45). `id` names the reservation, so that a result finds its entry at any age. -/
structure QEntry where
  id : Nat
  val : Val
  produced : Bool
  deriving DecidableEq, Repr

/-- R48: the entry of a fresh queue: scalar +0, produced. (DESIGN CHOICE, log entry 1). -/
def QEntry.fresh : QEntry := ⟨0, .zero, true⟩

/-- An entry of the prefetch queue (R54). `stamp` names the binding its arrival belongs to. -/
structure PfEntry where
  bound : Bool
  vec : Bool
  reg : Nat
  arrived : Bool
  stamp : Nat
  val : Val
  deriving DecidableEq, Repr

/-- R60: an unbound entry. -/
def PfEntry.unbound : PfEntry := ⟨false, false, 0, false, 0, .zero⟩

/-- A uniform predicate with its poison flag (R55, R118). -/
structure Pred where
  v : Bool
  poison : Bool
  deriving DecidableEq, Repr

/-- A cleared predicate (R56). -/
def Pred.zero : Pred := ⟨false, false⟩

/-- A lane mask with its poison flag (R55, R139). -/
structure Mask where
  v : Word
  poison : Bool
  deriving DecidableEq, Repr

/-- A cleared mask (R56). -/
def Mask.zero : Mask := ⟨0, false⟩

/-- A destination with a write outstanding (R53): a named register, a predicate or a mask. -/
inductive Dest where
  | reg (vec : Bool) (n : Nat)
  | c (n : Nat)
  | m (n : Nat)
  deriving DecidableEq, Repr

/-- An outstanding write: the reservation it belongs to and where it goes. -/
structure Pend where
  id : Nat
  dest : Dest
  deriving DecidableEq, Repr

/-- A delayed transfer whose delay bundle is next (R89, R120). -/
inductive Xfer where
  | none
  /-- `ready`: the earliest cycle in which the target's bundle may issue (R87, R119) -/
  | goto (target : Word) (ready : Nat)
  /-- a CALLR, with its routine-table entry, the vector clobber set, and the body's first bundle (R38, R181) -/
  | callr (ridx : Nat) (entry : BitVec 256) (vclob : BitVec 32) (body : Word)
  | retr
  deriving DecidableEq, Repr

/-- The repeat in progress (R49, R50): the next issue is repetition `j` of the target slot, `left` repetitions remain
with it, and the bundle is held while the context stays on it. `bundle` is the number that its signal waits under (R70). -/
structure Rep where
  on : Bool
  held : Bool
  bits : BitVec 512
  j : Nat
  left : Nat
  bundle : Nat
  deriving DecidableEq, Repr

/-- No repeat in progress. -/
def Rep.off : Rep := ⟨false, false, 0, 0, 0, 0⟩

/-- The trap shadow (R51, R126). -/
structure Shadow where
  occupied : Bool
  q : List QEntry
  c : Tbl Pred
  m : Tbl Mask
  repCnt : Word
  repStep : Word
  priv : Word
  /-- the delayed transfer that a trapping delay bundle belongs to (R89) -/
  xfer : Xfer
  rep : Rep
  /-- results reserved before this number belong to the trapped code -/
  upto : Nat
  deriving DecidableEq, Repr

/-- An empty trap shadow. (DESIGN CHOICE, log entry 1). -/
def Shadow.empty : Shadow := ⟨false, [], .empty, .empty, 0, 0, 0, .none, .off, 0⟩

/-- The checkpoint image (R52, R182): the queue, predicates, masks and the named registers of the clobber set, with the
point at which the body resumes and the log mark. -/
structure Ckpt where
  valid : Bool
  q : List QEntry
  c : Tbl Pred
  m : Tbl Mask
  s : Tbl (Option Val)
  v : Tbl (Option Val)
  resume : Word
  mark : Nat
  /-- results reserved before this number enter the image when they are produced -/
  upto : Nat
  deriving DecidableEq, Repr

/-- No checkpoint image. (DESIGN CHOICE, log entry 1). -/
def Ckpt.none : Ckpt := ⟨false, [], .empty, .empty, .empty, .empty, 0, 0, 0⟩

/-- The system registers of a context (R61), and its eight range sets (R202), each set four words in order. -/
structure SysRegs where
  taskId : Word
  groupId : Word
  jobId : Word
  prio : Word
  asid : Word
  fmode : Word
  detmode : Word
  ckptMark : Word
  logTail : Word
  repCnt : Word
  repStep : Word
  semSel : Word
  trapCode : Word
  trapPc : Word
  trapTgt : Word
  dlyPend : Word
  trapAddr : Word
  trapVec : Word
  priv : Word
  routIdx : Word
  frame : Word
  joinAddr : Word
  imgBase : Word
  imgRt : Word
  /-- words 0 to 31: registers 0x40 to 0x5F -/
  rng : Tbl Word
  deriving DecidableEq, Repr

/-- R61: the reset values. -/
def SysRegs.reset : SysRegs :=
  { taskId := 0, groupId := 0, jobId := 0, prio := 0, asid := 0, fmode := 0, detmode := 0, ckptMark := 0, logTail := 0,
    repCnt := 0, repStep := 0, semSel := 0, trapCode := 0, trapPc := 0, trapTgt := 0, dlyPend := 0, trapAddr := 0,
    trapVec := 0, priv := 2, routIdx := BitVec.allOnes 64, frame := 0, joinAddr := 0, imgBase := 0, imgRt := 0,
    rng := .empty }

/-- An entry of a context's segment of the store log (R214). `stamps` orders the stores of the core byte by byte (R209).
Entries before a checkpoint are sealed; a sent entry waits for its acknowledgement (R215). -/
structure LogEnt where
  epoch : Nat
  pos : Nat
  va : Nat
  w : LineWrite
  stamps : Tbl Nat
  sealed : Bool
  sent : Bool
  /-- it stands in the side log (R355) -/
  parked : Bool
  key : Key
  deriving DecidableEq, Repr

/-- A load on its way (R229): what it still waits for. -/
structure PendLoad where
  num : Nat
  id : Nat
  dst : Option Nat
  vec : Bool
  va : Nat
  size : Nat
  xls : List Xl
  evp : Nat
  /-- lines gathered so far, by index, and the number of the load whose request brings each other: 0 its own -/
  lines : Tbl (Option (Line × BitVec 8))
  asked : Tbl Nat
  /-- the core's count of view drops at its issue -/
  view : Nat
  /-- bytes taken from the core's log at issue, by byte of the access, with the word's poison -/
  overlay : List (Nat × (Byte × Bool))
  /-- a fault holds it (R354) -/
  held : Bool
  /-- a load-block's tag, when this is an LDB -/
  block : Option Nat
  /-- a SPAWN's queue selector and record, when this reads one (R122) -/
  spawn : Option (Nat × RecP)
  /-- the cycle of its issue -/
  since : Nat
  pc : Word
  port : Bool
  deriving DecidableEq, Repr

/-- An acquisition-table entry (R218). -/
structure AcqEnt where
  pkg : Nat
  core : Nat
  ctx : Nat
  pos : Nat
  used : Nat
  deriving DecidableEq, Repr

/-- What a context waits for while it counts as blocked (R57, R288). -/
inductive Wait where
  | none
  /-- an engine queue with no room (R240); from 16 a native unit, busy or running the context's call (R193); 32 for registered buffers (R361) -/
  | engine (e : Nat)
  /-- a barrier phase (R125) -/
  | barrier (bix phase : Nat)
  /-- a semaphore (R249) -/
  | sem (a thr : Nat)
  /-- a drain in progress; the operation's next part follows (R233) -/
  | mem
  /-- acknowledgements of an INVAL (R255) -/
  | inval
  /-- the updates of an ended subscription (R238) -/
  | unsub
  /-- room in the store log for some entries (R214) -/
  | logRoom (n : Nat)
  /-- a load-block tag (R210) -/
  | blockTag
  /-- room in the core's (0) or group's (1) queue (R122) -/
  | queue (q : Nat)
  /-- the itinerary walker (R253) -/
  | walker
  /-- a gang queue (R178) -/
  | gang (cores : List Nat)
  /-- a faulting load (R354) -/
  | fault
  /-- an ATOM with acquire order (R235), whose entry has this number -/
  | acquire (id : Nat)
  /-- the routine digest (R120): no switch of contexts -/
  | routine
  /-- a YIELD that waits for what the context has issued (R124, R290): no switch of contexts -/
  | yield
  /-- a record read that faults (R122): the subcode, the request and its address, made a held access when the bundle is
  given up -/
  | record (sub : Nat) (x : Xl) (va : Nat)
  deriving DecidableEq, Repr

/-- The state of a context as the scheduler sees it (R288): idle, or running with what it waits for. -/
inductive Status where
  | idle
  | running
  deriving DecidableEq, Repr

/-- A memory operation that has issued and runs on (R233, R235, R123, R124, R250). -/
inductive OpKind where
  | drain
  | lpub (scope : Nat) (x : Xl)
  /-- words still to read, in order, and the replayed lines that the current one waits for -/
  | lacq (xls : List Xl) (refills : Nat)
  /-- an atomic or reduction that waits for its release's drain, or behind an earlier one -/
  | atom (release : Bool) (scope : Nat) (r : AtomReq)
  | join (j : JoinReq)
  | retire
  | halt
  /-- the drain of a CMPL that its engine runs -/
  | cmpl (scope : Nat)
  deriving DecidableEq, Repr

/-- A memory operation of a context. `begun`: its drain has begun, and covers the entries before `upto`. `sent`: its own
request is on its way. -/
structure Op where
  num : Nat
  kind : OpKind
  begun : Bool
  upto : Nat
  sent : Bool
  deriving DecidableEq, Repr

/-- A context (R44). -/
structure Ctx where
  status : Status
  wait : Wait
  /-- the task's number on this context: a result of an ended task is dropped (R369) -/
  epoch : Nat
  nextId : Nat
  /-- the earliest cycle in which the next bundle may issue (R120, R126, R127) -/
  readyAt : Nat
  pc : Word
  xfer : Xfer
  rep : Rep
  q : List QEntry
  s : Tbl Val
  v : Tbl Val
  f : Tbl PfEntry
  c : Tbl Pred
  m : Tbl Mask
  pend : List Pend
  shadow : Shadow
  ckpt : Ckpt
  link : Word
  sr : SysRegs
  log : List LogEnt
  /-- lines opened since the launch began, published lines, and the retained history by position (R214, R217) -/
  pubPos : Nat
  hist : Tbl (Option Xl)
  /-- the cycle in which the LPUB of a position issued (R412) -/
  pubAt : Tbl Nat
  acq : List AcqEnt
  loads : List PendLoad
  /-- requests that a fault holds, a list for each of its records (R354) -/
  heldOps : List (List Instr)
  /-- what a deterministic task has buffered in its interval: atomics and reductions, publication (0) and completion (1)
  words, and the lines it has read (R236, R330, R333) -/
  detAtoms : List AtomReq
  detWords : List (Nat × Xl × Word)
  detReads : List Nat
  /-- deterministic atomics and reductions that have not reached their bays -/
  detFlying : List Nat
  ops : List Op
  /-- atomics and reductions issued and not yet performed (R235) -/
  atoms : Nat
  /-- values of other dies' counters on their way with replies: what each serves, the die it comes from, the value (R259) -/
  carried : List (Nat × Nat × Nat)
  /-- arrivals whose phase has not completed: barrier and phase (R125) -/
  arrived : List (Nat × Nat)
  /-- an arrival that waits for the earlier one's phase, and whether the context then waits on (R125) -/
  again : Option (Nat × Bool)
  /-- the barrier result a waiting BARR or BARRW owes, and a waiting PHASE's phase number -/
  barRes : Option (Nat × Option Nat)
  phaseOf : Option Nat
  /-- the address of the bundle after a waiting PHASE's (R303), and whether the next bundle waits on its header's semaphore (R299) -/
  phaseAt : Word
  hdrWait : Bool
  /-- transfer mode (R125, R303) -/
  transfer : Bool
  /-- the launch was a start-vector launch (R124) -/
  startVec : Bool
  /-- the running task's record, its die-queue and restart data (R290) -/
  record : RecP
  /-- it has halted, and pops no record (R124) -/
  halted : Bool
  deriving DecidableEq, Repr

/-- R48: a fresh queue. (DESIGN CHOICE, log entry 1). -/
def freshQueue : List QEntry := List.replicate 16 .fresh

/-- R56, R60: the masks at launch, m0 all ones. (DESIGN CHOICE, log entry 1). -/
def freshMasks : Tbl Mask := ⟨[(0, ⟨BitVec.allOnes 64, false⟩)]⟩

/-- A context that no launch has used (R61; DESIGN CHOICE where the spec gives no value, log entry 1). -/
def Ctx.reset : Ctx :=
  { status := .idle, wait := .none, epoch := 0, nextId := 1, readyAt := 0, pc := 0, xfer := .none, rep := .off,
    q := freshQueue, s := .empty, v := .empty, f := .empty, c := .empty, m := freshMasks, pend := [],
    shadow := .empty, ckpt := .none, link := 0, sr := .reset, log := [], pubPos := 0, hist := .empty, pubAt := .empty, acq := [],
    loads := [], heldOps := [], detAtoms := [], detWords := [], detReads := [], detFlying := [], ops := [], atoms := 0, carried := [], arrived := [], again := none, barRes := none, phaseOf := none, phaseAt := 0, hdrWait := false,
    transfer := false, startVec := false, record := ⟨0, 0, 0, false⟩, halted := false }

/-! ## The state of a core -/

/-- A described trap: class, subcode and TRAPADDR (R65, R126). -/
structure TrapInfo where
  cls : Nat
  sub : Nat
  addr : Word
  deriving DecidableEq, Repr

/-- A line of the view cache (R207). `block` is its load-block's tag (R210). `pin` names the writers whose replay pins it, each with the
acquiring context (R218). -/
structure ViewLine where
  x : Xl
  data : Line
  poison : BitVec 8
  evp : Nat
  used : Nat
  /-- the order of the core's own stores that overlay it, by byte (R208) -/
  stamps : Tbl Nat
  pin : List (Nat × Nat)
  block : Option Nat
  deriving DecidableEq, Repr

/-- A load-block being filled (R210). -/
structure Block where
  tag : Nat
  ctx : Nat
  epoch : Nat
  id : Nat
  dst : Option Nat
  missing : Nat
  /-- an operand came through a port (R87) -/
  port : Bool
  deriving DecidableEq, Repr

/-- An accumulator (R58, R161): its tag, its elements by 32·row + column (an FP64 tile keeps its 64-bit codes in the even
member), and the poison bits of its elements or pairs. -/
structure Acc where
  fp64 : Bool
  elems : Tbl Nat
  poison : Tbl Bool
  deriving DecidableEq, Repr

/-- R58: +0 with tag FP32. (DESIGN CHOICE, log entry 1). -/
def Acc.zero : Acc := ⟨false, .empty, .empty⟩

/-- A stationary latch (R58): the format that loaded it, and row j's K element codes with their poison, by 128·j + k.
For I4X the codes are decoded elements, an outlier being kept as 256 plus its E4M3 code. -/
structure Latch where
  ty : Ty
  elems : Tbl Nat
  poison : Tbl Bool
  deriving DecidableEq, Repr

/-- R58: +0 with format FP32. (DESIGN CHOICE, log entry 1). -/
def Latch.zero : Latch := ⟨.f32, .empty, .empty⟩

/-- A tile instruction in flight (R162 to R164). -/
inductive TileKind where
  | tlatch | ttrn | tzero | tmac | trda | twra | share
  deriving DecidableEq, Repr

/-- Bytes stored to a window, with the poison of their words, that have not been performed (R166). -/
structure SpWrite where
  addr : Nat
  size : Nat
  data : Nat
  poison : Nat
  deriving DecidableEq, Repr

/-- A tile instruction or gang share on its unit (R162 to R164). -/
structure TileOp where
  id : Nat
  kind : TileKind
  f : AvtF
  d1 : Word
  d2 : Word
  /-- enabled columns, with the mask's poison, and the rounding and flush in force -/
  cols : BitVec 32
  colPoison : Bool
  fmode : BitVec 4
  start : Nat
  /-- the unit is free again, and the result is readable -/
  free : Nat
  done : Nat
  /-- tiles read and written -/
  reads : List Nat
  writes : List Nat
  /-- requests still to be served: the cycle and the rows of each -/
  sched : List (Nat × List Nat)
  /-- rows read: their bytes, and the poison bits of their words -/
  rows : Tbl (Nat × Nat)
  /-- the row whose block aborts a share when it is read (R176) -/
  bad : Option Nat
  /-- the store of its bundle's S3, performed after its last access (R166) -/
  store : Option SpWrite
  /-- the accumulator (TRDA) and the latch (TMAC) as they stood at start -/
  acc : Acc
  latch : Latch
  /-- the gang a share belongs to, and its partner index -/
  gang : Option GangEntry
  deriving DecidableEq, Repr

/-- A pending ownership flip (R206, R247). `num` orders it among the core's commands and accesses. -/
structure Flip where
  id : Nat
  num : Nat
  first : Nat
  count : Nat
  eng : Bool
  deriving DecidableEq, Repr

/-- The commands of the engines (R240). -/
inductive CmdKind where
  | cpy | gath | scat | coll | cmpl | migr
  deriving DecidableEq, Repr

/-- Bytes that a command has asked for: the number of the request, their address, their count, and where they go; once they have come, the
bytes with their words' poison, usable from a cycle; or the class and subcode of the failure that the command meets there. -/
structure Fetch where
  tag : Nat
  va : Nat
  n : Nat
  to_ : Nat
  due : Nat
  got : Option (List (Byte × Bool))
  bad : Option (Nat × Nat)
  deriving DecidableEq, Repr

/-- Bytes that a command has read and still has to write, each with its word's poison, no earlier than a cycle. -/
structure Flight where
  due : Nat
  va : Nat
  bytes : List (Byte × Bool)
  deriving DecidableEq, Repr

/-- A queued engine command (R240 to R250), with the range sets copied at issue (R204). -/
structure Cmd where
  num : Nat
  kind : CmdKind
  ctx : Nat
  epoch : Nat
  id : Nat
  dst : Option Nat
  /-- a walker's command has no token of its own (R296) -/
  walker : Bool
  f : EF
  a : Word
  b : Word
  c : Word
  bPoison : Bool
  desc : Line
  rng : Tbl Word
  asid : Word
  detmode : Word
  taskId : Word
  jobId : Word
  entered : Nat
  started : Bool
  /-- completion value once known (R243); 0 while it runs -/
  status : Word
  /-- where a copy stands: its run or element, the bytes of it asked for, and the blocks of it -/
  run : Nat
  off : Nat
  blk : Nat
  /-- the same of what has come, 4-bit slots that have come and are not yet elements, slots of elements not yet written (256 and more: an
  I4X outlier), and indices read and not yet used -/
  outRun : Nat
  outOff : Nat
  outBlk : Nat
  raw : List (Nat × Bool)
  buf : List (Nat × Bool)
  idx : List Nat
  /-- what it has asked for, what is on its way to the target, writes not yet acknowledged, and requests that a fault holds -/
  reads : List Fetch
  flights : List Flight
  acks : List Nat
  heldReqs : List Instr
  /-- the write that failed at its home: those after it are not made (R242) -/
  badTag : Option Nat
  /-- the earliest cycle of its completion -/
  finish : Nat
  /-- registered buffers whose BUSY it raised (R361) -/
  bufs : List Nat
  /-- the command waits on a held access (R241) -/
  held : Bool
  /-- the bundle whose signal waits for it (R243), and the address of the one that issued it or its ITIN (R365) -/
  bundle : Nat
  pc : Word
  deriving DecidableEq, Repr

/-- An engine: its queue and when it may start its next command (R240). -/
structure Engine where
  queue : List Cmd
  /-- commands that have made their last access and wait for their acknowledgements (R243) -/
  ending : List Cmd
  lastAccess : Nat
  deriving DecidableEq, Repr

/-- A signal that waits for its bundle's commands (R59, R243). -/
structure SigWait where
  bundle : Nat
  sem : Nat
  inc : Nat
  cmds : Nat
  deriving DecidableEq, Repr

/-- A subscribing entry (R220, R237). -/
structure SubEnt where
  entry : Nat
  base : Nat
  lines : Nat
  /-- the publisher's group-relative index -/
  pub : Nat
  pbase : Nat
  /-- updates sent and not yet applied; an UNSUB waits for the last of them, by context, once its request has reached the publisher -/
  flying : Nat
  ending : Option Nat
  gone : Bool
  /-- the cycle in which its request left -/
  sent : Nat
  deriving DecidableEq, Repr

/-- A forwarding entry with its coalescing window (R221). -/
structure FwdEnt where
  entry : Nat
  /-- the subscriber's group-relative index, its region's base, and the publisher region's base -/
  sub : Nat
  base : Nat
  lines : Nat
  pbase : Nat
  open_ : Bool
  line : Nat
  data : Line
  mask : BitVec 64
  poison : BitVec 8
  stamp : Nat
  deriving DecidableEq, Repr

/-- A side-log entry (R355): a parked write, with its position and the context it belongs to. `stamp` orders a host write among the
core's stores (R209, R260). -/
structure SideEnt where
  pos : Nat
  ctx : Nat
  epoch : Nat
  /-- the place it goes to, as `xlPlace` names it -/
  ia : Nat
  ev : Instr
  stamp : Nat
  /-- whether it is being tried again -/
  trying : Bool
  deriving DecidableEq, Repr

/-- The itinerary walker (R295 to R297). -/
structure Walker where
  running : Bool
  stopping : Bool
  ctx : Nat
  epoch : Nat
  id : Nat
  dst : Option Nat
  base : Word
  node : Nat
  rng : Tbl Word
  asid : Word
  taskId : Word
  jobId : Word
  detmode : Word
  /-- commands issued and not complete, and the first failure seen -/
  out : Nat
  fail : Word
  /-- the node of the visit in progress, or the next one's, when it has been read -/
  line : Option Line
  /-- the first cycle of that visit -/
  nodeAt : Nat
  held : Bool
  /-- flips that it has made, and remote increments that it has sent: target, semaphore, increment (R297) -/
  flips : List Nat
  sent : List (Nat × Nat × Nat)
  /-- the address of the ITIN's bundle (R365) -/
  pc : Word
  deriving DecidableEq, Repr

/-- A walker at rest. -/
def Walker.idle : Walker :=
  { running := false, stopping := false, ctx := 0, epoch := 0, id := 0, dst := none, base := 0, node := 0, rng := .empty,
    asid := 0, taskId := 0, jobId := 0, detmode := 0, out := 0, fail := 0, line := none, nodeAt := 0, held := false,
    flips := [], sent := [], pc := 0 }

/-- A capture of a monitor (R413). -/
structure Capture where
  min : Word
  max : Word
  bins : Tbl Nat
  count : Nat
  deriving DecidableEq, Repr

/-- An empty capture. -/
def Capture.empty : Capture := ⟨BitVec.allOnes 64, 0, .empty, 0⟩

/-- R413: what is read before the first window has ended: every word is 0. (DEDUCED, log entry 88). -/
def Capture.none : Capture := ⟨0, 0, .empty, 0⟩

/-- A monitor (R412, R413). -/
structure Monitor where
  on : Bool
  window : Nat
  stamp : Nat
  work : Capture
  readable : Capture
  /-- the readable capture before the last window's end, and the cycle of that end: it is read in that cycle -/
  before : Capture
  since : Nat
  deriving DecidableEq, Repr

/-- A stopped monitor. (DEDUCED, log entry 88). -/
def Monitor.off : Monitor := ⟨false, 0, 0, .empty, .none, .none, 0⟩

/-- A Tradewind router (R302 to R306): its snapshot of the running phase, and the bits present at its inputs, keyed by
input (0 north, 1 east, 2 south, 3 west, 4 local), each 256 bits with a poison bit for each of its four words. -/
structure TwRouter where
  on : Bool
  entries : List (BitVec 32)
  cycle0 : Nat
  inputs : Tbl (BitVec 256 × BitVec 4)
  /-- bits that an XMIT placed, by the cycle in which they stand at the local input -/
  coming : List (Nat × BitVec 256 × BitVec 4)
  deriving DecidableEq, Repr

/-- A router outside a phase. -/
def TwRouter.off : TwRouter := ⟨false, [], 0, .empty, []⟩

/-- A routine call in progress on a context (R120, R190 to R193): waiting for its digest, or for its native unit. -/
structure Call where
  on : Bool
  ridx : Nat
  entry : BitVec 256
  /-- the vitrine entry whose unit runs it, if any -/
  native : Option Nat
  until_ : Nat
  deriving DecidableEq, Repr

/-- No call in progress. -/
def Call.none : Call := ⟨false, 0, 0, Option.none, 0⟩

/-- A routine-cache entry (R187): the image base and routine index it is keyed by, the digest, and the vector clobber set. -/
structure RtEnt where
  imgBase : Word
  ridx : Nat
  digest : BitVec 128
  vclob : BitVec 32
  /-- the matching vitrine entry, if any (R187) -/
  entry : Option Nat
  used : Nat
  deriving DecidableEq, Repr

/-- A core (R43, R44). -/
structure Core where
  ctxs : Tbl Ctx
  /-- the context that issues, and the last one that did (R288) -/
  cur : Nat
  group : Option Nat
  /-- unusable after PIPEERR (R367), with the cycle of its last one -/
  dead : Bool
  lastPipe : Option Nat
  /-- the scratchpad, its poison by 64-bit word, and its owner bits (R205) -/
  sp : Tbl Byte
  spPoison : Tbl Bool
  owner : Tbl Bool
  flips : List Flip
  /-- flips that took effect in the last cycle in which one did: the cycle and the tiles (R394) -/
  flipped : List (Nat × Nat × Nat)
  /-- a counter that orders commands, flips and tile accesses of the core -/
  num : Nat
  sems : Tbl Nat
  semSat : BitVec 256
  accs : Tbl Acc
  latches : Tbl Latch
  tileOps : List TileOp
  /-- when each tile unit is free: array, loader, mover (R162) -/
  units : Tbl Nat
  /-- the cycle after the last array start, for throttling, and after the last TGANG issue (R178, R406); 0 before the first -/
  lastArray : Nat
  lastTgang : Nat
  gangQueue : List GangEntry
  /-- gang entries sent and not yet started, for the limit of the queue (R178) -/
  gangDue : Nat
  /-- bank requests already granted: cycle and tile (R160) -/
  banks : List (Nat × Nat)
  divFree : Nat
  /-- when each vector slot's unit is free: S4, S5 (R152) -/
  vecFree : Tbl Nat
  view : Tbl (Option ViewLine)
  viewUse : Nat
  /-- drops of view lines so far, the number of the last refresh, and of each line's last drop: a line requested before
  its drop is not kept (R262) -/
  viewGen : Nat
  viewAll : Nat
  viewDrop : Tbl Nat
  blocks : List Block
  stamp : Nat
  subs : List SubEnt
  fwds : List FwdEnt
  side : List SideEnt
  sidePos : Nat
  engines : Tbl Engine
  sigs : List SigWait
  walker : Walker
  monitors : Tbl Monitor
  queue : List RecP
  /-- tasks that yielded, by the number in their resume records (R124) -/
  yielded : List (Nat × Ctx)
  rtCache : List RtEnt
  rtUse : Nat
  /-- the vitrine controls in force at the core: VITCTL and VITMASK0 to 3 (R189) -/
  vit : Tbl Word
  /-- when each native unit is free, by UNIT code (R188, R193) -/
  natFree : Tbl Nat
  calls : Tbl Call
  tw : TwRouter
  /-- release of a pool core is due when its contexts are idle (R284) -/
  pool : Bool
  deriving DecidableEq, Repr

/-- An engine with nothing queued. -/
def Engine.idle : Engine := ⟨[], [], 0⟩

/-- A core after reset (R408). (DESIGN CHOICE, log entry 1). -/
def Core.reset : Core :=
  { ctxs := .empty, cur := 0, group := none, dead := false, lastPipe := none, sp := .empty, spPoison := .empty,
    owner := .empty, flips := [], flipped := [], num := 0, sems := .empty, semSat := 0, accs := .empty, latches := .empty, tileOps := [],
    units := .empty, lastArray := 0, lastTgang := 0, gangQueue := [], gangDue := 0, banks := [], divFree := 0,
    vecFree := .empty, view := .empty, viewUse := 0, viewGen := 0, viewAll := 0, viewDrop := .empty, blocks := [], stamp := 0, subs := [], fwds := [], side := [],
    sidePos := 0, engines := .empty, sigs := [], walker := .idle, monitors := .empty, queue := [], yielded := [], rtCache := [],
    rtUse := 0, vit := .empty, natFree := .empty, calls := .empty, tw := .off, pool := false }

/-! ## Groups, jobs and dispatch -/

/-- A barrier's current phase (R125, R177, R222, R289). -/
structure Barrier where
  phase : Nat
  arrived : List (Nat × Nat)
  died : Bool
  mcstat : BitVec 32
  gangs : Nat
  /-- updates sent from windows that the phase's arrivals closed, and not yet applied -/
  updates : Nat
  /-- the completion is on its way -/
  due : Bool
  /-- the phase is in progress: a member has arrived since it began (R289) -/
  begun : Bool
  /-- the Tradewind phase that a PHASE arrival asks for, and the tables of its cores as they stood at the last arrival (R303) -/
  tw : Option Nat
  snap : List (List (BitVec 32))
  /-- the last arrival, death or update applied (R125, R402), cores whose task died (R177), and the last phase's status -/
  since : Nat
  dead : List Nat
  prev : Word
  deriving DecidableEq, Repr

/-- A barrier that nothing has reached. -/
def Barrier.fresh : Barrier := ⟨0, [], false, 0, 0, 0, false, false, none, [], 0, [], 0⟩

/-- A gang in progress (R176). -/
structure Gang where
  id : Nat
  gid : Nat
  leader : Nat
  bix : Nat
  phase : Nat
  first : Nat
  count : Nat
  left : Nat
  fails : BitVec 32
  deriving DecidableEq, Repr

/-- Tiles that a start-vector launch writes before a core's first bundle (R36, R41): the core, the first tile, the owner, the bytes and
their words' poison. -/
structure TileInit where
  core : Nat
  tile : Nat
  eng : Bool
  len : Nat
  data : Nat
  poison : Nat
  deriving DecidableEq, Repr

/-- A group descriptor (R276), with the records it binds. `jobId` is its job's key: the JOBID, and 2^32 times a number that is not 0. -/
structure GroupDesc where
  gid : Nat
  jobId : Nat
  w : Nat
  h : Nat
  prio : Nat
  nbar : Nat
  doldn : Nat
  aging : Bool
  ens : Bool
  startVec : Bool
  pool : Bool
  /-- the launch it came from -/
  launch : Nat
  /-- records by group-relative context (R277), or entry addresses by context of the die (R275) -/
  recs : Tbl RecP
  tiles : List TileInit
  /-- levels that it has risen while it waits, and the cycle in which it began to wait in the intake (R282) -/
  rise : Nat := 0
  waits : Option Nat := none
  deriving DecidableEq, Repr

/-- The life of a placed group. -/
inductive GroupPhase where
  | placed | stopping | saving | saved | killing
  deriving DecidableEq, Repr

/-- A group of the package (R266, R286 to R293). -/
structure Group where
  desc : GroupDesc
  die : Nat
  x : Nat
  y : Nat
  phase : GroupPhase
  /-- GRPCMD 2 keeps it out of dispatch (R271) -/
  hold : Bool
  bars : List Nat
  barriers : Tbl Barrier
  queue : List RecP
  /-- the last cycle in which a sink retired, and the stamp of the watch's next expiry (R298) -/
  lastSink : Nat
  watch : Nat
  hung : Bool
  /-- the saved cores by group-relative index (R290), and the records for which its held units still wait (R363), by such an index -/
  saved : Tbl Core
  ringWait : List (Nat × RingRec) := []
  /-- the timestamp and source it first entered its queue with (R281) -/
  time : Nat
  source : Nat
  /-- the cycle in which it was stopped (R290) -/
  stopAt : Nat
  deriving DecidableEq, Repr

/-- An item of a dispatch queue (R280). -/
inductive ItemKind where
  | group (g : GroupDesc)
  | loose (r : RecP) (jobId : Nat)
  | saved (gid : Nat)
  deriving DecidableEq, Repr

/-- A dispatch item with its order keys (R281, R282). -/
structure Item where
  num : Nat
  kind : ItemKind
  level : Nat
  time : Nat
  source : Nat
  ctx : Nat
  aging : Bool
  hold : Bool
  /-- sent as an ensemble's member: it goes before any other item (R278) -/
  first : Bool
  deriving DecidableEq, Repr

/-- A die's Docent (R280, R286, R287): its queues, its last decision, and the rectangle it frees. -/
structure Docent where
  items : List Item
  nextDecision : Nat
  /-- the rectangles being freed: the item that each is for, its place, and the victims being saved (R287) -/
  making : List (Nat × Nat × Nat × List Nat)
  barsFree : List Nat
  deriving DecidableEq, Repr

/-- A Docent after reset: all 64 barriers free (R272). -/
def Docent.reset : Docent := ⟨[], 0, [], List.range 64⟩

/-- A job (R266, R273, R279). -/
structure Job where
  jobId : Nat
  trapVec : Word
  imgBase : Word
  imgRt : Word
  rng : Tbl Word
  fmode : Word
  det : Bool
  cmplAddr : Word
  cmplSeq : Word
  fail : Bool
  cls : Nat
  nonRepro : Bool
  done : Bool
  deriving DecidableEq, Repr

/-- A launch in the Curator's intake (R274). -/
structure Launch where
  num : Nat
  block : Line
  jobId : Nat
  /-- groups read and not yet assigned, oldest first -/
  groups : List GroupDesc
  ens : Bool
  time : Nat
  die : Nat
  deriving DecidableEq, Repr

/-! ## Homes, translation and faults -/

/-- A cached translation (R350). -/
structure TlbEnt where
  asid : Nat
  gen : Nat
  base : Nat
  size : Nat
  leaf : Word
  used : Nat
  deriving DecidableEq, Repr

/-- A walk in progress (R350): the misses that share it. -/
structure Walk where
  id : Nat
  asid : Nat
  gen : Nat
  region : Nat
  /-- SEGROOT as it stood when the walk started (R347) -/
  root : Word
  waiters : List Instr
  deriving DecidableEq, Repr

/-- A miss that waits for a walker (R350): the cycle of its arrival and its sender, which order it, and the request. -/
structure Miss where
  since : Nat
  who : Nat
  ev : Instr
  deriving DecidableEq, Repr

/-- R350: the order of misses that wait. -/
def Miss.before (a b : Miss) : Bool := a.since < b.since || (a.since == b.since && a.who < b.who)

/-- A bay (R16, R212, R350, R362): its translations, walkers, waiting misses, migration hold queue and the DRAM lines it
holds. -/
structure Bay where
  tlb : List TlbEnt
  tlbUse : Nat
  walks : List Walk
  waiting : List Miss
  holdQ : List Instr
  /-- lines of DRAM read into the bay, by PA bits 39:6 -/
  lines : Tbl (Line × BitVec 8)
  /-- 64 KiB regions of Hall-placed data homed here -/
  hallRegions : Nat
  /-- by bank, the cycle after the one in which it last served an operation (R213) -/
  banks : Tbl Nat
  deriving DecidableEq, Repr

/-- An empty bay. -/
def Bay.reset : Bay := ⟨[], 0, [], [], [], .empty, 0, .empty⟩

/-- A record of the region table (R212). `core` and `since` are the first requester and the cycle after its request. -/
structure Region where
  bay : Nat
  hall : Bool
  core : Nat
  since : Nat
  deriving DecidableEq, Repr

/-- A record in the fault ring that waits for its acknowledgement (R356, R357). -/
structure RingEnt where
  pos : Nat
  cycle : Nat
  r : RingRec
  deriving DecidableEq, Repr

/-- The fault ring (R255, R356, R357). -/
structure FaultRing where
  base : Nat
  log2 : Nat
  set : Bool
  head : Nat
  unacked : List RingEnt
  /-- records that wait for room, or for fring.base, oldest first, each with the cycle in which it reached the ring unit -/
  waiting : List (Nat × RingRec)
  overflow : Bool
  deriving DecidableEq, Repr

/-- The ring before fring.base (see the log). (DESIGN CHOICE, log entry 5). -/
def FaultRing.reset : FaultRing := ⟨0, 0, false, 0, [], [], false⟩

/-- A migration in progress (R362). -/
structure Migr where
  core : Nat
  ia : Nat
  size : Nat
  from_ : Nat
  to_ : Nat
  entry : Nat
  held : List Instr
  deriving DecidableEq, Repr

/-- A packet refused by its target and waiting to be sent again (R320). -/
structure Refused where
  id : Nat
  ev : Instr
  /-- its unit (16 times the core, and the unit's order), its region, and its path -/
  who : Nat
  region : Nat
  path : Path
  attempts : Nat
  /-- later packets of the same unit to the same region, which wait behind it -/
  behind : List Instr
  deriving DecidableEq, Repr

/-- A task's interval in a merge set (R327, R328, R331): its merge identity, its log entries in segment order, its atomics
and reductions in program order, its deferred words (0 publication, 1 completion), the lines it read, the loads, atomics and
reductions of it that have not reached their homes, and the engine commands of it that had not completed at its end. -/
structure MergeTask where
  taskId : Nat
  ident : Nat
  flying : List Nat
  cmds : List Nat
  entries : List LogPkt
  atoms : List AtomReq
  words : List (Nat × Xl × Word)
  reads : List Nat
  deriving DecidableEq, Repr

/-- A merge set in the making (R328): of a group's phase, given by its barrier and number, of a group's tasks that have ended since its
last merge, or of a join block; and the step that waits for its merge. -/
structure MergeSet where
  id : Nat
  jobId : Nat
  gid : Option Nat
  phase : Option (Nat × Nat)
  joinIa : Option Nat
  tasks : List MergeTask
  thenEv : Option Instr
  deriving DecidableEq, Repr

/-- The Almanac (R337 to R343). -/
structure Almanac where
  state : Nat
  jobId : Nat
  base : Nat
  log2 : Nat
  count : Nat
  complete : Bool
  mismatch : Bool
  /-- recording stopped for want of room, or binding ended -/
  ended : Bool
  asid : Nat
  records : List Word
  cursors : Tbl Nat
  /-- the job whose launches are refused for the header's sake (R339) -/
  badJob : Option Nat
  /-- the records of the cycle before `recentAt`, which their cores and contexts order (R338) -/
  recent : List Word
  recentAt : Nat
  deriving DecidableEq, Repr

/-- An Almanac that is not armed. -/
def Almanac.reset : Almanac := ⟨0, 0, 0, 0, 0, false, false, false, 0, [], .empty, none, [], 0⟩

/-- The collective port's view of one collective (R323, R324): its set and number, the core whose COLL it is here, the cycle of
its first member's issue, the contributions that have come, each beginning with CMD and C, and whether it was abandoned. -/
structure Coll where
  set : Nat
  index : Nat
  core : Option Nat
  first : Nat
  got : List (Nat × List Word)
  dead : Bool
  deriving DecidableEq, Repr

/-- A router's power state (R316). -/
structure Router where
  down : Bool
  waking : Bool
  lastUse : Nat
  /-- an idle check is due -/
  watched : Bool
  deriving DecidableEq, Repr

/-- A router in use. -/
def Router.up : Router := ⟨false, false, 0, false⟩

/-- A packet of Gust (R310): its path, its length in flits, its injection timestamp, and the step it makes some cycles after
its last flit is delivered. -/
structure Packet where
  path : Path
  flits : Nat
  ts : Nat
  after : Nat
  rank : Nat
  unit : Nat
  ev : Instr
  deriving DecidableEq, Repr

/-- A flit in a buffer: its packet, its number in it, the place on the path where it stands, and the slot it holds there
(0 shared, 1 reserved of channel 0, 2 reserved of channel 1, 3 escape). -/
structure Flit where
  pkt : Nat
  no : Nat
  hop : Nat
  vc : Nat
  slot : Nat
  deriving DecidableEq, Repr

/-- An output granted to a packet (R313), with the slot class and channel that its header took. -/
structure Grant where
  pkt : Nat
  vc : Nat
  slot : Nat
  deriving DecidableEq, Repr

/-- A packet that its unit has yet to place (R420): the cycle it is ready, its router, its unit's order there. -/
structure Placing where
  ready : Nat
  router : Nat
  order : Nat
  pkt : Packet
  deriving DecidableEq, Repr

/-- Gust (R308 to R316): packets by number, those to be placed, flits by FIFO, flits and credits on links, slots in use by
output and class, grants by output, and the routers' power. -/
structure Gust where
  pkts : Tbl (Option Packet)
  placing : List Placing
  fifos : Tbl (List Flit)
  links : List (Nat × Nat × Flit)
  credits : List (Nat × Nat)
  used : Tbl Nat
  grants : Tbl (Option Grant)
  routers : Tbl Router
  deriving DecidableEq, Repr

/-- An empty network with every router up. -/
def Gust.reset : Gust := ⟨.empty, [], .empty, [], [], .empty, .empty, .empty⟩

/-! ## The control space and the module -/

/-- The registers of the device control space (R269), under their own names; the sparse ones have the reset value of
their map for an unlisted number. -/
structure Ctl where
  schedctl : Word
  gustctl : Word
  gustpath : Tbl Word
  syrctl : Word
  linkctl : Tbl Word
  route : Tbl Word
  collTag : Tbl Word
  collMask : Tbl (BitVec 1024)
  detctl : Word
  segroot : Word
  asids : Tbl Word
  buffers : Tbl (Word × Word)
  relctl : Word
  relstat : Word
  scrubctl : Word
  edgestat : Tbl Word
  chstat : Tbl Word
  eccLog : Tbl (Word × Word)
  xferLog : Tbl (Word × Word)
  eccHead : Tbl Word
  xferHead : Tbl Word
  pwrctl : Word
  pwrstat : Word
  tblwr : Tbl Word
  m : Tbl (BitVec 256)
  nonce : BitVec 256
  quoteSig : BitVec 512
  quoteDone : Word
  quoteStamp : Nat
  /-- what the quote in progress signs (R410) -/
  quoteDigest : BitVec 256
  deriving DecidableEq, Repr

/-- R321: LINKCTL after reset. -/
def linkctlReset : Word := 0x81

/-- R322: a collective set's tag after reset, CTMO 24. -/
def collTagReset : Word := 0x0000180000000000

/-- R384: EDGESTAT and CHSTAT after reset, WIDTH 2. -/
def widthReset : Word := 2

/-- R401: GUSTPATH after reset, SHLIM 16. -/
def gustpathReset : Word := 0x0010000000000000

/-- The control space after reset. -/
def Ctl.reset : Ctl :=
  { schedctl := 0x0004_0003, gustctl := 0x000A_0F31, gustpath := .empty, syrctl := 1, linkctl := .empty, route := .empty,
    collTag := .empty, collMask := .empty, detctl := 0x0014_0001, segroot := 0, asids := .empty, buffers := .empty,
    relctl := 0x0024_0040_1020_2801, relstat := 0, scrubctl := 0x0000_0C03, edgestat := .empty, chstat := .empty,
    eccLog := .empty, xferLog := .empty, eccHead := .empty, xferHead := .empty, pwrctl := 0x00E1_0001, pwrstat := 0,
    tblwr := .empty, m := .empty, nonce := 0, quoteSig := 0, quoteDone := 0, quoteStamp := 0, quoteDigest := 0 }

/-- What the cells of a DRAM block hold beyond its data (R374): 1 one symbol in error, 2 two, 3 three or more; the symbol; and whether
a write of the block leaves the error standing. -/
structure CellErr where
  outcome : Nat
  symbol : Nat
  hard : Bool
  /-- the cycle after the last store of the block (R380) -/
  stored : Nat := 0
  deriving DecidableEq, Repr

/-- The reliability and power managers (R385, R407): corrected-error counts by array, and domain steps below nominal. -/
structure Rel where
  counts : Tbl Nat
  steps : Tbl Nat
  /-- domains whose voltage changed within the window -/
  changed : BitVec 32
  /-- the block that the scrubber takes next (R379) -/
  scrubAt : Nat
  /-- blocks whose last scrub pass corrected a symbol (R374) -/
  scrubBad : Tbl Bool
  /-- link and lane CRC failures within the lane window (R383) -/
  crc : Tbl Nat
  /-- the hottest junction of each die, in degrees (R404) -/
  temps : Tbl Nat
  /-- errors that stand in the cells of DRAM blocks, by PA bits 39:6, and the parity groups that mismatch in each coming attempt of a
  block's transfer (R374, R375): inputs of the machine -/
  cells : Tbl (Option CellErr)
  parity : Tbl (List (BitVec 8))
  /-- the groups that mismatched in the attempt that narrowed a channel (R375) -/
  narrow : Tbl (BitVec 8)
  deriving DecidableEq, Repr

/-- The managers after reset. -/
def Rel.reset : Rel := ⟨.empty, .empty, 0, 0, .empty, .empty, .empty, .empty, .empty, .empty⟩

/-- An event that is due: its cycle, its rank among the events of that cycle, and the step it is. -/
structure Due where
  cycle : Nat
  rank : Nat
  /-- the unit that acts, for an event that names none: a core, a die, a router or a job -/
  unit : Nat
  ev : Instr
  deriving DecidableEq, Repr

/-- The bundle whose slots act (R92): its core, context and slot, the context as it stood at bundle start, the slot's long
immediate, its address, and what the slots have raised. -/
structure Issue where
  core : Nat
  ctx : Nat
  slot : Nat
  pc : Word
  start : Ctx
  limm : Option (BitVec 56)
  /-- repetition of the slot, and the fields it steps: counted from 1 (R121) -/
  rep : Nat
  rstr : Nat
  ostr : Int
  trapped : Option TrapInfo
  killed : Option TrapInfo
  /-- the context must wait, with none of the bundle's effects -/
  blocked : Option Wait
  /-- the bundle must be tried again in the next cycle -/
  stalled : Bool
  /-- cycles by which the delivery of a marker's trap waits for the access that read it (R166) -/
  late : Option Nat
  /-- its T slot checks markers, and the store of its S3 waits for it (R166) -/
  checks : Bool
  spw : Option SpWrite
  /-- a slot has set the program counter itself, or keeps it -/
  jump : Bool
  /-- a CKPT takes its image when the whole bundle has acted (R182) -/
  ckpt : Bool
  cmds : Nat
  bundle : Nat
  deriving DecidableEq, Repr

/-- No bundle yet. -/
def Issue.reset : Issue :=
  { core := 0, ctx := 0, slot := 0, pc := 0, start := .reset, limm := none, rep := 1, rstr := 0, ostr := 0,
    trapped := none, killed := none, blocked := none, stalled := false, late := none, checks := false, spw := none, jump := false, ckpt := false, cmds := 0, bundle := 0 }

/-- The state of the module. -/
structure State where
  /-- CYCLE (R61): the cycles since reset -/
  cycle : Nat
  /-- the next core to be considered for issue in this cycle -/
  scan : Nat
  /-- the unit that acts in the step in progress -/
  unit : Nat
  agenda : List Due
  issue : Issue
  cores : Tbl Core
  groups : Tbl (Option Group)
  gangs : List Gang
  docents : Tbl Docent
  jobs : Tbl (Option Job)
  intake : List Launch
  /-- launches read and dispatched so far, gangs, walks and the like: a counter for fresh numbers -/
  fresh : Nat
  /-- memories: DRAM by physical address, Hall-placed data by IA, host memory by its address -/
  dram : Tbl Byte
  dramPoison : Tbl Bool
  hall : Tbl Byte
  hallPoison : Tbl Bool
  host : Tbl Byte
  /-- blocks of DRAM that hold ciphertext (R411), by PA bits 39:6: one more than the count of resets when each was written -/
  encAt : Tbl Nat
  /-- the key of the last write to each byte at home, by (place, address): even keys Hall, odd keys DRAM (R215) -/
  keys : Tbl (Option Key)
  seq : Tbl Nat
  regions : Tbl (Option Region)
  bays : Tbl Bay
  ring : FaultRing
  ingress : List HostWrite
  /-- answers to host reads: tag, status and data (R321, R372) -/
  hostReads : List (Nat × Nat × Line)
  hostRetries : Nat
  migrs : List Migr
  refused : List Refused
  merges : List MergeSet
  almanac : Almanac
  colls : List Coll
  /-- the number of the next COLL of each set (R323) -/
  collNext : Tbl Nat
  /-- presence messages by job and package (R388); package 1,024 marks a job whose first COLL has issued, 1,025 one whose members
  did not all come -/
  presence : List (Nat × Nat)
  gust : Gust
  ctl : Ctl
  rel : Rel
  /-- resets so far, and the bring-up step in progress, or the one that holds the module in reset; 0 when all have run (R408) -/
  resets : Nat
  holdStep : Nat
  /-- pipeline errors that the checks find (R364): the core, or 512 and a bay, and twice the unit, with 1 for PARITY. Units 0 to 7 are a
  slot of the next bundle, 8 to 11 an engine's next command, 12 the walker's next node, 13 the next native call, 14 the next gang
  share, 15 the bay's next atomic -/
  upsets : List (Nat × Nat)
  /-- the model's own field: a counter for free values -/
  freeCtr : Nat
  /-- a physical hole was touched -/
  stuck : Option Fault
  deriving DecidableEq, Repr

/-- R408: the machine right after reset: every register at its reset value, core 0, context 0 at PRIVLVL 2, memory with nothing
listed, the bring-up steps next. The periodic events of the module are due at the ends of their first windows.
(DESIGN CHOICE, log entries 3, 77). -/
def State.reset : State :=
  { cycle := 0, scan := 0, unit := 0,
    agenda := [⟨0, 7, 0, .reset 0⟩, ⟨1024, 3, 0, .monitorPeriodicSample⟩, ⟨4097, 3, 512, .routerPowerDown⟩, ⟨4096, 7, 0, .scrubBlock 0⟩,
      ⟨2 ^ 20, 8, 0, .throttleWindowEnd (Config.power 0)⟩, ⟨2 ^ 36, 8, 0, .predictiveWindowEnd⟩],
    issue := .reset, cores := .empty, groups := .empty, gangs := [], docents := .empty, jobs := .empty, intake := [],
    fresh := 1, dram := .empty, dramPoison := .empty, hall := .empty, hallPoison := .empty, host := .empty, encAt := .empty,
    keys := .empty, seq := .empty, regions := .empty, bays := .empty, ring := .reset, ingress := [], hostReads := [],
    hostRetries := 0, migrs := [], refused := [], merges := [], almanac := .reset, colls := [], collNext := .empty, presence := [],
    gust := .reset, ctl := .reset, rel := .reset, resets := 0, holdStep := 1, upsets := [], freeCtr := 0,
    stuck := none }

end Sys2Proof.Machine
end

