-- ==== Sys2Proof/Machine/Table.lean ====
section
/-! DEFINITION. Sparse tables: reading, writing, and the canonical form (keys strictly rising, no value equal to the one an
unlisted key has). A memory is such a table of bytes; every operation keeps the form. -/

namespace Sys2Proof.Machine

open Sys2Proof

/-- The value of a key in a list of pairs with rising keys, `d` for one that is not listed. -/
def pairsGet {α : Type} (d : α) (k : Nat) : List (Nat × α) → α
  | [] => d
  | (j, v) :: rest => if j = k then v else pairsGet d k rest

/-- A pair put in its place among rising keys, an earlier one of the key replaced. -/
def pairsPut {α : Type} (k : Nat) (v : α) : List (Nat × α) → List (Nat × α)
  | [] => [(k, v)]
  | (j, w) :: rest => if k < j then (k, v) :: (j, w) :: rest else if k = j then (k, v) :: rest else (j, w) :: pairsPut k v rest

/-- A key's value replaced: no pair is kept for one that equals `d`. -/
def pairsSet {α : Type} [DecidableEq α] (d : α) (k : Nat) (v : α) (l : List (Nat × α)) : List (Nat × α) :=
  if v = d then l.filter (fun e => e.1 != k) else pairsPut k v l

/-- The value of a key; an unlisted key has the value `d`. (DESIGN CHOICE, log entry 2). -/
def tget {α : Type} (t : Tbl α) (d : α) (k : Nat) : α := pairsGet d k t.entries

/-- The table with a key's value replaced. -/
def tset {α : Type} [DecidableEq α] (t : Tbl α) (d : α) (k : Nat) (v : α) : Tbl α := ⟨pairsSet d k v t.entries⟩

/-- The table with only the keys that satisfy a test. -/
def tfilter {α : Type} (t : Tbl α) (p : Nat → α → Bool) : Tbl α := ⟨t.entries.filter (fun e => p e.1 e.2)⟩

/-- The table with a list of pairs written in order. -/
def tsetAll {α : Type} [DecidableEq α] (t : Tbl α) (d : α) (l : List (Nat × α)) : Tbl α :=
  l.foldl (fun t e => tset t d e.1 e.2) t

/-- Pairs with keys strictly rising above a bound, none with the value `d`. -/
def pairsWf {α : Type} [DecidableEq α] (d : α) : Nat → List (Nat × α) → Bool
  | _, [] => true
  | lo, (j, v) :: rest => decide (lo ≤ j) && decide (v ≠ d) && pairsWf d (j + 1) rest

/-- The canonical form of a table whose unlisted keys have the value `d`. -/
def twf {α : Type} [DecidableEq α] (t : Tbl α) (d : α) : Bool := pairsWf d 0 t.entries

/-- A list sorted by a relation, equal ones in their order. -/
def insertBy {α : Type} (before : α → α → Bool) (x : α) : List α → List α
  | [] => [x]
  | y :: rest => if before x y then x :: y :: rest else y :: insertBy before x rest
def sortBy {α : Type} (before : α → α → Bool) (l : List α) : List α := l.foldl (fun acc x => insertBy before x acc) []

end Sys2Proof.Machine
end

