-- ==== Sys2Proof/Machine/Float.lean ====
section
/-! DEFINITION. Number formats to the bit (R93 to R107): the values of the codes of each element type, rounding, overflow,
flushing, exact sums and products, comparisons, conversions, I4X blocks, and seed rounding (R150). -/

namespace Sys2Proof.Machine

open Sys2Proof

/-- R75: the width of an element type in bits. -/
def tyWidth : Ty → Nat
  | .i64 | .u64 | .f64 => 64
  | .i32 | .u32 | .f32 => 32
  | .i16 | .u16 | .f16 | .bf16 => 16
  | .i8 | .u8 | .e4m3 | .e5m2 => 8
  | .int4 | .i4x => 4

/-- R94: the floating types. -/
def tyIsFloat : Ty → Bool
  | .f64 | .f32 | .f16 | .bf16 | .e4m3 | .e5m2 => true
  | _ => false

/-- Types whose integers are signed (R97). -/
def tyIsSigned : Ty → Bool
  | .i64 | .i32 | .i16 | .i8 | .int4 | .i4x => true
  | _ => false

/-- R94: exponent bits. -/
def tyExpBits : Ty → Nat
  | .f64 => 11 | .f32 | .bf16 => 8 | .f16 | .e5m2 => 5 | .e4m3 => 4 | _ => 0

/-- R94: fraction bits. -/
def tyFracBits : Ty → Nat
  | .f64 => 52 | .f32 => 23 | .f16 => 10 | .bf16 => 7 | .e4m3 => 3 | .e5m2 => 2 | _ => 0

/-- R94: the exponent bias. -/
def tyBias (t : Ty) : Int := ((2 ^ (tyExpBits t - 1) - 1 : Nat) : Int)

/-- A floating value, exact: `fin neg m e` is the number m·2^e with its sign, so that zeros keep theirs. -/
inductive Fp where
  | nan
  | inf (neg : Bool)
  | fin (neg : Bool) (m : Nat) (e : Int)
  deriving DecidableEq, Repr

/-- R101: the rounding modes. -/
inductive Rm where
  | rne | rtz | rdn | rup
  deriving DecidableEq, Repr

/-- R63, R74: a rounding-mode field. -/
def Rm.ofBits (b : BitVec 2) : Rm :=
  match b.toNat with | 0 => .rne | 1 => .rtz | 2 => .rdn | _ => .rup

/-- The mods of a floating operation (R63, R74, R103). -/
structure FMod where
  rm : Rm
  sat : Bool
  ftzi : Bool
  ftzo : Bool
  deriving DecidableEq, Repr

/-- RNE, saturating, no flush: the conversions of the engines (R111, R113). -/
def FMod.engine : FMod := ⟨.rne, true, false, false⟩

/-- The bits of a code from a sign, a biased exponent and a fraction. -/
def fpBits (t : Ty) (neg : Bool) (ex fr : Nat) : Nat :=
  (if neg then 2 ^ (tyWidth t - 1) else 0) + ex * 2 ^ tyFracBits t + fr

/-- R95: the canonical NaN. -/
def fpCanonNan (t : Ty) : Nat :=
  if t = .e4m3 then 0x7F
  else fpBits t false (2 ^ tyExpBits t - 1) (2 ^ (tyFracBits t - 1))

/-- R94, R102: infinity of a sign; in E4M3 the largest finite value. -/
def fpInf (t : Ty) (neg : Bool) : Nat :=
  if t = .e4m3 then fpBits t neg 15 6 else fpBits t neg (2 ^ tyExpBits t - 1) 0

/-- R94: the largest finite value of a sign. -/
def fpMaxFinite (t : Ty) (neg : Bool) : Nat :=
  if t = .e4m3 then fpBits t neg 15 6
  else fpBits t neg (2 ^ tyExpBits t - 2) (2 ^ tyFracBits t - 1)

/-- A floating code's sign bit. -/
def fpSign (t : Ty) (x : Nat) : Bool := x.testBit (tyWidth t - 1)

/-- R94: the value of a floating code. -/
def fpDecode (t : Ty) (x : Nat) : Fp :=
  let f := tyFracBits t
  let ex := x / 2 ^ f % 2 ^ tyExpBits t
  let fr := x % 2 ^ f
  let neg := fpSign t x
  let special := if t = .e4m3 then ex = 15 ∧ fr = 7 else ex = 2 ^ tyExpBits t - 1
  if special then (if t = .e4m3 ∨ fr ≠ 0 then .nan else .inf neg)
  else if ex = 0 then .fin neg fr (1 - tyBias t - f)
  else .fin neg (2 ^ f + fr) ((ex : Int) - tyBias t - f)

/-- R94: whether a floating code is a NaN. -/
def fpIsNan (t : Ty) (x : Nat) : Bool := fpDecode t x = .nan

/-- R103: whether a floating code is subnormal. -/
def fpIsSubnormal (t : Ty) (x : Nat) : Bool :=
  x / 2 ^ tyFracBits t % 2 ^ tyExpBits t = 0 && x % 2 ^ tyFracBits t != 0

/-- R103: input flush of a floating code. -/
def fpFlush (t : Ty) (flush : Bool) (x : Nat) : Nat :=
  if flush && fpIsSubnormal t x then fpBits t (fpSign t x) 0 0 else x

/-- A floating operand read under input flush. -/
def fpRead (t : Ty) (ftzi : Bool) (x : Nat) : Fp := fpDecode t (fpFlush t ftzi x)

/-- R101: m·2^e rounded to a whole multiple of 2^q; the multiple. -/
def roundToMultiple (rm : Rm) (neg : Bool) (m : Nat) (e q : Int) : Nat :=
  if q ≤ e then m * 2 ^ (e - q).toNat
  else
    let d := (q - e).toNat
    let w := m / 2 ^ d
    let r := m % 2 ^ d
    let up := match rm with
      | .rne => decide (2 * r > 2 ^ d) || (decide (2 * r = 2 ^ d) && w % 2 == 1)
      | .rtz => false
      | .rdn => neg && r != 0
      | .rup => !neg && r != 0
    if up then w + 1 else w

/-- R102: the result of an overflow. -/
def fpOverflow (t : Ty) (rm : Rm) (sat neg : Bool) : Nat :=
  if sat then fpMaxFinite t neg
  else match rm with
    | .rne => fpInf t neg
    | .rtz => fpMaxFinite t neg
    | .rdn => if neg then fpInf t neg else fpMaxFinite t neg
    | .rup => if neg then fpMaxFinite t neg else fpInf t neg

/-- R101 to R103: a nonzero exact value rounded to a floating type. -/
def fpRoundFinite (t : Ty) (md : FMod) (neg : Bool) (m : Nat) (e : Int) : Nat :=
  let f : Int := tyFracBits t
  let top : Int := e + Nat.log2 m
  let q := max (top - f) (1 - tyBias t - f)
  let n := roundToMultiple md.rm neg m e q
  let (n, q) := if n = 2 ^ (tyFracBits t + 1) then (2 ^ tyFracBits t, q + 1) else (n, q)
  if n < 2 ^ tyFracBits t then
    if md.ftzo then fpBits t neg 0 0 else fpBits t neg 0 n
  else
    let code := (q + f + tyBias t).toNat * 2 ^ tyFracBits t + (n - 2 ^ tyFracBits t)
    if code > fpMaxFinite t false then fpOverflow t md.rm md.sat neg
    else fpBits t neg 0 0 + code

/-- R95, R101 to R103: an exact value delivered in a floating type. -/
def fpRound (t : Ty) (md : FMod) : Fp → Nat
  | .nan => fpCanonNan t
  | .inf neg => fpInf t neg
  | .fin neg 0 _ => fpBits t neg 0 0
  | .fin neg (m + 1) e => fpRoundFinite t md neg (m + 1) e

/-- An exact value with its sign inverted. -/
def Fp.neg : Fp → Fp
  | .nan => .nan
  | .inf s => .inf (!s)
  | .fin s m e => .fin (!s) m e

/-- R105: the exact product. -/
def Fp.mul : Fp → Fp → Fp
  | .nan, _ | _, .nan => .nan
  | .inf s, .inf t => .inf (s ^^ t)
  | .inf s, .fin t m _ | .fin s m _, .inf t => if m = 0 then .nan else .inf (s ^^ t)
  | .fin s m e, .fin t n k => .fin (s ^^ t) (m * n) (e + k)

/-- The value of a finite number in units of 2^q. -/
def finUnits (q : Int) : Fp → Int
  | .fin s m e => let n : Int := ((m * 2 ^ (e - q).toNat : Nat) : Int); if s then -n else n
  | _ => 0

/-- The exponent of a finite nonzero number, or a bound. -/
def finExp (d : Int) : Fp → Int
  | .fin _ 0 _ => d
  | .fin _ _ e => min d e
  | _ => d

/-- R106: the exact sum of addends, with the sign of an exact zero. -/
def fpSum (rm : Rm) (xs : List Fp) : Fp :=
  if xs.any (· = .nan) then .nan
  else
    let pi := xs.any (· = .inf false)
    let ni := xs.any (· = .inf true)
    if pi && ni then .nan else if pi then .inf false else if ni then .inf true
    else
      let q := xs.foldl finExp 0
      let n := xs.foldl (fun acc x => acc + finUnits q x) 0
      if n = 0 then
        let allNeg := xs.all (fun x => match x with | .fin true 0 _ => true | _ => false)
        .fin (allNeg || rm = .rdn) 0 0
      else .fin (n < 0) n.natAbs q

/-- Magnitudes of two non-NaN values compared. -/
def fpMagLt : Fp → Fp → Bool
  | .fin _ m e, .fin _ n k => let q := min e k; m * 2 ^ (e - q).toNat < n * 2 ^ (k - q).toNat
  | .fin _ _ _, .inf _ => true
  | _, _ => false

/-- R105: the order of two non-NaN values, −0 below +0. -/
def fpLt (a b : Fp) : Bool :=
  let s : Fp → Bool := fun x => match x with | .fin n _ _ => n | .inf n => n | .nan => false
  match s a, s b with
  | true, false => true
  | false, true => false
  | false, false => fpMagLt a b
  | true, true => fpMagLt b a

/-- The compare codes of R132, R136 on floating values: 6 is unordered and 7 is ordered. -/
def fpCompare (cc : Nat) (a b : Fp) : Bool :=
  let un := a = .nan || b = .nan
  match cc with
  | 0 => !un && !fpLt a b && !fpLt b a
  | 1 => un || fpLt a b || fpLt b a
  | 2 => !un && fpLt a b
  | 3 => !un && !fpLt b a
  | 4 => !un && fpLt b a
  | 5 => !un && !fpLt a b
  | 6 => un
  | _ => !un

/-- R142, R155: an addition rounded once. (DEDUCED, log entry 31). -/
def fpAdd (t : Ty) (md : FMod) (a b : Nat) : Nat :=
  fpRound t md (fpSum md.rm [fpRead t md.ftzi a, fpRead t md.ftzi b])

/-- R142: a subtraction rounded once. -/
def fpSub (t : Ty) (md : FMod) (a b : Nat) : Nat :=
  fpRound t md (fpSum md.rm [fpRead t md.ftzi a, (fpRead t md.ftzi b).neg])

/-- R142: a product rounded once. -/
def fpMul (t : Ty) (md : FMod) (a b : Nat) : Nat :=
  fpRound t md ((fpRead t md.ftzi a).mul (fpRead t md.ftzi b))

/-- R107: ±(a·b) ± c formed exactly and rounded once. -/
def fpFma (t : Ty) (md : FMod) (np nc : Bool) (a b c : Nat) : Nat :=
  let p := (fpRead t md.ftzi a).mul (fpRead t md.ftzi b)
  let z := fpRead t md.ftzi c
  fpRound t md (fpSum md.rm [if np then p.neg else p, if nc then z.neg else z])

/-- R103: output flush of a floating code. -/
def fpFlushOut (t : Ty) (md : FMod) (x : Nat) : Nat := fpFlush t md.ftzo x

/-- R105, R142: minimum or maximum, which does not round. -/
def fpMinMax (t : Ty) (md : FMod) (mx : Bool) (a b : Nat) : Nat :=
  let a := fpFlush t md.ftzi a
  let b := fpFlush t md.ftzi b
  let x := fpDecode t a
  let y := fpDecode t b
  if x = .nan || y = .nan then fpCanonNan t
  else
    let less := fpLt x y
    fpFlushOut t md (if less ^^ mx then a else b)

/-- The low w bits of an integer. -/
def intBits (w : Nat) (x : Int) : Nat := (x % (2 ^ w : Nat)).toNat

/-- The integer of a w-bit code. -/
def intOf (sgn : Bool) (w : Nat) (x : Nat) : Int :=
  if sgn && x.testBit (w - 1) then (x : Int) - (2 ^ w : Nat) else x

/-- R97: the integer of a code of an integer type. -/
def tyInt (t : Ty) (x : Nat) : Int := intOf (tyIsSigned t) (tyWidth t) x

/-- R97, R104: the least value of an integer type. -/
def tyMin (t : Ty) : Int :=
  if t = .i4x then -7 else if tyIsSigned t then -((2 ^ (tyWidth t - 1) : Nat) : Int) else 0

/-- R97, R104: the greatest value of an integer type. -/
def tyMax (t : Ty) : Int :=
  if tyIsSigned t then ((2 ^ (tyWidth t - 1) - 1 : Nat) : Int) else ((2 ^ tyWidth t - 1 : Nat) : Int)

/-- R97: an exact integer result, wrapped or clamped. -/
def intWrap (t : Ty) (sat : Bool) (x : Int) : Nat :=
  if sat then intBits (tyWidth t) (max (tyMin t) (min (tyMax t) x)) else intBits (tyWidth t) x

/-- R104: an integer outside no range, delivered to I4X: low bits kept, the marker code replaced by −7. (DEDUCED, log entry 30). -/
def i4xWrap (sat : Bool) (x : Int) : Nat :=
  if sat then intBits 4 (max (-7) (min 7 x))
  else let c := intBits 4 x; if c = 8 then 9 else c

/-- R104: an integer to an integer type or I4X. -/
def cvtInt (t : Ty) (sat : Bool) (x : Int) : Nat :=
  if t = .i4x then i4xWrap sat x else intWrap t sat x

/-- R101: a finite value rounded to an integer. -/
def fpToInt (rm : Rm) (neg : Bool) (m : Nat) (e : Int) : Int :=
  let n : Int := roundToMultiple rm neg m e 0
  if neg then -n else n

/-- R104: an exact value delivered in any type. -/
def cvtFp (t : Ty) (md : FMod) (v : Fp) : Nat :=
  if tyIsFloat t then fpRound t md v
  else match v with
    | .nan =>
      if t = .i4x || md.sat then 0
      else intBits (tyWidth t) (if tyIsSigned t then tyMin t else tyMax t)
    | .inf neg =>
      if t = .i4x || md.sat then intBits (tyWidth t) (if neg then tyMin t else tyMax t)
      else intBits (tyWidth t) (if tyIsSigned t then tyMin t else tyMax t)
    | .fin neg m e =>
      let n := fpToInt md.rm neg m e
      if t = .i4x then i4xWrap md.sat n
      else if tyMin t ≤ n ∧ n ≤ tyMax t then intBits (tyWidth t) n
      else if md.sat then intWrap t true n
      else intBits (tyWidth t) (if tyIsSigned t then tyMin t else tyMax t)

/-- An integer as an exact value. -/
def Fp.ofInt (x : Int) : Fp := .fin (x < 0) x.natAbs 0

/-- R96: a NaN carried from one floating type to another with its payload. -/
def fpCarryNan (src dst : Ty) (x : Nat) : Nat :=
  if dst = .e4m3 then fpBits dst (fpSign src x) 15 7
  else
    let fs := tyFracBits src
    let fd := tyFracBits dst
    let fr := x % 2 ^ fs % 2 ^ (fs - 1)
    let keep := if fd ≤ fs then fr / 2 ^ (fs - fd) else fr * 2 ^ (fd - fs)
    fpBits dst (fpSign src x) (2 ^ tyExpBits dst - 1) (2 ^ (fd - 1) + keep % 2 ^ (fd - 1))

/-- An element as its source reads it: an integer, an exact floating value, the value of an I4X outlier, or a NaN with the code
that carries it. -/
inductive Elem where
  | int (x : Int)
  | fp (v : Fp)
  | outlier (v : Fp)
  | nanOf (t : Ty) (code : Nat)
  deriving DecidableEq, Repr

/-- R104: a code of a type other than I4X, as an element. -/
def elemOf (t : Ty) (ftzi : Bool) (x : Nat) : Elem :=
  if tyIsFloat t then (if fpIsNan t x then .nanOf t x else .fp (fpRead t ftzi x))
  else .int (tyInt t x)

/-- The exact value of an element. -/
def Elem.val : Elem → Fp
  | .int x => .ofInt x
  | .fp v => v
  | .outlier v => v
  | .nanOf _ _ => .nan

/-- R104: an element delivered in any type; a floating NaN keeps its payload in a floating type (R96). I4X is an integer format
(R97): an outlier beyond an integer type's range wraps as an integer does, and a NaN outlier converts as a floating NaN. (DEDUCED, log
entry 30). (DEDUCED, log entry 30). -/
def cvtElem (t : Ty) (md : FMod) : Elem → Nat
  | .int x => if tyIsFloat t then fpRound t md (.ofInt x) else cvtInt t md.sat x
  | .fp v => cvtFp t md v
  | .outlier v => match v with
    | .fin neg m e => if tyIsFloat t then fpRound t md v else cvtInt t md.sat (fpToInt md.rm neg m e)
    | _ => cvtFp t md v
  | .nanOf s code => if tyIsFloat t then fpCarryNan s t code else cvtFp t md .nan

/-- R95, R104: an element delivered in any type where no page states that a NaN keeps its payload. -/
def cvtCanon (t : Ty) (md : FMod) (x : Elem) : Nat := match x with | .nanOf _ _ => cvtFp t md .nan | x => cvtElem t md x

/-- R98: I4X slot codes in storage order, decoded; input flush reads a subnormal outlier as zero (R63). The last argument counts the slots to be given up. -/
def i4xScan (ftzi : Bool) : List Nat → Nat → List Elem
  | [], _ => []
  | _ :: rest, g + 1 => .int 0 :: i4xScan ftzi rest g
  | c :: rest, 0 =>
    if c = 8 then .outlier (fpRead .e4m3 ftzi (rest.getD 0 0 * 16 + rest.getD 1 0)) :: i4xScan ftzi rest 2
    else .int (intOf true 4 c) :: i4xScan ftzi rest 0

/-- R99: whether the scan reaches a marker in one of the block's last two slots. -/
def i4xBad : List Nat → Nat → Bool
  | [], _ => false
  | _ :: rest, g + 1 => i4xBad rest g
  | c :: rest, 0 => if c = 8 then rest.length < 2 || i4xBad rest 2 else i4xBad rest 0

/-- The nibbles of a number, low first. -/
def nibbles (n x : Nat) : List Nat := (List.range n).map (fun i => x / 2 ^ (4 * i) % 16)

/-- R150: an exact value rounded to twelve significant bits and delivered in a type. `m` carries a sticky low bit when
the value is not exact. -/
def seedRound (t : Ty) (ftzo neg : Bool) (m : Nat) (e : Int) : Nat :=
  if m = 0 then fpBits t neg 0 0
  else
    let q := e + Nat.log2 m - 11
    let n := roundToMultiple .rne neg m e q
    let top : Int := q + Nat.log2 n
    if top > tyBias t then fpInf t neg
    else fpRoundFinite t ⟨.rne, false, false, ftzo⟩ neg n q

/-- The integer square root of a number below 4^k, bit by bit. -/
def isqrt (x : Nat) : Nat → Nat
  | 0 => 0
  | k + 1 =>
    let r := isqrt (x / 4) k * 2
    if (r + 1) * (r + 1) ≤ x then r + 1 else r

/-- 2·atanh(1/3)·2^p, which is ln 2 in units of 2^-p, to within the number of terms. -/
def ln2Fix (p : Nat) : Nat :=
  ((List.range (p / 3 + 2)).foldl (fun acc k => acc + 2 ^ (p + 1) / ((2 * k + 1) * 3 ^ (2 * k + 1))) 0)

/-- The working precision of the two transcendental seeds: enough that a result of twelve bits is settled, since the
values are irrational and no operand has more than 65 bits near a midpoint. -/
def seedPrec : Nat := 256

/-- 2^f in units of 2^-p, for f = n/2^k below 1, by the exponential series. -/
def exp2Fix (n k : Nat) : Nat :=
  let p := seedPrec
  let x := n * ln2Fix p / 2 ^ k
  ((List.range 70).foldl (fun (s : Nat × Nat) i => (s.1 + s.2, s.2 * x / 2 ^ p / (i + 1))) (0, 2 ^ p)).1

/-- log2 g in units of 2^-p, for g = n/2^k in [1, 2), by the area-tangent series. -/
def log2Fix (n k : Nat) : Nat :=
  let p := seedPrec
  let z := (n - 2 ^ k) * 2 ^ p / (n + 2 ^ k)
  let ln := ((List.range (p / 3 + 2)).foldl
    (fun (s : Nat × Nat) i => (s.1 + 2 * s.2 / (2 * i + 1), s.2 * z / 2 ^ p * z / 2 ^ p)) (0, z)).1
  ln * 2 ^ p / ln2Fix p

/-- R151: the seed of the reciprocal. -/
def seedRcp (t : Ty) (ftzi ftzo : Bool) (x : Nat) : Nat :=
  match fpRead t ftzi x with
  | .nan => fpCanonNan t
  | .inf s => fpBits t s 0 0
  | .fin s m e =>
    if m = 0 then fpInf t s
    else
      let k := Nat.log2 m + 16
      let qt := 2 ^ k / m
      seedRound t ftzo s (2 * qt + (if qt * m = 2 ^ k then 0 else 1)) (-(k : Int) - e - 1)

/-- R151: the seed of the reciprocal square root. -/
def seedRsq (t : Ty) (ftzi ftzo : Bool) (x : Nat) : Nat :=
  match fpRead t ftzi x with
  | .nan => fpCanonNan t
  | .inf true => fpCanonNan t
  | .inf false => fpBits t false 0 0
  | .fin s m e =>
    if m = 0 then fpInf t s
    else if s then fpCanonNan t
    else
      -- make the exponent even, then 1/√(m·2^e) = √(4^k/m)·2^(-k - e/2)
      let (m, e) := if e % 2 = 0 then (m, e) else (2 * m, e - 1)
      let k := (Nat.log2 m + 40) / 2
      let qt := 4 ^ k / m
      let r := isqrt qt (k + 1)
      seedRound t ftzo false (2 * r + (if r * r * m = 4 ^ k then 0 else 1)) (-(k : Int) - e / 2 - 1)

/-- R151: the seed of 2^f. -/
def seedExp2 (t : Ty) (ftzi ftzo : Bool) (x : Nat) : Nat :=
  match fpRead t ftzi x with
  | .nan | .inf _ => fpCanonNan t
  | .fin s m e =>
    let one := seedRound t ftzo false 1 0
    if m = 0 || 0 ≤ e then one
    else
      let k := (-e).toNat
      let fr := m % 2 ^ k
      if fr = 0 then one
      else
        let f := if s then 2 ^ k - fr else fr
        -- with f held to 300 bits, and a sticky bit, as 2^f is not representable
        let (f, k) := if k ≤ 300 then (f, k) else (f / 2 ^ (k - 300), 300)
        seedRound t ftzo false (2 * exp2Fix f k + 1) (-(seedPrec : Int) - 1)

/-- R151: the seed of log2 of the scaled magnitude. -/
def seedLog2 (t : Ty) (ftzi ftzo : Bool) (x : Nat) : Nat :=
  match fpRead t ftzi x with
  | .nan => fpCanonNan t
  | .inf true => fpCanonNan t
  | .inf false => fpInf t false
  | .fin s m _ =>
    if m = 0 then fpInf t true
    else if s then fpCanonNan t
    else
      let k := Nat.log2 m
      if m = 2 ^ k then fpBits t false 0 0
      else seedRound t ftzo false (2 * log2Fix m k + 1) (-(seedPrec : Int) - 1)

/-- R149: A·2^m with m from B. -/
def fpScale (t : Ty) (md : FMod) (a b : Nat) : Nat :=
  match fpRead t md.ftzi a, fpRead t md.ftzi b with
  | .nan, _ | _, .nan => fpCanonNan t
  | .inf s, .inf false => fpInf t s
  | .fin s m _, .inf false => if m = 0 then fpCanonNan t else fpOverflow t md.rm md.sat s
  | .inf _, .inf true => fpCanonNan t
  | .fin s _ _, .inf true => fpBits t s 0 0
  | .inf s, .fin _ _ _ => fpInf t s
  | .fin s 0 e, .fin _ _ _ => fpRound t md (.fin s 0 e)
  | .fin s (m + 1) e, .fin bs bm be =>
    let k := max (-4200) (min 4200 (fpToInt .rtz bs bm be))
    fpRound t md (.fin s (m + 1) (e + k))

/-- R149: the significand, 1 ≤ |m| < 2 with A's sign. -/
def fpSig (t : Ty) (ftzi : Bool) (a : Nat) : Nat :=
  let a := fpFlush t ftzi a
  match fpDecode t a with
  | .nan => fpCanonNan t
  | .inf _ => a
  | .fin s m _ => if m = 0 then a else fpRound t ⟨.rne, false, false, false⟩ (.fin s m (-(Nat.log2 m : Int)))

/-- R149: the exponent as an integral value. -/
def fpExp (t : Ty) (ftzi : Bool) (a : Nat) : Nat :=
  match fpRead t ftzi a with
  | .nan => fpCanonNan t
  | .inf _ => 0
  | .fin _ m e => if m = 0 then 0 else fpRound t ⟨.rne, false, false, false⟩ (.ofInt (e + Nat.log2 m))

/-- R149: rounding to an integral value. -/
def fpIntegral (t : Ty) (md : FMod) (a : Nat) : Nat :=
  let a := fpFlush t md.ftzi a
  match fpDecode t a with
  | .nan => fpCanonNan t
  | .inf _ => a
  | .fin s m e =>
    if m = 0 then a
    else fpRound t ⟨md.rm, false, false, false⟩ (.fin s (roundToMultiple md.rm s m e 0) 0)

/-- R82: the value of constant n, counted from specifier 56, in an element type; none where it traps OPND. -/
def constCode (t : Ty) (n : Nat) : Option Nat :=
  if tyIsFloat t then
    let md : FMod := ⟨.rne, false, false, false⟩
    match n with
    | 0 => some (fpRound t md (.fin false 0 0)) | 1 => some (fpRound t md (.fin false 1 0))
    | 2 => some (fpRound t md (.fin false 2 0)) | 3 => some (fpRound t md (.fin true 1 0))
    | 4 => some (fpRound t md (.fin false 1 (-1))) | 5 => some (fpRound t md (.fin false 1 (-24)))
    | 6 => some (fpInf t false) | _ => some (fpCanonNan t)
  else match n with
    | 0 => some 0 | 1 => some 1 | 2 => some 2 | 3 => some (intBits (tyWidth t) (-1)) | _ => none

end Sys2Proof.Machine
end

