-- ==== Sys2Proof/WellFormed.lean ====
section
/-! DEFINITION. The static checks on one slot (R69 to R84, R90 step 4): which fields an instruction uses, the values each
may hold, and the first check that fails. What needs the other slots or the state (REP's target, the kinds of queue entries,
unbound f entries, grants, privilege) is checked at issue. -/

namespace Sys2Proof

open Sys2Proof.Machine

/-- The slot classes (R66). -/
inductive Cls where
  | c | a | m | v | t | e
  deriving DecidableEq, Repr

/-- R66: the class of a slot. -/
def slotCls (k : Nat) : Cls :=
  match k with | 0 => .c | 1 | 2 => .a | 3 => .m | 4 | 5 => .v | 6 => .t | _ => .e

/-- How a field is used (R79, R80, R129). -/
inductive FK where
  /-- must hold 0 -/
  | no
  /-- a scalar operand, its constants and immediates read in a type -/
  | s (t : Ty)
  /-- a vector operand -/
  | v (t : Ty)
  /-- names a predicate, or may be 0 when optional -/
  | cn (opt : Bool)
  /-- names a mask -/
  | mn
  /-- a part number below a bound -/
  | part (h : Nat)
  /-- a constant or immediate only (LI) -/
  | lit (t : Ty)
  /-- a binding of PFQ: 16 to 47, or 0 -/
  | bind
  deriving DecidableEq, Repr

/-- How DST is used (R81). -/
inductive DK where
  | none
  | s
  | v
  /-- a token, which takes no write port (R86) -/
  | tok
  /-- PFQ's fourth binding (R135) -/
  | bind
  deriving DecidableEq, Repr

/-- What an instruction's page says of its fields: whether some reserved or unused field, or unlisted mod, is set (R79); its
operand fields in field order; its destination; and whether it needs supervisor level (R88). -/
structure Rules where
  cls : Cls
  resv : Bool
  ops : List (BitVec 7 × FK)
  dk : DK
  dst : BitVec 6
  scope7 : Bool
  deriving DecidableEq, Repr

/-- The mods an instruction accepts (R74). -/
structure Mods where
  rnd : Bool
  sat : Bool
  pred : Bool
  deriving DecidableEq, Repr

/-- R97: the integer types of groups I and "all" (R130, R137). -/
def tyI (t : Ty) : Bool := decide (t.toBits.toNat < 8)
/-- The signed types ".i" of R130. -/
def tyIs (t : Ty) : Bool := decide (t.toBits.toNat < 4)
/-- The unsigned types ".u" of R130. -/
def tyIu (t : Ty) : Bool := tyI t && !tyIs t
/-- Group F (R137). -/
def tyF (t : Ty) : Bool := t = .f64 || t = .f32 || t = .f16 || t = .bf16
/-- Group G (R137). -/
def tyG (t : Ty) : Bool := t = .f64 || t = .f32
/-- Group W (R137). -/
def tyW (t : Ty) : Bool := decide (t.toBits.toNat < 14)
/-- Any type. -/
def tyAny (_ : Ty) : Bool := true

/-- The TYPE field, read. -/
def AvtF.type (f : AvtF) : Ty := .ofBits f.ty

/-- R74: the five per-instruction EXT bits of a floating instruction. -/
def AvtF.x5 (f : AvtF) : Nat := f.ext.toNat % 32

/-- The seven EXT bits. -/
def AvtF.x (f : AvtF) : Nat := f.ext.toNat

/-- R74: the FTZ bits of a floating instruction, and a test on the other five. -/
def fext (f : AvtF) (ftzi ftzo : Bool) (ok : Nat → Bool) : Bool :=
  (ftzo || f.ext.toNat < 64) && (ftzi || f.ext.toNat / 32 % 2 == 0) && ok f.x5

/-- A field marked unused holds 0 (R79). -/
def unusedOk (l : List (BitVec 7 × FK)) : Bool :=
  l.all (fun p => match p.2 with | .no => p.1 == 0 | _ => true)

/-- The rules of an A-, V- or T-class slot. -/
def avt (cls : Cls) (f : AvtF) (types : Bool) (m : Mods) (ext : Bool) (a b c : FK) (d : DK) : Rules :=
  let ops := [(f.a, a), (f.b, b), (f.c, c)]
  { cls := cls, ops := ops, dk := d, dst := f.dst, scope7 := false
    resv := !types || !ext || !unusedOk ops
      || (if m.rnd then f.ernd == 0 && f.rnd != 0 else f.ernd != 0 || f.rnd != 0)
      || (!m.sat && f.sat != 0) || (!m.pred && (f.pred != 0 || f.pinv != 0))
      || ((d == .none) && f.dst != 0) }

/-- The rules of a C-class slot: the IMM bits it uses, whether it uses COND and CINV, and its operand. -/
def cRules (f : CF) (imm : Bool) (cond : Bool) (a : FK) (d : DK) : Rules :=
  let ops := [(f.a, a), (f.b, .no)]
  { cls := .c, ops := ops, dk := d, dst := f.dst, scope7 := false
    resv := !imm || (!cond && (f.cond != 0 || f.cinv != 0)) || !unusedOk ops || ((d == .none) && f.dst != 0) }

/-- The rules of an M-class slot (R226): whether OFF and SIZE are legal, and whether it takes a scope, an eviction priority
and an order. -/
def mRules (f : MF) (off size : Bool) (scope evp ord : Bool) (base index data : FK) (d : DK) : Rules :=
  let ops := [(f.base, base), (f.index, index), (f.data, data)]
  { cls := .m, ops := ops, dk := d, dst := f.dst, scope7 := f.scope == 7
    resv := !off || !size || (!scope && f.scope != 1) || (!evp && f.evp != 4) || (!ord && f.ord != 0)
      || f.size.toNat ≥ 6 || !unusedOk ops || ((d == .none) && f.dst != 0) }

/-- The rules of an E-class slot (R239): whether CMD is legal, and the scope test. -/
def eRules (f : EF) (cmd scope : Bool) (a b c : FK) (d : DK) : Rules :=
  let ops := [(f.a, a), (f.b, b), (f.c, c)]
  { cls := .e, ops := ops, dk := d, dst := f.dst, scope7 := f.scope == 7
    resv := !cmd || !scope || !unusedOk ops || ((d == .none) && f.dst != 0) }

/-- No mods but a predicate. -/
def mPred : Mods := ⟨false, false, true⟩
/-- A predicate and SAT. -/
def mSat : Mods := ⟨false, true, true⟩
/-- All mods. -/
def mAll : Mods := ⟨true, true, true⟩
/-- A predicate and rounding. -/
def mRnd : Mods := ⟨true, false, true⟩
/-- No mods at all. -/
def mNone : Mods := ⟨false, false, false⟩

/-- An integer instruction of the A class on A and B (R130). -/
def aInt (f : AvtF) (types : Ty → Bool) (sat : Bool) (two : Bool) : Rules :=
  avt .a f (types f.type) ⟨false, sat, true⟩ (f.x == 0) (.s f.type) (if two then .s f.type else .no) .no .s

/-- A floating instruction of the V class of group F with all mods (R142). -/
def vFlt (f : AvtF) (c : FK) : Rules :=
  avt .v f (tyF f.type) mAll (fext f true true (· == 0)) (.v f.type) (.v f.type) c .v

/-- An integer instruction of the V class (R144). -/
def vInt (f : AvtF) (sat : Bool) : Rules :=
  avt .v f (tyI f.type) ⟨false, sat, true⟩ (f.x == 0) (.v f.type) (.v f.type) .no .v

/-- SFCVT and VCVT are floating when either type is (R136, R148). -/
def cvtFloating (f : AvtF) : Bool := tyIsFloat f.type || tyIsFloat (.ofBits (f.ext.truncate 4))

/-- The legality of EXT and the mods of a conversion (R136, R148). -/
def cvtMods (f : AvtF) : Mods := ⟨cvtFloating f, true, true⟩

/-- EXT of a conversion: bits 3:0 the source, bit 4 clear, FTZ only when floating. -/
def cvtExt (f : AvtF) : Bool := if cvtFloating f then fext f true true (· < 16) else f.x < 16

/-- R148: the width ratio of a conversion and whether it narrows. -/
def vcvtShape (f : AvtF) : FK × FK :=
  let ws := tyWidth (.ofBits (f.ext.truncate 4))
  let wd := tyWidth f.type
  if wd = ws then (.no, .no) else if ws < wd then (.no, .part (wd / ws)) else (.v f.type, .part (ws / wd))

/-- R134, R61: whether a system register number is assigned. -/
def sysAssigned (n : Nat) : Bool := n ≤ 0x1B || (0x40 ≤ n && n ≤ 0x5F)

/-- R61: the system registers marked RO. -/
def sysReadOnly (n : Nat) : Bool :=
  n ≤ 4 || n == 7 || n == 0x0A || n == 0x0B || (0x16 ≤ n && n ≤ 0x1B)

/-- R61: the system registers marked SRW. -/
def sysSupervisor (n : Nat) : Bool :=
  n == 5 || n == 6 || n == 9 || n == 0x0C || n == 0x0D || (0x10 ≤ n && n ≤ 0x15) || 0x40 ≤ n

/-- The fields of an ATOM or RED (R234): the operation code in OFF, .b8 or .b4. -/
def atomRules (f : MF) (op : Nat) (index : FK) (d : DK) : Rules :=
  mRules f (f.off.toNat == op) (f.size == 3 || f.size == 2) true false true (.s .i64) index (.s .i64) d

/-- The fields of GATH and SCAT (R245). -/
def gathRules (f : EF) : Rules :=
  eRules f (f.cmd.toNat / 2 ^ 13 != 7) (f.scope == 0) (.s .i64) (.s .i64) (.s .i64) .tok

/-- R246: a COLL of one kind. The type must be one of R75, and the operation 0 for kinds that only move. -/
def collRules (f : EF) (kind : Nat) : Rules :=
  let op := f.cmd.toNat / 8 % 4
  eRules f (f.cmd.toNat % 8 == kind && f.cmd.toNat / 2 ^ 9 == 0 && op != 3 && (kind < 2 || op == 0)) (f.scope == 5)
    (.s .i64) (.s .i64) (.s .i64) .tok

/-- An E-class instruction whose CMD holds one value and that takes no scope. -/
def eForm (f : EF) (cmd : Nat) (a b c : FK) (d : DK) : Rules :=
  eRules f (f.cmd.toNat == cmd) (f.scope == 0) a b c d

/-- The rules of every instruction; none for an event. -/
def Instr.rules : Instr → Option Rules
  | .nop | .retr | .ckpt | .retire | .yield | .eret | .halt | .phend | .itstop | .drain => none
  -- C class (R116)
  | .br f => some (cRules f true false .no .none)
  | .brc f => some (cRules f true true .no .none)
  | .bri f | .ret f => some (cRules f (f.imm == 0) false (.s .i64) .none)
  | .call f => some (cRules f true false .no .s)
  | .calli f => some (cRules f (f.imm == 0) false (.s .i64) .s)
  | .callr f => some (cRules f (f.imm.toNat < 1024) false .no .none)
  | .rep f => some (cRules f true false (if f.imm.toNat % 128 == 0 then .s .i64 else .no) .none)
  | .spawn f => some (cRules f (f.imm.toNat < 3) false (.s .i64) .none)
  | .join f => some (cRules f (f.imm == 0) false (.s .i64) .s)
  | .barr f | .barrw f => some (cRules f (f.imm.toNat < 64) false .no .s)
  | .barra f => some (cRules f (f.imm.toNat < 64) false .no .none)
  | .trap f => some (cRules f (f.imm.toNat < 65536) false .no .none)
  | .phase f => some (cRules f (f.imm.toNat < 512) false .no .none)
  -- A class (R130 to R136)
  | .add f | .sub f | .mul f => some (aInt f tyI true true)
  | .mulh f => some (aInt f tyIs false true)
  | .mulhu f => some (aInt f tyIu false true)
  | .div f => some (aInt f tyIs true true)
  | .rem f => some (aInt f tyIs false true)
  | .divu f | .remu f => some (aInt f tyIu false true)
  | .and f | .or f | .xor f | .andn f | .shl f | .shr f | .sar f | .rotl f => some (aInt f tyI false true)
  | .clz f | .ctz f | .popc f => some (aInt f tyI false false)
  | .min f | .max f => some (aInt f tyIs false true)
  | .minu f | .maxu f => some (aInt f tyIu false true)
  | .sel f => some (avt .a f (f.type = .i64) mPred (f.x == 0) (.s .i64) (.s .i64) (.cn false) .s)
  | .cmp f => some (avt .a f (tyI f.type) mPred (f.x < 6) (.s f.type) (.s f.type) (.cn true) .s)
  | .li f => some (avt .a f true mPred (f.x == 0) (.lit f.type) .no .no .s)
  | .mov f => some (avt .a f (f.type = .i64) mPred (f.x == 0) (.s .i64) .no .no .s)
  | .adda f => some (avt .a f (f.type = .i64) mPred (f.x < 7) (.s .i64) (.s .i64) .no .s)
  | .ext f => some (avt .a f (f.type = .i64 || f.type = .u64) mPred (f.x < 64) (.s f.type) (.s f.type) .no .s)
  | .ins f => some (avt .a f (f.type = .i64 || f.type = .u64) mPred (f.x < 64) (.s f.type) (.s f.type) (.s f.type) .s)
  | .pand f | .por f | .pxor f =>
    some (avt .a f (f.type = .i64) mPred (f.x == 0) (.cn false) (.cn false) (.cn false) .s)
  | .pnot f => some (avt .a f (f.type = .i64) mPred (f.x == 0) (.cn false) .no (.cn false) .s)
  | .unif f => some (avt .a f true mPred (f.x < 4) (if f.x = 3 then .s f.type else .mn) .no (.cn false) .s)
  | .mfs f => some (avt .a f (f.type = .i64) mPred true .no .no .no .s)
  | .mts f => some (avt .a f (f.type = .i64) mPred true (.s .i64) .no .no .none)
  | .pfq f => some (avt .a f (f.type = .i64) mNone
      (!(f.a == 0 && f.x / 64 % 2 == 1) && !(f.b == 0 && f.x / 32 % 2 == 1) && !(f.c == 0 && f.x / 16 % 2 == 1)
        && !(f.dst == 63 && f.x / 8 % 2 == 1)) .bind .bind .bind .bind)
  | .sfadd f => some (avt .a f (tyF f.type) mAll (fext f true true (· < 2)) (.s f.type) (.s f.type) .no .s)
  | .sfmul f => some (avt .a f (tyF f.type) mAll (fext f true true (· == 0)) (.s f.type) (.s f.type) .no .s)
  | .sffma f => some (avt .a f (tyF f.type) mAll (fext f true true (· < 4)) (.s f.type) (.s f.type) (.s f.type) .s)
  | .sfcmp f => some (avt .a f (tyF f.type) mPred (fext f true false (· < 8)) (.s f.type) (.s f.type) (.cn true) .s)
  | .sfcvt f => some (avt .a f true (cvtMods f) (cvtExt f) (.s (.ofBits (f.ext.truncate 4))) .no .no .s)
  -- V class (R142 to R156)
  | .vadd f | .vsub f | .vmul f => some (vFlt f .no)
  | .vfma f | .vfms f => some (vFlt f (.v f.type))
  | .vmin f | .vmax f =>
    some (avt .v f (tyF f.type) mPred (fext f true true (· == 0)) (.v f.type) (.v f.type) .no .v)
  | .vabs f | .vneg f => some (avt .v f (tyF f.type) mPred (f.x == 0) (.v f.type) .no .no .v)
  | .vcpys f => some (avt .v f (tyF f.type) mPred (f.x == 0) (.v f.type) (.v f.type) .no .v)
  | .viadd f | .visub f | .vimul f => some (vInt f true)
  | .vand f | .vor f | .vxor f | .vshl f | .vshr f | .vsar f | .vimin f | .vimax f => some (vInt f false)
  | .vcmp f => some (avt .v f (tyF f.type || tyI f.type) mPred
      (fext f true false (fun x => if tyF f.type then x < 8 else x < 6)) (.v f.type) (.v f.type) .mn .s)
  | .vsel f => some (avt .v f true mPred (f.x == 0) (.v f.type) (.v f.type) .mn .v)
  | .mand f | .mor f => some (avt .v f (f.type = .f32) mNone (f.x == 0) .mn .mn .mn .s)
  | .mnot f => some (avt .v f (f.type = .f32) mNone (f.x == 0) .mn .no .mn .s)
  | .vcvt f =>
    let sh := vcvtShape f
    some (avt .v f true (cvtMods f) (cvtExt f) (.v (.ofBits (f.ext.truncate 4))) sh.1 sh.2 .v)
  | .vscl f => some (vFlt f .no)
  | .vfrexSig f => some (avt .v f (tyF f.type) mPred (fext f true false (· == 0)) (.v f.type) .no .no .v)
  | .vfrexExp f => some (avt .v f (tyF f.type) mPred (fext f true false (· == 1)) (.v f.type) .no .no .v)
  | .vrnd f => some (avt .v f (tyF f.type) mRnd (fext f true false (· == 0)) (.v f.type) .no .no .v)
  | .vrcps f | .vrsqs f | .vexp2f f | .vlog2s f =>
    some (avt .v f (tyG f.type) mPred (fext f true true (· == 0)) (.v f.type) .no .no .v)
  | .vpoly f => some (avt .v f (tyF f.type) mAll (fext f true true (fun x => 1 ≤ x && x < 8)) (.v f.type) (.v f.type) .no .v)
  | .vperm f => some (avt .v f (tyW f.type) mPred (f.x == 0) (.v f.type) (.v f.type) .no .v)
  | .vshuf f => some (avt .v f true mPred (f.x < 6) (.v f.type) (if f.x = 5 then .no else .v f.type)
      (if f.x = 4 then .s .i64 else .no) .v)
  | .vbcst f => some (avt .v f true mPred (f.x == 0) (.s f.type) .no .no .v)
  | .vbcstLane f => some (avt .v f true mPred (f.x == 1) (.v f.type) (.s .i64) .no .v)
  | .vextr f => some (avt .v f true mNone (f.x == 0) (.v f.type) (.s .i64) .no .s)
  | .vred f => some (avt .v f (tyF f.type || tyI f.type) ⟨tyF f.type && f.x5 == 0, f.x5 == 0, true⟩
      (if tyF f.type then fext f true true (· < 3) else f.x < 3) (.v f.type) .no .no .s)
  | .vscan f => some (avt .v f (tyF f.type || tyI f.type) ⟨tyF f.type && f.x5 == 0, f.x5 == 0, true⟩
      (if tyF f.type then fext f true true (· < 3) else f.x < 3) (.v f.type) .no .no .v)
  -- T class (R167)
  | .tlatch f => some (avt .t f (tyF f.type || f.type = .e4m3 || f.type = .e5m2 || f.type = .i4x) mNone
      (f.x % 8 == 0 && f.x < 32) (.s .i64) (.s .i64) .no .none)
  | .ttrn f => some (avt .t f (tyF f.type || f.type = .e4m3 || f.type = .e5m2) mNone
      (f.x % 8 == 0 && f.x < 32) (.s .i64) (.s .i64) .no .none)
  | .tzero f => some (avt .t f (tyG f.type) mPred (f.x < 8) .no .no .no .none)
  | .tmac f => some (avt .t f (tyF f.type || f.type = .e4m3 || f.type = .e5m2 || f.type = .i4x) mAll
      true (.s .i64) (.s .i64) .no .none)
  | .tgang f => some (avt .t f (tyF f.type || f.type = .e4m3 || f.type = .e5m2 || f.type = .i4x) mAll
      true (.s .i64) (.s .i64) (.s .i64) .none)
  | .trda f => some (avt .t f (tyIsFloat f.type || f.type = .i32 || f.type = .i16 || f.type = .i8) mAll
      (if tyIsFloat f.type then fext f true true (· < 8) else f.x < 8) (.s .i64) (.s .i64) .no .none)
  | .twra f => some (avt .t f (tyIsFloat f.type) mPred (fext f true false (· < 8)) (.s .i64) (.s .i64) .no .none)
  -- M class (R226 to R238)
  | .ld f => some (mRules f true (f.size.toNat < 4) false true false (.s .i64) (.s .i64) .no .s)
  | .ldv f => some (mRules f true (f.size == 5 || f.size == 4) false true false (.s .i64) (.s .i64) .no .v)
  | .st f => some (mRules f true (f.size.toNat < 4) false true false (.s .i64) (.s .i64) (.s .i64) .none)
  | .stv f => some (mRules f true (f.size == 5 || f.size == 4) false true false (.s .i64) (.s .i64) (.v .i64) .none)
  | .ldb f => some (mRules f true (f.size == 0) false true false (.s .i64) (.s .i64) (.s .i64) .tok)
  | .disc f => some (mRules f true (f.size == 0) false false false (.s .i64) (.s .i64) (.s .i64) .none)
  | .discHome f => some (mRules f true (f.size == 1) false false false (.s .i64) (.s .i64) (.s .i64) .none)
  | .lpub f => some (mRules f true (f.size == 3) true false false (.s .i64) (.s .i64) .no .none)
  | .lacq f => some (mRules f true (f.size == 3) true false false (.s .i64) (.s .i64) (.s .i64) .none)
  | .atomAdd f => some (atomRules f 0 (.s .i64) .s) | .atomFadd f => some (atomRules f 1 (.s .i64) .s)
  | .atomMin f => some (atomRules f 2 (.s .i64) .s) | .atomMax f => some (atomRules f 3 (.s .i64) .s)
  | .atomAnd f => some (atomRules f 4 (.s .i64) .s) | .atomOr f => some (atomRules f 5 (.s .i64) .s)
  | .atomXor f => some (atomRules f 6 (.s .i64) .s) | .atomXchg f => some (atomRules f 7 (.s .i64) .s)
  | .atomCas f => some (atomRules f 8 (.s .i64) .s)
  | .redAdd f => some (atomRules f 0 (.s .i64) .none) | .redFadd f => some (atomRules f 1 (.s .i64) .none)
  | .redMin f => some (atomRules f 2 (.s .i64) .none) | .redMax f => some (atomRules f 3 (.s .i64) .none)
  | .subs f => some (mRules f (f.off == 0) (f.size == 0) false false false (.s .i64) (.s .i64) (.s .i64) .s)
  | .unsub f => some (mRules f true (f.size == 0) false false false (.s .i64) (.s .i64) .no .none)
  -- E class (R239 to R255)
  | .cpy f => some (eForm f 0 (.s .i64) (.s .i64) (.s .i64) .tok)
  | .gath f | .scat f => some (gathRules f)
  | .collAllreduce f => some (collRules f 0) | .collReduceScatter f => some (collRules f 1)
  | .collAllgather f => some (collRules f 2) | .collBroadcast f => some (collRules f 3)
  | .ownEng f => some (eForm f 1 (.s .i64) (.s .i64) .no .none)
  | .ownThr f => some (eForm f 0 (.s .i64) (.s .i64) .no .none)
  | .sems f => some (eForm f 0 (.s .i64) (.s .i64) .no .none)
  | .semsRem f => some (eForm f 1 (.s .i64) (.s .i64) (.s .i64) .none)
  | .semw f => some (eForm f 0 (.s .i64) (.s .i64) .no .none)
  | .cmpl f => some (eRules f (f.cmd == 0) true (.s .i64) (.s .i64) .no .none)
  | .xmit f => some (eRules f (f.cmd.toNat < 8) (f.scope == 0) (.v .i64) .no .no .none)
  | .imux f => some (eRules f (f.cmd.toNat < 64 && f.cmd.toNat % 8 < 5) (f.scope == 0) (.v .i64) .no .no .v)
  | .itin f => some (eForm f 0 (.s .i64) .no .no .tok)
  | .invalAll f => some (eForm f 0 (.s .i64) .no .no .none)
  | .invalSeg f => some (eForm f 1 (.s .i64) .no .no .none)
  | .invalRegion f => some (eForm f 2 (.s .i64) .no .no .none)
  | .migr f => some (eRules f (f.cmd.toNat < 3) (f.scope == 0) (.s .i64) (.s .i64) .no .tok)
  | .fringAck f => some (eForm f 0 (.s .i64) .no .no .none)
  | .fringBase f => some (eForm f 1 (.s .i64) (.s .i64) .no .none)
  | .fringHead f => some (eForm f 2 .no .no .no .s)
  | .almcQuery f => some (eForm f 0 .no .no .no .s)
  | .almcRec f => some (eForm f 1 (.s .i64) (.s .i64) .no .none)
  | .almcPlay f => some (eForm f 2 (.s .i64) (.s .i64) .no .none)
  | .almcStop f => some (eForm f 3 .no .no .no .none)
  | .vitqEntry f => some (eForm f 0 (.s .i64) .no .no .v)
  | .vitqRd f => some (eForm f 1 (.s .i64) .no .no .s)
  | .vitqWr f => some (eForm f 2 (.s .i64) (.s .i64) .no .none)
  | .monStart f => some (eForm f 0 (.s .i64) (.s .i64) .no .none)
  | .monStop f => some (eForm f 1 (.s .i64) .no .no .none)
  | .monRd f => some (eForm f 2 (.s .i64) (.s .i64) .no .s)
  | _ => none

/-- R82, R84: whether a constant or a long immediate is legal in a type. -/
def litOk (t : Ty) (limm : BitVec 56) : Bool :=
  if t = .f64 then true
  else if tyIsFloat t || t = .int4 || t = .i4x then limm.toNat < 2 ^ tyWidth t
  else true

/-- R80 to R84: whether an operand field holds a value its class and kind allow. -/
def opOk (cls : Cls) (limm : Option (BitVec 56)) (p : BitVec 7 × FK) : Bool :=
  let n := p.1.toNat
  match p.2 with
  | .no => true
  | .s t | .v t | .lit t =>
    let reg := n < 56
    let isLit := match p.2 with | .lit _ => true | _ => false
    if reg then !isLit
    else if n < 64 then (constCode t (n - 56)).isSome
    else if n = 64 then
      (match limm, cls with
        | _, .e => false
        | some l, _ => litOk t l
        | none, .a => true
        | none, .m => true
        | none, _ => false)
    else decide (cls = .a) || decide (cls = .m)
  | .cn opt => (8 ≤ n && n < 16) || (opt && n == 0)
  | .mn => 8 ≤ n && n < 16
  | .part h => n < h
  | .bind => n == 0 || (16 ≤ n && n < 48)

/-- R81: whether DST holds a legal value. -/
def dstOk (d : DK) (dst : BitVec 6) : Bool :=
  match d with
  | .none => true
  | _ => dst.toNat < 32 || dst == 63

/-- The checks of R90 step 4 that need the slot alone. -/
inductive Bad where
  | scope | resv | opnd | accpair | sysnum | sysro
  deriving DecidableEq, Repr

/-- R170, R169, R173: an odd accumulator in an FP64 form. -/
def Instr.badAcc : Instr → Bool
  | .tzero f | .tmac f | .tgang f | .twra f => decide (f.type = .f64) && f.x % 2 == 1
  | _ => false

/-- R62: a system register number that MFS or MTS may not name. -/
def Instr.badSys : Instr → Option Bad
  | .mfs f => if sysAssigned f.x then none else some .sysnum
  | .mts f => if !sysAssigned f.x then some .sysnum else if sysReadOnly f.x then some .sysro else none
  | _ => none

/-- The first static check that fails in R90's order, for a slot that owns the long immediate `limm` or none. -/
def Instr.check (limm : Option (BitVec 56)) (i : Instr) : Option Bad :=
  match i.rules with
  | none => none
  | some r =>
    if r.scope7 then some .scope
    else if r.resv then some .resv
    else if !(r.ops.all (opOk r.cls limm)) || !dstOk r.dk r.dst then some .opnd
    else if i.badAcc then some .accpair
    else i.badSys

/-- An instruction of a slot that passes every static check. -/
def Instr.wf (limm : Option (BitVec 56)) (i : Instr) : Bool := i.check limm = none

end Sys2Proof
end

