-- ==== Sys2Proof/Machine/Ops.lean ====
section
/-! DEFINITION. The named operations over the state: reaching a core or a context, putting an event on the agenda, pushing
a result, delivering a trap and returning from one, killing a task, and writing fault records. -/

namespace Sys2Proof.Machine

open Sys2Proof

/-- What a step answers. -/
abbrev Out := Host.Outcome State Fault Refusal

/-- The state as an outcome: a machine that touched a physical hole stops. -/
def State.out (s : State) : Out :=
  match s.stuck with
  | none => .next s
  | some f => .fault f

/-! ## Cores and contexts -/

/-- Core n. -/
def State.core (s : State) (n : Nat) : Core := tget s.cores .reset n

/-- The state with core n replaced. -/
def State.setCore (s : State) (n : Nat) (k : Core) : State := { s with cores := tset s.cores .reset n k }

/-- The state with core n changed by a function. -/
def State.updCore (s : State) (n : Nat) (f : Core → Core) : State := s.setCore n (f (s.core n))

/-- Context c of a core. -/
def Core.ctx (k : Core) (c : Nat) : Ctx := tget k.ctxs .reset c

/-- A core with context c replaced. -/
def Core.setCtx (k : Core) (c : Nat) (x : Ctx) : Core := { k with ctxs := tset k.ctxs .reset c x }

/-- Context c of core n. -/
def State.ctx (s : State) (n c : Nat) : Ctx := (s.core n).ctx c

/-- The state with context c of core n replaced. -/
def State.setCtx (s : State) (n c : Nat) (x : Ctx) : State := s.setCore n ((s.core n).setCtx c x)

/-- The state with context c of core n changed by a function. -/
def State.updCtx (s : State) (n c : Nat) (f : Ctx → Ctx) : State := s.setCtx n c (f (s.ctx n c))

/-- R6: the die of a core, and its column and row. -/
def coreDie (n : Nat) : Nat := n / 128
def coreX (n : Nat) : Nat := n % 16
def coreY (n : Nat) : Nat := n % 128 / 16

/-- Group g, if present. -/
def State.group (s : State) (g : Nat) : Option Group := tget s.groups none g

/-- The state with group g replaced, or removed. -/
def State.setGroup (s : State) (g : Nat) (x : Option Group) : State := { s with groups := tset s.groups none g x }

/-- The state with a group changed, if present. -/
def State.updGroup (s : State) (g : Nat) (f : Group → Group) : State :=
  match s.group g with
  | none => s
  | some x => s.setGroup g (some (f x))

/-- R175: the core at a group-relative index. -/
def Group.coreAt (g : Group) (i : Nat) : Nat := 128 * g.die + 16 * (g.y + i / g.desc.w) + g.x + i % g.desc.w

/-- The cores of a group's rectangle, in row-major order. -/
def Group.coreList (g : Group) : List Nat := (List.range (g.desc.w * g.desc.h)).map g.coreAt

/-- Job j, if known. -/
def State.job (s : State) (j : Nat) : Option Job := tget s.jobs none j

/-- The state with a job changed, if known. -/
def State.updJob (s : State) (j : Nat) (f : Job → Job) : State :=
  match s.job j with
  | none => s
  | some x => { s with jobs := tset s.jobs none j (some (f x)) }

/-- A fresh number. -/
def State.next (s : State) : Nat × State := (s.fresh, { s with fresh := s.fresh + 1 })

/-- A free value's counter, advanced. (DESIGN CHOICE, log entry 4). -/
def State.free (s : State) : Nat × State := (s.freeCtr, { s with freeCtr := s.freeCtr + 1 })

/-! ## The agenda -/

/-- The state with an event due some cycles from now. Events of one cycle act by rank, then by `unit`, then in the order in
which they were put down; ranks below 8 act before the cycle's bundles issue and the others after them (R59, R160). -/
def State.at (s : State) (delay rank unit : Nat) (ev : Instr) : State :=
  { s with agenda := s.agenda ++ [⟨s.cycle + delay, rank, unit, ev⟩] }

/-- Ranks: increments of semaphores, results, arrivals at homes, arrivals at cores, records, decisions, jobs; then, after
the cycle's bundles, subscription updates and engine accesses (R160, R241). (DEDUCED, log entry 10). -/
def rkSem : Nat := 0
def rkResult : Nat := 1
def rkHome : Nat := 2
def rkCore : Nat := 3
def rkRing : Nat := 4
def rkDecide : Nat := 5
def rkJob : Nat := 6
def rkLast : Nat := 7
def rkUpdate : Nat := 8
def rkEngine : Nat := 9

/-! ## Results (R46, R53) -/

/-- The queue with a reservation pushed; the entry that was q15 leaves. -/
def pushEntry (q : List QEntry) (e : QEntry) : List QEntry := (e :: q).take 16

/-- R46, R53: a reserved entry pushed on a context, with the writes its result will make outstanding. -/
def Ctx.reserve (x : Ctx) (vec : Bool) (dst : Option Nat) (pw : PredW) : Ctx :=
  let p1 := match dst with | some n => [⟨x.nextId, .reg vec n⟩] | none => []
  let p2 := match pw with
    | .none => []
    | .c n _ _ => [⟨x.nextId, .c n⟩]
    | .m n _ _ => [⟨x.nextId, .m n⟩]
  { x with q := pushEntry x.q ⟨x.nextId, ⟨vec, 0, 0⟩, false⟩, nextId := x.nextId + 1, pend := x.pend ++ p1 ++ p2 }

/-- A value produced in a queue: the entry of its reservation takes it. -/
def produceIn (q : List QEntry) (id : Nat) (v : Val) : List QEntry :=
  q.map (fun e => if e.id = id && !e.produced then { e with val := v, produced := true } else e)

/-- R54: f entries bound to a register take a value written to it. -/
def pfqWrite (f : Tbl PfEntry) (vec : Bool) (n : Nat) (v : Val) : Tbl PfEntry :=
  ⟨f.entries.map (fun e =>
    if e.2.bound && e.2.vec == vec && e.2.reg == n then (e.1, { e.2 with val := v }) else e)⟩

/-- A named register written (R53), with the f entries bound to it. -/
def Ctx.writeReg (x : Ctx) (vec : Bool) (n : Nat) (v : Val) : Ctx :=
  let x := if vec then { x with v := tset x.v .vzero n v } else { x with s := tset x.s .zero n v }
  { x with f := pfqWrite x.f vec n v }

/-- The named register n. -/
def Ctx.reg (x : Ctx) (vec : Bool) (n : Nat) : Val := if vec then tget x.v .vzero n else tget x.s .zero n

/-- R46, R51, R182: a result produced: its queue entry, in the live queue, the trap shadow and the checkpoint image; its
named destination; and the predicate or mask it writes. Writes that a rollback cancelled are no longer outstanding, and are
not made (R183). (DEDUCED, log entry 73). -/
def Ctx.produce (x : Ctx) (p : ResultP) : Ctx :=
  let live := x.pend.any (fun e => e.id == p.id)
  let x := { x with q := produceIn x.q p.id p.val, pend := x.pend.filter (fun e => e.id != p.id)
                    shadow := { x.shadow with q := produceIn x.shadow.q p.id p.val }
                    ckpt := { x.ckpt with q := produceIn x.ckpt.q p.id p.val } }
  let old := decide (p.id < x.shadow.upto)
  let x := match (if live then p.dst else none) with
    | some n =>
      let put (t : Tbl (Option Val)) : Tbl (Option Val) := if (tget t none n).isSome then tset t none n (some p.val) else t
      let x := x.writeReg p.val.vec n p.val
      if p.id < x.ckpt.upto then
        { x with ckpt := if p.val.vec then { x.ckpt with v := put x.ckpt.v } else { x.ckpt with s := put x.ckpt.s } }
      else x
    | none => x
  match (if live then p.pred else .none) with
  | .none => x
  | .c n v po =>
    { x with c := tset x.c .zero n ⟨v, po⟩
             shadow := if old then { x.shadow with c := tset x.shadow.c .zero n ⟨v, po⟩ } else x.shadow
             ckpt := if p.id < x.ckpt.upto then { x.ckpt with c := tset x.ckpt.c .zero n ⟨v, po⟩ } else x.ckpt }
  | .m n v po =>
    { x with m := tset x.m .zero n ⟨v, po⟩
             shadow := if old then { x.shadow with m := tset x.shadow.m .zero n ⟨v, po⟩ } else x.shadow
             ckpt := if p.id < x.ckpt.upto then { x.ckpt with m := tset x.ckpt.m .zero n ⟨v, po⟩ } else x.ckpt }

/-- R46, R87: the result of the slot that acts: its entry is reserved now and produced after its latency, three cycles later
when an operand came through a port. -/
def State.push (s : State) (lat : Nat) (port : Bool) (v : Val) (dst : Option Nat) (pw : PredW) : State :=
  let i := s.issue
  let x := s.ctx i.core i.ctx
  (s.setCtx i.core i.ctx (x.reserve v.vec dst pw)).at (lat + if port then 3 else 0) rkResult i.core
    (.resultProduced ⟨i.core, i.ctx, x.epoch, x.nextId, v, dst, pw⟩)

/-- R46: an entry reserved for a result that a later event produces; the reservation's number. -/
def State.reserveFor (s : State) (vec : Bool) (dst : Option Nat) : Nat × State :=
  let i := s.issue
  let x := s.ctx i.core i.ctx
  (x.nextId, s.setCtx i.core i.ctx (x.reserve vec dst .none))

/-- A reserved entry's value, due some cycles from now. -/
def State.produceAt (s : State) (delay core ctx epoch id : Nat) (v : Val) (dst : Option Nat) : State :=
  s.at delay rkResult core (.resultProduced ⟨core, ctx, epoch, id, v, dst, .none⟩)

/-! ## Fault records (R356 to R359) -/

/-- R317: the package identifier. -/
def State.pkgId (s : State) : Nat := (s.ctl.syrctl.toNat / 2 ^ 32) % 1024

/-- R358: word 0 of a record. -/
def ringWord0 (eng pkg core ctx src kind sub cls : Nat) : Word :=
  BitVec.ofNat 64 (eng * 2 ^ 60 + pkg * 2 ^ 50 + core * 2 ^ 41 + ctx * 2 ^ 39 + src * 2 ^ 36 + kind * 2 ^ 32 + sub * 2 ^ 16 + cls)

/-- R356: a record on its way to the ring, in the order of core, context and engine. (DESIGN CHOICE, log entry 89). -/
def State.record (s : State) (r : RingRec) (order : Nat) : State := s.at 0 rkRing order (.faultRecordWrite r)

/-- R356: the order of a context's records within a cycle. -/
def recOrder (core ctx eng : Nat) : Nat := core * 64 + ctx * 8 + eng

/-- R65: TRAPCODE of a class and subcode. -/
def trapCode (t : TrapInfo) : Word := BitVec.ofNat 64 (t.sub * 65536 + t.cls)

/-- R359: a task report (KIND 4). -/
def State.taskReport (s : State) (core ctx src : Nat) (t : TrapInfo) (pc : Word) : State :=
  let x := s.ctx core ctx
  s.record ⟨ringWord0 0 s.pkgId core ctx src 4 t.sub t.cls, trapCode t, pc, t.addr, x.sr.taskId, x.sr.groupId, x.sr.jobId,
    none⟩ (recOrder core ctx 0)

/-- R279: the job's completion word takes FAIL, and the class of the first cause. -/
def State.failJob (s : State) (jobId cls : Nat) : State :=
  s.updJob jobId (fun j => if j.fail then j else { j with fail := true, cls := cls })

/-! ## Checkers (R364) -/

/-- R364: the subcode of the mismatch that a unit's next operation has, if any. (DESIGN CHOICE, log entry 38). -/
def State.upset (s : State) (core unit : Nat) : Option Nat :=
  (s.upsets.find? (fun u => u.1 == core && u.2 / 2 == unit)).map (fun u => u.2 % 2 + 1)

/-- A mismatch that has come. (DESIGN CHOICE, log entry 7). -/
def State.takeUpset (s : State) (core unit : Nat) : State :=
  { s with upsets := s.upsets.eraseP (fun u => u.1 == core && u.2 / 2 == unit) }

/-! ## Sinks (R298) -/

/-- R298: a sink of a group retires in some cycles: its counter is cleared, and a watch that has reported starts again. -/
def State.sinkOf (s : State) (gid delay : Nat) : State :=
  match s.group gid with
  | none => s
  | some g =>
    let s := s.setGroup gid (some { g with lastSink := max g.lastSink (s.cycle + delay), hung := false })
    if g.hung then s.at (delay + 2 ^ g.desc.doldn) rkEngine (2 ^ 20) (.doldrumsExpiry gid g.watch) else s

/-- The same for the group of a core. -/
def State.sink (s : State) (core delay : Nat) : State :=
  match (s.core core).group with
  | some gid => s.sinkOf gid delay
  | none => s

/-! ## Ends of tasks (R285, R289, R369) -/

/-- The barrier `b` of a group. -/
def Group.barrier (g : Group) (b : Nat) : Barrier := tget g.barriers .fresh b

/-- The group with a barrier replaced. -/
def Group.setBarrier (g : Group) (b : Nat) (x : Barrier) : Group := { g with barriers := tset g.barriers .fresh b x }

/-- R289: the contexts that hold a task of a group. -/
def State.members (s : State) (g : Group) : List (Nat × Nat) :=
  g.coreList.flatMap (fun n => (List.range 4).filterMap (fun c =>
    if (s.ctx n c).status = .running then some (n, c) else none))

/-- R125, R177, R222, R289: whether a barrier's phase is ready to complete: it is in progress and every member that is left has arrived, or one
died, and no gang completion or update is pending. -/
def State.phaseReady (s : State) (g : Group) (b : Barrier) : Bool :=
  !b.due && b.gangs == 0 && b.updates == 0
    && (b.died || (b.begun && (s.members g).all (fun m => b.arrived.contains m)))

/-- R125, R177, R402: the phases of a group that have become ready complete twelve cycles after the last arrival, death or
update applied, or now where that is past or where no member remains (R289). -/
def State.checkBarriers (s : State) (gid : Nat) : State :=
  match s.group gid with
  | none => s
  | some g =>
    (List.range g.bars.length).foldl (fun s b =>
      match s.group gid with
      | none => s
      | some g =>
        let x := g.barrier b
        if s.phaseReady g x then
          (s.setGroup gid (some (g.setBarrier b { x with due := true }))).at
            (if (s.members g).isEmpty then 0 else x.since + 12 - s.cycle) rkCore 0 (.barrierPhaseComplete gid b x.phase)
        else s) s

/-- R289: a task that ends leaves its group's barriers; a killed one sets MDIED in the phase in progress. -/
def State.leaveBarriers (s : State) (core ctx : Nat) (died : Bool) : State :=
  match (s.core core).group with
  | none => s
  | some gid =>
    let s := s.updGroup gid (fun g =>
      (List.range g.bars.length).foldl (fun g b =>
        let x := g.barrier b
        let x := { x with arrived := x.arrived.filter (· != (core, ctx)) }
        g.setBarrier b (if died then { x with died := true, since := s.cycle, dead := x.dead ++ [core] } else x)) g)
    s.checkBarriers gid

/-- The context left idle. Results of its task that are still to come are produced (R124). (DEDUCED, log entry 73). -/
def Ctx.toIdle (x : Ctx) : Ctx :=
  { x with status := .idle, wait := .none, xfer := .none, rep := .off, heldOps := [], detAtoms := [], detWords := [], detReads := [], ops := [], arrived := [], again := none, barRes := none, phaseOf := none, hdrWait := false, transfer := false, shadow := .empty,
           ckpt := .none, atoms := 0 }

/-- R285: the context ends its task and pops its next record; the job may have ended (R279). Results of a killed task no
longer find it (R369). -/
def State.endTask (s : State) (core ctx : Nat) (died : Bool) : State :=
  let x := s.ctx core ctx
  let n := s.next
  let s := n.2.setCtx core ctx (if died then { x.toIdle with epoch := n.1, pend := [], loads := [], detFlying := [] } else x.toIdle)
  let s := s.leaveBarriers core ctx died
  let s := s.at 0 rkDecide (core * 4 + ctx) (.recordPop core ctx)
  s.at 0 rkJob x.record.job .jobComplete

/-- R369: a task killed: its undrained log entries and parked entries are discarded, a KIND 4 record is written, its job fails unless
its record has been put back (R366), and the context becomes idle. `src` is the unit that raised the cause (R358). -/
def State.killTask (s : State) (core ctx src : Nat) (t : TrapInfo) (pc : Word) (cls : Nat) (fail : Bool) : State :=
  let s := s.taskReport core ctx src t pc
  let s := if fail then s.failJob (s.ctx core ctx).record.job cls else s
  let parked := ((s.core core).side.filter (fun e => e.ctx == ctx && e.epoch == (s.ctx core ctx).epoch)).filterMap (fun e =>
    match e.ev with | .logEntryArrival p => some p.pos | _ => none)
  let s := s.updCtx core ctx (fun x => { x with log := x.log.filter (fun e => e.sent && (e.epoch != x.epoch || !parked.contains e.pos)) })
  let s := s.updCore core (fun k => { k with side := k.side.filter (fun e => e.ctx != ctx || e.epoch != (k.ctx ctx).epoch)
                                             calls := tset k.calls .none ctx .none })
  s.endTask core ctx true

/-- R369: a task killed for a cause, with which its job fails. -/
def State.kill (s : State) (core ctx src : Nat) (t : TrapInfo) (pc : Word) (cls : Nat) : State := s.killTask core ctx src t pc cls true

/-! ## Traps (R51, R126, R127, R183) -/

/-- The classes and subcodes of R65 that the slots raise. -/
def tIllop (addr : Nat) : TrapInfo := ⟨1, 0, BitVec.ofNat 64 addr⟩
def tIllfmt (sub addr : Nat) : TrapInfo := ⟨2, sub, BitVec.ofNat 64 addr⟩
def tOpnd (slot : Nat) : TrapInfo := tIllfmt 4 slot

/-- R71, R371: a task killed for a use of poison. (DEDUCED, log entry 72). -/
def tPoison (sub : Nat) : TrapInfo := ⟨0x11, sub, 0⟩

/-- Registers restored from an image that lists some of them. -/
def restoreRegs (t : Tbl Val) (d : Val) (im : Tbl (Option Val)) : Tbl Val :=
  im.entries.foldl (fun t e => match e.2 with | some v => tset t d e.1 v | none => t) t

/-- R54, R183: the f entries bound to registers that a rollback restored take their values. -/
def restoreBound (f : Tbl PfEntry) (vec : Bool) (im : Tbl (Option Val)) : Tbl PfEntry :=
  im.entries.foldl (fun f e => match e.2 with | some v => pfqWrite f vec e.1 v | none => f) f

/-- R54, R183: the context rolled back to its checkpoint image: entries of the log past the mark are discarded, and so are the loads and
the writes still to come of what issued after the image. (DEDUCED, log entry 73). -/
def Ctx.rollback (x : Ctx) : Ctx :=
  { x with q := x.ckpt.q, c := x.ckpt.c, m := x.ckpt.m, s := restoreRegs x.s .zero x.ckpt.s,
           v := restoreRegs x.v .vzero x.ckpt.v, f := restoreBound (restoreBound x.f false x.ckpt.s) true x.ckpt.v, log := x.log.filter (fun e => e.epoch != x.epoch || e.pos < x.ckpt.mark),
           rep := .off, xfer := .none, pc := x.ckpt.resume
           loads := x.loads.filter (fun l => l.id < x.ckpt.upto), pend := x.pend.filter (fun e => e.id < x.ckpt.upto)
           sr := { x.sr with repCnt := 0, repStep := 0, dlyPend := 0, logTail := BitVec.ofNat 64 x.ckpt.mark } }

/-- Whether the context executes a routine body (R183). -/
def Ctx.inRoutine (x : Ctx) : Bool := x.sr.routIdx != BitVec.allOnes 64

/-- R89: TRAPTGT of a delay bundle's trap. (DESIGN CHOICE, log entry 27). -/
def xferTarget (x : Ctx) : Word :=
  match x.xfer with
  | .none => 0
  | .goto t _ => t
  | .callr _ _ _ b => b
  | .retr => x.link

/-- R51, R89, R126: the context with a trap delivered, from the state it presents: the trap registers and the shadow are
filled, the level raised and the handler's address loaded. The handler's first bundle issues four cycles later.
(DESIGN CHOICE, log entry 27). -/
def Ctx.deliver (x : Ctx) (t : TrapInfo) (pc : Word) (now : Nat) : Ctx :=
  let dly := x.xfer != .none
  let sr := { x.sr with trapCode := trapCode t, trapPc := pc, trapAddr := t.addr,
                        dlyPend := if dly then 1 else 0, trapTgt := if dly then xferTarget x else x.sr.trapTgt,
                        priv := if x.sr.priv.toNat < 1 then 1 else x.sr.priv }
  { x with shadow := ⟨true, x.q, x.c, x.m, x.sr.repCnt, x.sr.repStep, x.sr.priv, x.xfer, x.rep, x.nextId⟩, sr := sr,
           pc := BitVec.ofNat 64 (x.sr.trapVec.toNat / 64 * 64), xfer := .none, rep := .off, transfer := false,
           readyAt := now + 4 }

/-- R51, R126, R183: a trap taken by a context, from the state `x0` that it presents (as it stood at the bundle's start),
with TRAPPC `pc`. A trap at supervisor level with the shadow occupied kills the task with class DOUBLE; one with TRAPVEC 0
kills it with its own class. -/
def State.takeTrap (s : State) (core ctx : Nat) (x0 : Ctx) (t : TrapInfo) (pc : Word) : State :=
  let x1 := if x0.inRoutine then x0.rollback else x0
  let pc := if x0.inRoutine then x1.pc else pc
  let s := s.setCtx core ctx x1
  if 1 ≤ x0.sr.priv.toNat && x0.shadow.occupied then
    s.kill core ctx 0 ⟨0x10, 0, t.addr⟩ pc 0x10
  else if x0.sr.trapVec = 0 then s.kill core ctx 0 t pc t.cls
  else s.setCtx core ctx (x1.deliver t pc s.cycle)

/-- R51, R89, R127: the context returned from its trap: the shadow is restored and emptied, and execution resumes at TRAPPC,
first through the delay bundle when DLYPEND is 1. It issues four cycles later. (DEDUCED, log entry 45). -/
def Ctx.eret (x : Ctx) (now : Nat) : Ctx :=
  let h := x.shadow
  let dly := x.sr.dlyPend.getLsbD 0
  let x := if h.occupied then
      { x with q := h.q, c := h.c, m := h.m,
               rep := { h.rep with held := false }
               sr := { x.sr with repCnt := h.repCnt, repStep := h.repStep, priv := h.priv } }
    else x
  let tgt := BitVec.ofNat 64 (x.sr.trapTgt.toNat / 64 * 64)
  let xfer := if dly then
      match h.xfer with
      | .callr r e v _ => .callr r e v tgt
      | .retr => .retr
      | _ => .goto tgt 0
    else .none
  { x with shadow := .empty, xfer := xfer, link := if xfer = .retr then tgt else x.link, pc := BitVec.ofNat 64 (x.sr.trapPc.toNat / 64 * 64)
           sr := { x.sr with dlyPend := 0 }, readyAt := now + 4 }

/-! ## What a slot raises -/

/-- A precise trap of the slot that acts: it is taken from the state at bundle start, and the frame says so, so that no
effect of the bundle remains (R51). -/
def State.slotTrap (s : State) (t : TrapInfo) : State :=
  let i := s.issue
  let s := s.takeTrap i.core i.ctx i.start t i.pc
  { s with issue := { i with trapped := some t } }

/-- R118, R371: the slot's use of poison kills the task; the bundle has no effect. (DEDUCED, log entry 72). -/
def State.slotKill (s : State) (sub : Nat) : State :=
  let i := s.issue
  let s := (s.setCtx i.core i.ctx i.start).kill i.core i.ctx 0 (tPoison sub) i.pc 0x11
  { s with issue := { i with killed := some (tPoison sub) } }

/-- R57, R92: the slot makes its context wait as on a full engine queue; the bundle has no effect yet. -/
def State.slotBlock (s : State) (w : Wait) : State :=
  let i := s.issue
  let s := s.setCtx i.core i.ctx { i.start with wait := w }
  { s with issue := { i with blocked := some w } }

/-- R92: the slot makes its bundle stall: it is tried again in the next cycle. -/
def State.slotStall (s : State) : State := { s with issue := { s.issue with stalled := true } }

/-! ## Killing a job (R335) -/

/-- R286: the Docent of a die makes its next decision when it may, unless one is already due. -/
def State.pokeDocent (s : State) (die : Nat) : State :=
  let d := tget s.docents .reset die
  if s.agenda.any (fun e => e.ev == .docentPlacement && e.unit == die) then s
  else s.at (d.nextDecision - s.cycle) rkDecide die .docentPlacement

/-- The groups of a job, by number. -/
def State.groupsOf (s : State) (key : Nat) : List Nat :=
  (s.groups.entries.filter (fun e => match e.2 with | some g => g.desc.jobId == key | none => false)).map (·.1)

/-- R293: what waits of a job in the Docents' queues is dropped. -/
def State.dropItems (s : State) (key : Nat) : State :=
  let hit (i : Item) : Bool := match i.kind with | .group g => g.jobId == key | .loose _ j => j == key | .saved _ => false
  s.docents.entries.foldl (fun s d =>
    if d.2.items.any hit then
      let s : State := { s with docents := tset s.docents .reset d.1 { tget s.docents .reset d.1 with items := d.2.items.filter (fun i => !hit i) } }
      (s.pokeDocent d.1).at 0 rkJob key .jobComplete
    else s) s

/-- R335: a job killed with a class: its completion word takes FAIL, every group of it is killed, and what waits of it is dropped. -/
def State.killJob (s : State) (key cls : Nat) : State :=
  let s := (s.failJob key cls).dropItems key
  (s.groupsOf key).foldl (fun s g => s.at 0 rkDecide 512 (.groupKill g)) s

/-! ## Banks of a bay (R213) -/

/-- R213: whether a bank of a bay can serve in this cycle. (DESIGN CHOICE, log entry 17). -/
def State.bankIdle (s : State) (bay bank : Nat) : Bool := tget (tget s.bays .reset bay).banks 0 bank ≤ s.cycle

/-- R213: the next free cycle of a bank taken by an operation. (DESIGN CHOICE, log entry 17). -/
def State.takeBank (s : State) (bay bank : Nat) : State :=
  let b := tget s.bays .reset bay
  { s with bays := tset s.bays .reset bay { b with banks := tset b.banks 0 bank (max s.cycle (tget b.banks 0 bank) + 1) } }

end Sys2Proof.Machine
end

