-- ==== Sys2Proof/Machine/Gust.lean ====
section
/-! DEFINITION. Gust (R308 to R316, R401, R420): routes, the placing of packets, the cycle-by-cycle passage of flits through
buffers, grants and credits, and the power of routers. -/

namespace Sys2Proof.Machine

open Sys2Proof

/-! ## Routes (R308) -/

/-- The ports of a router (R308): an attachment to a horizontal edge link is port 5, to a vertical one port 6. -/
def north : Nat := 0
def east : Nat := 1
def south : Nat := 2
def west : Nat := 3
def localPort : Nat := 4
def edgeH : Nat := 5
def edgeV : Nat := 6

/-- The router of a die at a column and a row. -/
def routerAt (d x y : Nat) : Nat := 128 * d + 16 * y + x

/-- R316, R401: a field of GUSTPATH of a die: 0 when OVR is 0. -/
def Ctl.gustDir (c : Ctl) (d bit : Nat) : Nat :=
  let v := tget c.gustpath gustpathReset d
  if v.getLsbD 63 then (v.toNat / 2 ^ bit) % 4 else 0

/-- R308 rule 4, R401: whether a packet goes by increasing index from one stop of a ring of n to another. -/
def goesUp (n code a b : Nat) : Bool :=
  if code = 1 then true else if code = 2 then false else 2 * ((b + n - a) % n) ≤ n

/-- The stops that a packet leaves on a ring of n, from a to b, with the direction taken. -/
def ringStops (n code a b : Nat) : List Nat × Bool :=
  if a = b then ([], true)
  else if goesUp n code a b then ((List.range ((b + n - a) % n)).map (fun i => (a + i) % n), true)
  else ((List.range ((a + n - b) % n)).map (fun i => (a + n - i) % n), false)

/-- R308: along row y of a die from column a to column b. -/
def rowPath (c : Ctl) (d y a b : Nat) : Path :=
  let r := ringStops 16 (c.gustDir d (2 * y)) a b
  r.1.map (fun x => (routerAt d x y, if r.2 then east else west))

/-- R308: along column x of a die from row a to row b. -/
def colPath (c : Ctl) (d x a b : Nat) : Path :=
  let r := ringStops 8 (c.gustDir d (16 + 2 * x)) a b
  r.1.map (fun y => (routerAt d x y, if r.2 then south else north))

/-- R9, R17: the crossings from one die to another: the path up to the last die, with the column and row where the packet
stands there. A horizontal link is crossed first. -/
def crossings (c : Ctl) (d x y d2 : Nat) : Path × Nat × Nat × Nat :=
  let h : Path × Nat × Nat :=
    if d % 2 = d2 % 2 then ([], d, x)
    else
      let edge := if d % 2 = 0 then 15 else 0
      (rowPath c d y x edge ++ [(routerAt d edge y, edgeH)], if d % 2 = 0 then d + 1 else d - 1, 15 - edge)
  let d' := h.2.1
  let x' := h.2.2
  if d' / 2 = d2 / 2 then (h.1, d', x', y)
  else
    let edge := if d' / 2 = 0 then 7 else 0
    (h.1 ++ colPath c d' x' y edge ++ [(routerAt d' x' edge, edgeV)], d2, x', 7 - edge)

/-- R308 rules 1 and 3: the path from a core to bay (or Syrraul port column) b of a die. (DESIGN CHOICE, log entry 57). -/
def pathToBay (c : Ctl) (core d2 b : Nat) : Path :=
  let k := crossings c (coreDie core) (coreX core) (coreY core) d2
  k.1 ++ rowPath c k.2.1 k.2.2.2 k.2.2.1 b ++ [(routerAt k.2.1 b k.2.2.2, localPort)]

/-- R308 rules 2 and 3: the path from a core to a core. -/
def pathToCore (c : Ctl) (core target : Nat) : Path :=
  let k := crossings c (coreDie core) (coreX core) (coreY core) (coreDie target)
  k.1 ++ rowPath c k.2.1 k.2.2.2 k.2.2.1 (coreX target)
    ++ colPath c k.2.1 (coreX target) k.2.2.2 (coreY target) ++ [(target, localPort)]

/-- The port opposite to one. -/
def opposite (p : Nat) : Nat :=
  if p = north then south else if p = south then north else if p = east then west else if p = west then east else p

/-- R308 rule 5: the path of a reply, which retraces its request's path. -/
def replyPath (p : Path) : Path :=
  let routers := (p.map (·.1)).reverse
  let ports := ((p.map (·.2)).dropLast).reverse.map opposite
  routers.zip (ports ++ [localPort])

/-- The hops of a path, edge crossings apart, and its edge crossings (R17). -/
def pathHops (p : Path) : Nat := (p.filter (fun e => e.2 < 4)).length
def pathEdges (p : Path) : Nat := (p.filter (fun e => 5 ≤ e.2)).length

/-- The cycles from placing a packet to the delivery of its last flit, unloaded (R314). -/
def pathTime (p : Path) (flits : Nat) : Nat := 2 * pathHops p + 24 * pathEdges p + flits + 1

/-! ## Placing (R420) -/

/-- R420: the order in which units place packets: contexts, engines, the bay, the Syrraul port. -/
def unitCtx (c : Nat) : Nat := c
def unitEng (e : Nat) : Nat := 4 + e
def unitBay : Nat := 9
def unitPort : Nat := 10

/-- A packet handed to its first router's local input, ready to be placed after some cycles; its step is made `after` cycles
after its last flit is delivered. (DESIGN CHOICE, log entry 57). -/
def State.send (s : State) (delay order : Nat) (path : Path) (flits after rank unit : Nat) (ev : Instr) : State :=
  let router := (path.head?.map (·.1)).getD 0
  { s with gust := { s.gust with placing := s.gust.placing ++
      [⟨s.cycle + delay, router, order, ⟨path, flits, s.cycle, after, rank, unit, ev⟩⟩] } }

/-! ## The passage of flits (R309 to R314) -/

/-- A key for an output or an input of a router, and for a FIFO of an input: channel 0, channel 1, escape. -/
def portKey (router port : Nat) : Nat := router * 8 + port
def fifoKey (router port i : Nat) : Nat := (router * 8 + port) * 4 + i

/-- The router and the input port that an output leads to. -/
def nextPort (router out : Nat) : Nat × Nat :=
  let d := coreDie router
  let x := coreX router
  let y := coreY router
  if out = north then (routerAt d x ((y + 7) % 8), south)
  else if out = south then (routerAt d x ((y + 1) % 8), north)
  else if out = east then (routerAt d ((x + 1) % 16) y, west)
  else if out = west then (routerAt d ((x + 15) % 16) y, east)
  else if out = edgeH then (routerAt (if d % 2 = 0 then d + 1 else d - 1) (15 - x) y, edgeH)
  else if out = edgeV then (routerAt ((d + 2) % 4) x (7 - y), edgeV)
  else (router, localPort)

/-- Whether two ports lie on one ring: both on rows, or both on columns. -/
def sameRing (a b : Nat) : Bool := a < 4 && b < 4 && a % 2 == b % 2

/-- R309: whether an output crosses its ring's dateline. -/
def crossesDateline (router out : Nat) : Bool :=
  (out == east && coreX router == 15) || (out == west && coreX router == 0)
    || (out == south && coreY router == 7) || (out == north && coreY router == 0)

/-- R311, R401: shared slots of the input port that an output leads to. -/
def Ctl.sharedSlots (c : Ctl) (router out : Nat) : Nat :=
  let v := tget c.gustpath gustpathReset (coreDie (nextPort router out).1)
  if out < 4 && v.getLsbD 63 then min 16 (v.toNat / 2 ^ 48 % 32) else 16

/-- The output that a packet takes at a place of its path, and the output before. -/
def Packet.outAt (p : Packet) (hop : Nat) : Nat × Nat := p.path.getD hop (0, localPort)

/-- R309: the virtual channel of a flit at the port after an output. -/
def Packet.nextVc (p : Packet) (hop vc : Nat) : Nat :=
  let o := p.outAt hop
  let stays := 0 < hop && sameRing (p.outAt (hop - 1)).2 o.2
  if o.2 < 4 && crossesDateline o.1 o.2 then 1 else if stays then vc else 0

/-- R311: whether the packet stays on the ring that it came by. -/
def Packet.stays (p : Packet) (hop : Nat) : Bool := 0 < hop && sameRing (p.outAt (hop - 1)).2 (p.outAt hop).2

/-- The slots in use at the port after an output, of a class. -/
def Gust.usedOf (g : Gust) (key slot : Nat) : Nat := tget g.used 0 (key * 4 + slot)

/-- The slots in use changed. -/
def Gust.setUsed (g : Gust) (key slot n : Nat) : Gust := { g with used := tset g.used 0 (key * 4 + slot) n }

/-- R311: the class that a header takes at the port after its output, if one has room: the shared pool, its channel's
reserved slots, or the escape slots while all are free. On escape it stays there until it leaves the ring. -/
def Gust.headerSlot (g : Gust) (c : Ctl) (p : Packet) (f : Flit) : Option Nat :=
  let o := p.outAt f.hop
  let key := portKey o.1 o.2
  let vc := p.nextVc f.hop f.vc
  if o.2 = localPort then some 0
  else if f.slot = 3 && p.stays f.hop then (if g.usedOf key 3 = 0 then some 3 else none)
  else if g.usedOf key 0 < c.sharedSlots o.1 o.2 then some 0
  else if g.usedOf key (1 + vc) < 2 then some (1 + vc)
  else if g.usedOf key 3 = 0 then some 3 else none

/-- R311: whether a later flit finds a slot of the class that its header took. -/
def Gust.bodyRoom (g : Gust) (c : Ctl) (o : Nat × Nat) (slot : Nat) : Bool :=
  let key := portKey o.1 o.2
  o.2 == localPort || g.usedOf key slot < (if slot = 0 then c.sharedSlots o.1 o.2 else 2)

/-- A header that competes for an output in this cycle, or the next flit of a packet granted it. -/
structure Bid where
  out : Nat
  ts : Nat
  port : Nat
  /-- escape before channel 1 before channel 0 -/
  pref : Nat
  fifo : Nat
  flit : Flit
  deriving DecidableEq, Repr

/-- The packet of a number. -/
def Gust.packet (g : Gust) (n : Nat) : Option Packet := tget g.pkts none n

/-- R313: what a FIFO bids: the flit at its head, a header that competes or the next flit of the packet that holds its grant. -/
def Gust.fifoBids (g : Gust) (key : Nat) (l : List Flit) : List Bid :=
  match l.head?.bind (fun f => (g.packet f.pkt).map (fun p => (f, p))) with
  | none => []
  | some (f, p) => let o := p.outAt f.hop
                   [⟨portKey o.1 o.2, p.ts, key / 4 % 8, 2 - key % 4, key, f⟩]

/-- Of two bids the one that R313 takes first. -/
def Bid.before (a b : Bid) : Bool :=
  a.ts < b.ts || (a.ts == b.ts && (a.port < b.port || (a.port == b.port && a.pref < b.pref)))

/-- The order of a packet's step among those of its cycle and rank: at a home by injection timestamp, then core, then unit (R213).
(DESIGN CHOICE, log entry 17). -/
def Packet.order (p : Packet) : Nat := if p.rank = rkHome then p.ts * 8192 + p.unit else p.unit

/-- A flit sent on its output in this cycle: it leaves its slot, takes one at the next port, and stands there two cycles
later, or 24 across an edge link (R312, R314). The last flit on a local output delivers its packet. -/
def State.sendFlit (s : State) (b : Bid) (slot vc : Nat) : State :=
  match s.gust.packet b.flit.pkt with
  | none => s
  | some p =>
    let g := s.gust
    let f := b.flit
    let o := p.outAt f.hop
    let last := f.no + 1 = p.flits
    let g := { g with fifos := tset g.fifos [] b.fifo ((tget g.fifos [] b.fifo).filter (fun e => e != f)) }
    let g := if f.hop = 0 then g else
      let back := p.outAt (f.hop - 1)
      { g with credits := g.credits ++ [(s.cycle + (if 5 ≤ back.2 then 24 else 1), portKey back.1 back.2 * 4 + f.slot)] }
    let touch (g : Gust) (r : Nat) : Gust :=
      { g with routers := tset g.routers .up r { tget g.routers .up r with lastUse := s.cycle } }
    let g := touch g o.1
    let g := { g with grants := tset g.grants none b.out (if last then none else some ⟨f.pkt, vc, slot⟩) }
    if o.2 = localPort then
      let s := { s with gust := g }
      if last then
        { s with gust := { g with pkts := tset g.pkts none f.pkt none }
                 agenda := s.agenda ++ [⟨s.cycle + 2 + p.after, p.rank, p.order, p.ev⟩] }
      else s
    else
      let n := nextPort o.1 o.2
      let g := g.setUsed b.out slot (g.usedOf b.out slot + 1)
      let g := touch g n.1
      let key := fifoKey n.1 n.2 (if slot = 3 then 2 else vc)
      { s with gust := { g with links := g.links ++
          [(s.cycle + (if 5 ≤ o.2 then 24 else 2), key, ⟨f.pkt, f.no, f.hop + 1, vc, slot⟩)] } }

/-- R316: whether router r is powered down, or is waking. -/
def Gust.isDown (g : Gust) (r : Nat) : Bool := let x := tget g.routers .up r; x.down || x.waking

/-- R316: a powered-down router is sent a wake signal, once. -/
def State.wake (s : State) (r : Nat) : State :=
  let x := tget s.gust.routers .up r
  if x.down && !x.waking then
    { s with gust := { s.gust with routers := tset s.gust.routers .up r { x with waking := true } } }.at 0 rkCore r
      .routerWakeSignal
  else s

/-- R313: one output's choice for this cycle among its bids. -/
def State.arbitrate (s : State) (out : Nat) (bids : List Bid) : State :=
  let g := s.gust
  let next := (nextPort (out / 8) (out % 8)).1
  if out % 8 != localPort && g.isDown next then s.wake next
  else match tget g.grants none out with
    | some r =>
      match bids.find? (fun b => b.flit.pkt == r.pkt) with
      | some b => if g.bodyRoom s.ctl (out / 8, out % 8) r.slot then s.sendFlit b r.slot r.vc else s
      | none => s
    | none =>
      let ok := bids.filterMap (fun b => match g.packet b.flit.pkt with
        | none => none
        | some p => (g.headerSlot s.ctl p b.flit).map (fun slot => (b, slot, p.nextVc b.flit.hop b.flit.vc)))
      match ok with
      | [] => s
      | c :: rest =>
        let best := rest.foldl (fun a b => if b.1.before a.1 then b else a) c
        s.sendFlit best.1 best.2.1 best.2.2

/-- R16, R420: the unit that places a packet at a router: one of its core's, or the bay or Syrraul port of its column, which are one unit for
all rows. -/
def Placing.unitKey (p : Placing) : Nat :=
  16 * (if p.order < unitBay then p.router else routerAt (coreDie p.router) (coreX p.router) 0) + p.order

/-- R420: whole packets enter local inputs, in the order of their units, each unit's own in order, while slots are free. -/
def State.placePackets (s : State) : State :=
  let due := s.gust.placing.zipIdx.filter (fun e => e.1.ready ≤ s.cycle)
  let lt (a b : Placing × Nat) : Bool := a.1.order < b.1.order || (a.1.order == b.1.order && (a.1.ready < b.1.ready
    || (a.1.ready == b.1.ready && a.2 < b.2)))
  let insert (l : List (Placing × Nat)) (e : Placing × Nat) : List (Placing × Nat) :=
    l.takeWhile (fun a => lt a e) ++ e :: l.dropWhile (fun a => lt a e)
  let sorted := due.foldl insert []
  let r := sorted.foldl (fun (acc : State × List Nat × List Nat) e =>
    let (s, stuck, placed) := acc
    let p := e.1
    let g := s.gust
    let fk := fifoKey p.router localPort 0
    let q := tget g.fifos [] fk
    if stuck.contains p.unitKey || 16 < q.length + p.pkt.flits then
      (s, stuck ++ [p.unitKey], placed)
    else if g.isDown p.router then (s.wake p.router, stuck ++ [p.unitKey], placed)
    else
      let n := s.fresh
      let x := tget g.routers .up p.router
      let g := { g with pkts := tset g.pkts none n (some { p.pkt with ts := s.cycle })
                        fifos := tset g.fifos [] fk (q ++ (List.range p.pkt.flits).map (fun i => ⟨n, i, 0, 0, 0⟩))
                        routers := tset g.routers .up p.router { x with lastUse := s.cycle } }
      ({ s with gust := g, fresh := n + 1 }, stuck, placed ++ [e.2])) (s, [], [])
  let s := r.1
  { s with gust := { s.gust with
      placing := (s.gust.placing.zipIdx.filter (fun e => !r.2.2.contains e.2)).map (·.1) } }

/-- R316: the idle check of every router that was used and that no check watches is put down. -/
def State.watchRouters (s : State) : State :=
  if !s.ctl.gustctl.getLsbD 0 then s
  else
    let idle := 2 ^ (max 8 (min 40 (s.ctl.gustctl.toNat / 4 % 64)))
    s.gust.routers.entries.foldl (fun s e =>
      if e.2.watched || e.2.down then s
      else { s with gust := { s.gust with routers := tset s.gust.routers .up e.1 { e.2 with watched := true } } }.at
        (e.2.lastUse + idle + 1 - s.cycle) rkCore e.1 .routerPowerDown) s

/-- One cycle of Gust: credits and flits that the cycle brings, placing, and each output's choice (R312 to R314, R420). -/
def State.gustTick (s : State) : State :=
  let g := s.gust
  if g.placing.isEmpty && g.fifos.entries.isEmpty && g.links.isEmpty && g.credits.isEmpty then s
  else
    let now := s.cycle
    let g := (g.credits.filter (fun e => e.1 ≤ now)).foldl
      (fun g e => { g with used := tset g.used 0 e.2 (tget g.used 0 e.2 - 1) }) g
    let g := { g with credits := g.credits.filter (fun e => now < e.1) }
    let g := (g.links.filter (fun e => e.1 ≤ now)).foldl
      (fun g e => { g with fifos := tset g.fifos [] e.2.1 (tget g.fifos [] e.2.1 ++ [e.2.2]) }) g
    let g := { g with links := g.links.filter (fun e => now < e.1) }
    let s := { s with gust := g }.placePackets
    let bids := s.gust.fifos.entries.flatMap (fun e => s.gust.fifoBids e.1 e.2)
    let outs := (bids.map (·.out)).eraseDups
    let s := outs.foldl (fun s o => s.arbitrate o (bids.filter (fun b => b.out == o))) s
    s.watchRouters

/-! ## Events of the network (R316, R401) -/

/-- R316: whether a router powered down at the end of the cycle before: allowed on its die, up, empty with no output granted, and idle for
the interval. -/
def State.mayPowerDown (s : State) (r : Nat) : Bool :=
  let c := s.ctl.gustctl
  let x := tget s.gust.routers .up r
  c.getLsbD 0 && c.getLsbD (8 + coreDie r) && !x.down && !x.waking
    && x.lastUse + 2 ^ (max 8 (min 40 (c.toNat / 4 % 64))) < s.cycle
    && s.gust.fifos.entries.all (fun e => e.1 / 32 != r) && s.gust.grants.entries.all (fun e => e.1 / 8 != r)
    && s.gust.placing.all (fun p => p.router != r || s.cycle ≤ p.ready)

/-- R316: ROUTER_POWER_DOWN of the router that acts, or, for unit 512, the check of every router: those idle for the interval at the end
of the cycle before are down, and the others are checked again when theirs may end. A flit sent to one in the interval's last cycle, or a
packet placed there, keeps it up: the wake wins. -/
def execRouterPowerDown (s : State) : Out :=
  let rs := if s.unit < 512 then [s.unit] else List.range 512
  let idle := 2 ^ (max 8 (min 40 (s.ctl.gustctl.toNat / 4 % 64)))
  .next (rs.foldl (fun s r =>
    let x := tget s.gust.routers .up r
    if s.mayPowerDown r then
      { s with gust := { s.gust with routers := tset s.gust.routers .up r { x with down := true, watched := false } } }
    else
      let again := s.ctl.gustctl.getLsbD 0 && !x.down && s.cycle ≤ x.lastUse + idle
      let s := { s with gust := { s.gust with routers := tset s.gust.routers .up r { x with watched := again } } }
      if again then s.at (x.lastUse + idle + 1 - s.cycle) rkCore r .routerPowerDown else s) s)

/-- R316: ROUTER_WAKE_SIGNAL: the router is up WAKE cycles after the signal, which an output or a local input sent at the end
of the cycle before. -/
def execRouterWakeSignal (s : State) : Out :=
  .next (s.at (s.ctl.gustctl.toNat / 2 ^ 16 % 256 - 1) rkCore s.unit .routerWakeComplete)

/-- R316: ROUTER_WAKE_COMPLETE: the router is up and its idle interval starts anew. -/
def execRouterWakeComplete (s : State) : Out :=
  .next { s with gust := { s.gust with routers := tset s.gust.routers .up s.unit ⟨false, false, s.cycle, false⟩ } }

/-- R401: a GUSTPATH write takes effect at every router of its die. Flits already in slots stay. -/
def execGustpathWrite (die : Nat) (value : Word) (s : State) : Out :=
  .next { s with ctl := { s.ctl with gustpath := tset s.ctl.gustpath gustpathReset die value } }

end Sys2Proof.Machine
end

