-- ==== Sys2Proof/Decode.lean ====
section
/-! DEFINITION. Decoding and encoding (R66, R68, R72 to R78, R88). A slot's 56 bits are an instruction of its class or are
refused by name; a bundle is 512 bits. The encoder writes the bits of a well-formed instruction from the same layouts. Events
are steps of the machine and have no encoding. -/

namespace Sys2Proof

open Sys2Proof.Machine

/-- Why a slot is refused (R90 step 4). -/
inductive DecodeErr where
  | illop
  | bad (b : Bad)
  deriving DecidableEq, Repr

/-- R73, R74: the fields of an A-, V- or T-class slot. -/
def AvtF.ofBits (w : BitVec 56) : AvtF :=
  { ext := w.extractLsb' 49 7, ernd := w.extractLsb' 48 1, sat := w.extractLsb' 47 1, ty := w.extractLsb' 43 4,
    pinv := w.extractLsb' 42 1, pred := w.extractLsb' 39 3, rnd := w.extractLsb' 37 2, c := w.extractLsb' 30 7,
    b := w.extractLsb' 23 7, a := w.extractLsb' 16 7, dst := w.extractLsb' 10 6 }

/-- R73, R74: the bits of an A-, V- or T-class slot. -/
def AvtF.toBits (f : AvtF) (op : BitVec 10) : BitVec 56 :=
  f.ext ++ f.ernd ++ f.sat ++ f.ty ++ f.pinv ++ f.pred ++ f.rnd ++ f.c ++ f.b ++ f.a ++ f.dst ++ op

/-- R77: the fields of a C-class slot. -/
def CF.ofBits (w : BitVec 56) : CF :=
  { imm := w.extractLsb' 34 22, cinv := w.extractLsb' 33 1, cond := w.extractLsb' 30 3, b := w.extractLsb' 23 7,
    a := w.extractLsb' 16 7, dst := w.extractLsb' 10 6 }

/-- R77: the bits of a C-class slot. -/
def CF.toBits (f : CF) (op : BitVec 10) : BitVec 56 := f.imm ++ f.cinv ++ f.cond ++ f.b ++ f.a ++ f.dst ++ op

/-- R76: the fields of an M-class slot. -/
def MF.ofBits (w : BitVec 56) : MF :=
  { off := w.extractLsb' 48 8, size := w.extractLsb' 45 3, dst := w.extractLsb' 39 6, data := w.extractLsb' 32 7,
    index := w.extractLsb' 25 7, base := w.extractLsb' 18 7, evp := w.extractLsb' 15 3, scope := w.extractLsb' 12 3,
    ord := w.extractLsb' 10 2 }

/-- R76: the bits of an M-class slot. -/
def MF.toBits (f : MF) (op : BitVec 10) : BitVec 56 :=
  f.off ++ f.size ++ f.dst ++ f.data ++ f.index ++ f.base ++ f.evp ++ f.scope ++ f.ord ++ op

/-- R78: the fields of an E-class slot. -/
def EF.ofBits (w : BitVec 56) : EF :=
  { cmd := w.extractLsb' 40 16, scope := w.extractLsb' 37 3, c := w.extractLsb' 30 7, b := w.extractLsb' 23 7,
    a := w.extractLsb' 16 7, dst := w.extractLsb' 10 6 }

/-- R78: the bits of an E-class slot. -/
def EF.toBits (f : EF) (op : BitVec 10) : BitVec 56 := f.cmd ++ f.scope ++ f.c ++ f.b ++ f.a ++ f.dst ++ op

/-- A slot's opcode (R71). -/
def slotOpc (w : BitVec 56) : Nat := w.toNat % 1024

/-- An instruction whose fields all have one legal value: its bits above the opcode must be those of that value. SCOPE 7 is
reported first (R90). -/
def bareSlot (w want : BitVec 56) (scope7 : Bool) (i : Instr) : Except DecodeErr Instr :=
  if scope7 then .error (.bad .scope) else if w = want then .ok i else .error (.bad .resv)

/-- A form that no instruction has: SCOPE 7 is reported first (R90). -/
def noForm (scope7 : Bool) (b : Bad) : Except DecodeErr Instr :=
  if scope7 then .error (.bad .scope) else .error (.bad b)

/-- R239, R254: form 3 of VITQ and MON: the fields that no form of them uses are checked before the form is refused. (DESIGN CHOICE,
log entry 11). -/
def form3 (f : EF) : Except DecodeErr Instr :=
  noForm (f.scope == 7) (if f.scope != 0 || f.cmd.toNat / 4 != 0 || f.c != 0 then .resv else .opnd)

/-- The one legal slot of DRAIN: SCOPE 1, EVP 4 and every other field 0 (R226, R232). -/
def drainBits : BitVec 56 := MF.toBits ⟨0, 0, 0, 0, 0, 0, 4, 1, 0⟩ 0x018

/-- R88: the instructions of the C class. -/
def decodeC (w : BitVec 56) : Except DecodeErr Instr :=
  let f := CF.ofBits w
  match slotOpc w with
  | 0x001 => .ok (.br f)
  | 0x002 => .ok (.brc f)
  | 0x003 => .ok (.bri f)
  | 0x004 => .ok (.call f)
  | 0x005 => .ok (.calli f)
  | 0x006 => .ok (.ret f)
  | 0x008 => .ok (.callr f)
  | 0x009 => bareSlot w 0x009 false .retr
  | 0x00A => bareSlot w 0x00A false .ckpt
  | 0x010 => .ok (.rep f)
  | 0x018 => .ok (.spawn f)
  | 0x019 => .ok (.join f)
  | 0x01A => bareSlot w 0x01A false .retire
  | 0x01B => bareSlot w 0x01B false .yield
  | 0x020 => .ok (.barr f)
  | 0x021 => .ok (.barra f)
  | 0x022 => .ok (.barrw f)
  | 0x028 => .ok (.trap f)
  | 0x029 => bareSlot w 0x029 false .eret
  | 0x02A => bareSlot w 0x02A false .halt
  | 0x030 => .ok (.phase f)
  | 0x031 => bareSlot w 0x031 false .phend
  | _ => .error .illop

/-- R88: the instructions of the A class. -/
def decodeA (w : BitVec 56) : Except DecodeErr Instr :=
  let f := AvtF.ofBits w
  match slotOpc w with
  | 0x001 => .ok (.add f)
  | 0x002 => .ok (.sub f)
  | 0x003 => .ok (.mul f)
  | 0x004 => .ok (.mulh f)
  | 0x005 => .ok (.mulhu f)
  | 0x006 => .ok (.div f)
  | 0x007 => .ok (.divu f)
  | 0x008 => .ok (.rem f)
  | 0x009 => .ok (.remu f)
  | 0x010 => .ok (.and f)
  | 0x011 => .ok (.or f)
  | 0x012 => .ok (.xor f)
  | 0x013 => .ok (.andn f)
  | 0x014 => .ok (.shl f)
  | 0x015 => .ok (.shr f)
  | 0x016 => .ok (.sar f)
  | 0x017 => .ok (.rotl f)
  | 0x018 => .ok (.clz f)
  | 0x019 => .ok (.ctz f)
  | 0x01A => .ok (.popc f)
  | 0x020 => .ok (.min f)
  | 0x021 => .ok (.max f)
  | 0x022 => .ok (.minu f)
  | 0x023 => .ok (.maxu f)
  | 0x024 => .ok (.sel f)
  | 0x028 => .ok (.cmp f)
  | 0x030 => .ok (.li f)
  | 0x031 => .ok (.mov f)
  | 0x032 => .ok (.adda f)
  | 0x033 => .ok (.ext f)
  | 0x034 => .ok (.ins f)
  | 0x040 => .ok (.pand f)
  | 0x041 => .ok (.por f)
  | 0x042 => .ok (.pxor f)
  | 0x043 => .ok (.pnot f)
  | 0x044 => .ok (.unif f)
  | 0x050 => .ok (.mfs f)
  | 0x051 => .ok (.mts f)
  | 0x052 => .ok (.pfq f)
  | 0x060 => .ok (.sfadd f)
  | 0x061 => .ok (.sfmul f)
  | 0x062 => .ok (.sffma f)
  | 0x063 => .ok (.sfcmp f)
  | 0x064 => .ok (.sfcvt f)
  | _ => .error .illop

/-- R88: the instructions of the M class. -/
def decodeM (w : BitVec 56) : Except DecodeErr Instr :=
  let f := MF.ofBits w
  match slotOpc w with
  | 0x001 => .ok (.ld f)
  | 0x002 => .ok (.ldv f)
  | 0x008 => .ok (.st f)
  | 0x009 => .ok (.stv f)
  | 0x010 => .ok (.ldb f)
  | 0x011 =>
    match f.size.toNat with
    | 0 => .ok (.disc f) | 1 => .ok (.discHome f) | _ => noForm (f.scope == 7) .resv
  | 0x018 => bareSlot w drainBits (f.scope == 7) .drain
  | 0x019 => .ok (.lpub f)
  | 0x01A => .ok (.lacq f)
  | 0x020 =>
    match f.off.toNat with
    | 0 => .ok (.atomAdd f) | 1 => .ok (.atomFadd f) | 2 => .ok (.atomMin f) | 3 => .ok (.atomMax f)
    | 4 => .ok (.atomAnd f) | 5 => .ok (.atomOr f) | 6 => .ok (.atomXor f) | 7 => .ok (.atomXchg f)
    | 8 => .ok (.atomCas f) | _ => noForm (f.scope == 7) .resv
  | 0x021 =>
    match f.off.toNat with
    | 0 => .ok (.redAdd f) | 1 => .ok (.redFadd f) | 2 => .ok (.redMin f) | 3 => .ok (.redMax f)
    | _ => noForm (f.scope == 7) .resv
  | 0x028 => .ok (.subs f)
  | 0x029 => .ok (.unsub f)
  | _ => .error .illop

/-- R88: the instructions of the V class. -/
def decodeV (w : BitVec 56) : Except DecodeErr Instr :=
  let f := AvtF.ofBits w
  match slotOpc w with
  | 0x001 => .ok (.vadd f)
  | 0x002 => .ok (.vsub f)
  | 0x003 => .ok (.vmul f)
  | 0x004 => .ok (.vfma f)
  | 0x005 => .ok (.vfms f)
  | 0x006 => .ok (.vmin f)
  | 0x007 => .ok (.vmax f)
  | 0x008 => .ok (.vabs f)
  | 0x009 => .ok (.vneg f)
  | 0x00A => .ok (.vcpys f)
  | 0x010 => .ok (.vcmp f)
  | 0x011 => .ok (.vsel f)
  | 0x012 => .ok (.mand f)
  | 0x013 => .ok (.mor f)
  | 0x014 => .ok (.mnot f)
  | 0x020 => .ok (.vcvt f)
  | 0x021 => .ok (.vscl f)
  | 0x022 =>
    match f.ext.toNat % 2 with
    | 0 => .ok (.vfrexSig f) | _ => .ok (.vfrexExp f)
  | 0x023 => .ok (.vrnd f)
  | 0x030 => .ok (.vrcps f)
  | 0x031 => .ok (.vrsqs f)
  | 0x032 => .ok (.vexp2f f)
  | 0x033 => .ok (.vlog2s f)
  | 0x034 => .ok (.vpoly f)
  | 0x040 => .ok (.viadd f)
  | 0x041 => .ok (.visub f)
  | 0x042 => .ok (.vimul f)
  | 0x043 => .ok (.vand f)
  | 0x044 => .ok (.vor f)
  | 0x045 => .ok (.vxor f)
  | 0x046 => .ok (.vshl f)
  | 0x047 => .ok (.vshr f)
  | 0x048 => .ok (.vsar f)
  | 0x049 => .ok (.vimin f)
  | 0x04A => .ok (.vimax f)
  | 0x050 => .ok (.vperm f)
  | 0x051 => .ok (.vshuf f)
  | 0x052 => .ok (.vred f)
  | 0x053 => .ok (.vscan f)
  | 0x054 =>
    match f.ext.toNat % 2 with
    | 0 => .ok (.vbcst f) | _ => .ok (.vbcstLane f)
  | 0x055 => .ok (.vextr f)
  | _ => .error .illop

/-- R88: the instructions of the T class. -/
def decodeT (w : BitVec 56) : Except DecodeErr Instr :=
  let f := AvtF.ofBits w
  match slotOpc w with
  | 0x001 => .ok (.tlatch f)
  | 0x002 => .ok (.tzero f)
  | 0x003 => .ok (.tmac f)
  | 0x005 => .ok (.trda f)
  | 0x006 => .ok (.twra f)
  | 0x008 => .ok (.tgang f)
  | 0x00A => .ok (.ttrn f)
  | _ => .error .illop

/-- R88: the instructions of the E class. -/
def decodeE (w : BitVec 56) : Except DecodeErr Instr :=
  let f := EF.ofBits w
  match slotOpc w with
  | 0x001 => .ok (.cpy f)
  | 0x002 => .ok (.gath f)
  | 0x003 => .ok (.scat f)
  | 0x004 =>
    match f.cmd.toNat % 8 with
    | 0 => .ok (.collAllreduce f) | 1 => .ok (.collReduceScatter f) | 2 => .ok (.collAllgather f)
    | 3 => .ok (.collBroadcast f) | _ => noForm (f.scope == 7) .resv
  | 0x008 =>
    match f.cmd.toNat % 2 with
    | 0 => .ok (.ownThr f) | _ => .ok (.ownEng f)
  | 0x010 =>
    match f.cmd.toNat % 2 with
    | 0 => .ok (.sems f) | _ => .ok (.semsRem f)
  | 0x011 => .ok (.semw f)
  | 0x018 => .ok (.cmpl f)
  | 0x020 => .ok (.xmit f)
  | 0x021 => .ok (.imux f)
  | 0x028 => .ok (.itin f)
  | 0x029 => bareSlot w 0x029 (f.scope == 7) .itstop
  | 0x030 =>
    match f.cmd.toNat % 4 with
    | 0 => .ok (.invalAll f) | 1 => .ok (.invalSeg f) | 2 => .ok (.invalRegion f) | _ => noForm (f.scope == 7) .resv
  | 0x031 => .ok (.migr f)
  | 0x032 =>
    match f.cmd.toNat % 4 with
    | 0 => .ok (.fringAck f) | 1 => .ok (.fringBase f) | 2 => .ok (.fringHead f) | _ => noForm (f.scope == 7) .resv
  | 0x038 =>
    match f.cmd.toNat % 4 with
    | 0 => .ok (.almcQuery f) | 1 => .ok (.almcRec f) | 2 => .ok (.almcPlay f) | _ => .ok (.almcStop f)
  | 0x040 =>
    match f.cmd.toNat % 4 with
    | 0 => .ok (.vitqEntry f) | 1 => .ok (.vitqRd f) | 2 => .ok (.vitqWr f) | _ => form3 f
  | 0x048 =>
    match f.cmd.toNat % 4 with
    | 0 => .ok (.monStart f) | 1 => .ok (.monStop f) | 2 => .ok (.monRd f) | _ => form3 f
  | _ => .error .illop

/-- R72, R88, R90: a slot of a class that is not surrendered: NOP must hold 0 in all its bits. -/
def decodeSlot (c : Cls) (w : BitVec 56) : Except DecodeErr Instr :=
  if slotOpc w = 0 then (if w = 0 then .ok .nop else .error (.bad .resv))
  else match c with
    | .c => decodeC w | .a => decodeA w | .m => decodeM w | .v => decodeV w | .t => decodeT w | .e => decodeE w

/-- The class and the bits of an instruction; none for an event. -/
def encodeSlot : Instr → Option (Cls × BitVec 56)
  | .br f => some (.c, f.toBits 0x001)
  | .brc f => some (.c, f.toBits 0x002)
  | .bri f => some (.c, f.toBits 0x003)
  | .call f => some (.c, f.toBits 0x004)
  | .calli f => some (.c, f.toBits 0x005)
  | .ret f => some (.c, f.toBits 0x006)
  | .callr f => some (.c, f.toBits 0x008)
  | .retr => some (.c, 0x009)
  | .ckpt => some (.c, 0x00A)
  | .rep f => some (.c, f.toBits 0x010)
  | .spawn f => some (.c, f.toBits 0x018)
  | .join f => some (.c, f.toBits 0x019)
  | .retire => some (.c, 0x01A)
  | .yield => some (.c, 0x01B)
  | .barr f => some (.c, f.toBits 0x020)
  | .barra f => some (.c, f.toBits 0x021)
  | .barrw f => some (.c, f.toBits 0x022)
  | .trap f => some (.c, f.toBits 0x028)
  | .eret => some (.c, 0x029)
  | .halt => some (.c, 0x02A)
  | .phase f => some (.c, f.toBits 0x030)
  | .phend => some (.c, 0x031)
  | .add f => some (.a, f.toBits 0x001)
  | .sub f => some (.a, f.toBits 0x002)
  | .mul f => some (.a, f.toBits 0x003)
  | .mulh f => some (.a, f.toBits 0x004)
  | .mulhu f => some (.a, f.toBits 0x005)
  | .div f => some (.a, f.toBits 0x006)
  | .divu f => some (.a, f.toBits 0x007)
  | .rem f => some (.a, f.toBits 0x008)
  | .remu f => some (.a, f.toBits 0x009)
  | .and f => some (.a, f.toBits 0x010)
  | .or f => some (.a, f.toBits 0x011)
  | .xor f => some (.a, f.toBits 0x012)
  | .andn f => some (.a, f.toBits 0x013)
  | .shl f => some (.a, f.toBits 0x014)
  | .shr f => some (.a, f.toBits 0x015)
  | .sar f => some (.a, f.toBits 0x016)
  | .rotl f => some (.a, f.toBits 0x017)
  | .clz f => some (.a, f.toBits 0x018)
  | .ctz f => some (.a, f.toBits 0x019)
  | .popc f => some (.a, f.toBits 0x01A)
  | .min f => some (.a, f.toBits 0x020)
  | .max f => some (.a, f.toBits 0x021)
  | .minu f => some (.a, f.toBits 0x022)
  | .maxu f => some (.a, f.toBits 0x023)
  | .sel f => some (.a, f.toBits 0x024)
  | .cmp f => some (.a, f.toBits 0x028)
  | .li f => some (.a, f.toBits 0x030)
  | .mov f => some (.a, f.toBits 0x031)
  | .adda f => some (.a, f.toBits 0x032)
  | .ext f => some (.a, f.toBits 0x033)
  | .ins f => some (.a, f.toBits 0x034)
  | .pand f => some (.a, f.toBits 0x040)
  | .por f => some (.a, f.toBits 0x041)
  | .pxor f => some (.a, f.toBits 0x042)
  | .pnot f => some (.a, f.toBits 0x043)
  | .unif f => some (.a, f.toBits 0x044)
  | .mfs f => some (.a, f.toBits 0x050)
  | .mts f => some (.a, f.toBits 0x051)
  | .pfq f => some (.a, f.toBits 0x052)
  | .sfadd f => some (.a, f.toBits 0x060)
  | .sfmul f => some (.a, f.toBits 0x061)
  | .sffma f => some (.a, f.toBits 0x062)
  | .sfcmp f => some (.a, f.toBits 0x063)
  | .sfcvt f => some (.a, f.toBits 0x064)
  | .ld f => some (.m, f.toBits 0x001)
  | .ldv f => some (.m, f.toBits 0x002)
  | .st f => some (.m, f.toBits 0x008)
  | .stv f => some (.m, f.toBits 0x009)
  | .ldb f => some (.m, f.toBits 0x010)
  | .disc f => some (.m, f.toBits 0x011)
  | .discHome f => some (.m, f.toBits 0x011)
  | .drain => some (.m, drainBits)
  | .lpub f => some (.m, f.toBits 0x019)
  | .lacq f => some (.m, f.toBits 0x01A)
  | .atomAdd f => some (.m, f.toBits 0x020)
  | .atomFadd f => some (.m, f.toBits 0x020)
  | .atomMin f => some (.m, f.toBits 0x020)
  | .atomMax f => some (.m, f.toBits 0x020)
  | .atomAnd f => some (.m, f.toBits 0x020)
  | .atomOr f => some (.m, f.toBits 0x020)
  | .atomXor f => some (.m, f.toBits 0x020)
  | .atomXchg f => some (.m, f.toBits 0x020)
  | .atomCas f => some (.m, f.toBits 0x020)
  | .redAdd f => some (.m, f.toBits 0x021)
  | .redFadd f => some (.m, f.toBits 0x021)
  | .redMin f => some (.m, f.toBits 0x021)
  | .redMax f => some (.m, f.toBits 0x021)
  | .subs f => some (.m, f.toBits 0x028)
  | .unsub f => some (.m, f.toBits 0x029)
  | .vadd f => some (.v, f.toBits 0x001)
  | .vsub f => some (.v, f.toBits 0x002)
  | .vmul f => some (.v, f.toBits 0x003)
  | .vfma f => some (.v, f.toBits 0x004)
  | .vfms f => some (.v, f.toBits 0x005)
  | .vmin f => some (.v, f.toBits 0x006)
  | .vmax f => some (.v, f.toBits 0x007)
  | .vabs f => some (.v, f.toBits 0x008)
  | .vneg f => some (.v, f.toBits 0x009)
  | .vcpys f => some (.v, f.toBits 0x00A)
  | .vcmp f => some (.v, f.toBits 0x010)
  | .vsel f => some (.v, f.toBits 0x011)
  | .mand f => some (.v, f.toBits 0x012)
  | .mor f => some (.v, f.toBits 0x013)
  | .mnot f => some (.v, f.toBits 0x014)
  | .vcvt f => some (.v, f.toBits 0x020)
  | .vscl f => some (.v, f.toBits 0x021)
  | .vfrexSig f => some (.v, f.toBits 0x022)
  | .vfrexExp f => some (.v, f.toBits 0x022)
  | .vrnd f => some (.v, f.toBits 0x023)
  | .vrcps f => some (.v, f.toBits 0x030)
  | .vrsqs f => some (.v, f.toBits 0x031)
  | .vexp2f f => some (.v, f.toBits 0x032)
  | .vlog2s f => some (.v, f.toBits 0x033)
  | .vpoly f => some (.v, f.toBits 0x034)
  | .viadd f => some (.v, f.toBits 0x040)
  | .visub f => some (.v, f.toBits 0x041)
  | .vimul f => some (.v, f.toBits 0x042)
  | .vand f => some (.v, f.toBits 0x043)
  | .vor f => some (.v, f.toBits 0x044)
  | .vxor f => some (.v, f.toBits 0x045)
  | .vshl f => some (.v, f.toBits 0x046)
  | .vshr f => some (.v, f.toBits 0x047)
  | .vsar f => some (.v, f.toBits 0x048)
  | .vimin f => some (.v, f.toBits 0x049)
  | .vimax f => some (.v, f.toBits 0x04A)
  | .vperm f => some (.v, f.toBits 0x050)
  | .vshuf f => some (.v, f.toBits 0x051)
  | .vred f => some (.v, f.toBits 0x052)
  | .vscan f => some (.v, f.toBits 0x053)
  | .vbcst f => some (.v, f.toBits 0x054)
  | .vbcstLane f => some (.v, f.toBits 0x054)
  | .vextr f => some (.v, f.toBits 0x055)
  | .tlatch f => some (.t, f.toBits 0x001)
  | .tzero f => some (.t, f.toBits 0x002)
  | .tmac f => some (.t, f.toBits 0x003)
  | .trda f => some (.t, f.toBits 0x005)
  | .twra f => some (.t, f.toBits 0x006)
  | .tgang f => some (.t, f.toBits 0x008)
  | .ttrn f => some (.t, f.toBits 0x00A)
  | .cpy f => some (.e, f.toBits 0x001)
  | .gath f => some (.e, f.toBits 0x002)
  | .scat f => some (.e, f.toBits 0x003)
  | .collAllreduce f => some (.e, f.toBits 0x004)
  | .collReduceScatter f => some (.e, f.toBits 0x004)
  | .collAllgather f => some (.e, f.toBits 0x004)
  | .collBroadcast f => some (.e, f.toBits 0x004)
  | .ownThr f => some (.e, f.toBits 0x008)
  | .ownEng f => some (.e, f.toBits 0x008)
  | .sems f => some (.e, f.toBits 0x010)
  | .semsRem f => some (.e, f.toBits 0x010)
  | .semw f => some (.e, f.toBits 0x011)
  | .cmpl f => some (.e, f.toBits 0x018)
  | .xmit f => some (.e, f.toBits 0x020)
  | .imux f => some (.e, f.toBits 0x021)
  | .itin f => some (.e, f.toBits 0x028)
  | .itstop => some (.e, 0x029)
  | .invalAll f => some (.e, f.toBits 0x030)
  | .invalSeg f => some (.e, f.toBits 0x030)
  | .invalRegion f => some (.e, f.toBits 0x030)
  | .migr f => some (.e, f.toBits 0x031)
  | .fringAck f => some (.e, f.toBits 0x032)
  | .fringBase f => some (.e, f.toBits 0x032)
  | .fringHead f => some (.e, f.toBits 0x032)
  | .almcQuery f => some (.e, f.toBits 0x038)
  | .almcRec f => some (.e, f.toBits 0x038)
  | .almcPlay f => some (.e, f.toBits 0x038)
  | .almcStop f => some (.e, f.toBits 0x038)
  | .vitqEntry f => some (.e, f.toBits 0x040)
  | .vitqRd f => some (.e, f.toBits 0x040)
  | .vitqWr f => some (.e, f.toBits 0x040)
  | .monStart f => some (.e, f.toBits 0x048)
  | .monStop f => some (.e, f.toBits 0x048)
  | .monRd f => some (.e, f.toBits 0x048)
  | .nop => some (.c, 0)
  | _ => none

/-! ## Bundles (R66, R68) -/

/-- R66: the bits of slot k. -/
def slotBits (b : BitVec 512) (k : Nat) : BitVec 56 := b.extractLsb' (64 + 56 * k) 56

/-- R68: whether slot k is surrendered (k from 1 to 7). -/
def surrendered (b : BitVec 512) (k : Nat) : Bool := b.getLsbD k

/-- R84: the long immediate that slot k owns. -/
def limmOf (b : BitVec 512) (k : Nat) : Option (BitVec 56) :=
  if k < 7 && surrendered b (k + 1) then some (slotBits b (k + 1)) else none

/-- R68: the HW bit. -/
def hdrHw (b : BitVec 512) : Bool := b.getLsbD 50
/-- R68: the signal increment. -/
def hdrSinc (b : BitVec 512) : Nat := (b.extractLsb' 46 4).toNat
/-- R68: the signal semaphore. -/
def hdrSsem (b : BitVec 512) : Nat := (b.extractLsb' 38 8).toNat
/-- R68: the wait threshold. -/
def hdrWthr (b : BitVec 512) : Nat := (b.extractLsb' 32 6).toNat
/-- R68: the wait semaphore. -/
def hdrWsem (b : BitVec 512) : Nat := (b.extractLsb' 24 8).toNat
/-- R68: whether port p is valid. -/
def hdrPval (b : BitVec 512) (p : Nat) : Bool := b.getLsbD (20 + p)
/-- R68: port p's slot. -/
def hdrPort (b : BitVec 512) (p : Nat) : Nat := (b.extractLsb' (8 + 3 * p) 3).toNat

/-- R68 to R70: a header that step 1 of R90 refuses. -/
def headerBad (b : BitVec 512) : Bool :=
  (b.extractLsb' 51 13 != 0) || b.getLsbD 0
    || (List.range 7).any (fun k => surrendered b (k + 1) && (surrendered b (k + 2) && k < 6))
    || (List.range 7).any (fun k => surrendered b (k + 1) && slotOpc (slotBits b k) == 0)
    || (hdrWthr b == 0 && hdrWsem b != 0) || (hdrSinc b == 0 && hdrSsem b != 0)

/-- The instruction of slot k of a bundle: NOP where the slot is surrendered. -/
def bundleSlot (b : BitVec 512) (k : Nat) : Except DecodeErr Instr :=
  if 1 ≤ k && surrendered b k then .ok .nop else decodeSlot (slotCls k) (slotBits b k)

/-- The first slot of a bundle, from slot k on, that is not empty. -/
def firstInstr (b : BitVec 512) : Nat → Nat → Option Instr
  | 0, _ => some .nop
  | n + 1, k =>
    match bundleSlot b k with
    | .ok .nop => firstInstr b n (k + 1)
    | .ok i => if i.wf (limmOf b k) then some i else none
    | .error _ => none

/-- The instruction the decoder reads from a bundle whose low bits are `w`: the opcode table gives a row no bits of its own,
so the table's word is a bundle, and its instruction is that of the first slot that holds one. -/
def decodeTableWord (nbits w : Nat) : Option Instr :=
  let b : BitVec 512 := BitVec.ofNat 512 (w % 2 ^ nbits)
  if headerBad b then none else firstInstr b 8 0

end Sys2Proof
end

