-- ==== Sys2Proof/Machine/Operands.lean ====
section
/-! DEFINITION. Operand reading (R47, R80 to R84, R121): every form of an operand specifier, scalar and vector, read from
the context as it stood at bundle start; and the lanes of vectors (R93). -/

namespace Sys2Proof.Machine

open Sys2Proof

/-- The context of the bundle that acts, as it stood at its start. -/
def State.start (s : State) : Ctx := s.issue.start

/-- R121: a named register's number in the repetition that acts. -/
def stepReg (n rep rstr : Nat) : Nat := (n + (rep - 1) * rstr) % 32

/-- R80, R121: an operand specifier with its register stepped. -/
def State.opnd (s : State) (b : BitVec 7) : Opnd :=
  match Opnd.ofBits b with
  | .reg n => .reg (stepReg n s.issue.rep s.issue.rstr)
  | o => o

/-- R81, R121: the named destination of a DST field. -/
def State.dst (s : State) (d : BitVec 6) : Option Nat :=
  if d.toNat < 32 then some (stepReg d.toNat s.issue.rep s.issue.rstr) else none

/-- R84: a long immediate as a scalar of a type. -/
def limmScalar (t : Ty) (l : BitVec 56) : Word :=
  if t = .f64 then l.zeroExtend 64 <<< 8
  else if tyIsFloat t || t = .int4 || t = .i4x then l.zeroExtend 64
  else l.signExtend 64

/-- R82: a constant as a scalar of a type: integers sign-extended, floating values in the low bits. (DEDUCED, log entry 32). -/
def constScalar (t : Ty) (n : Nat) : Word :=
  match constCode t n with
  | none => 0
  | some c => if tyIsFloat t then BitVec.ofNat 64 c else BitVec.ofInt 64 (intOf true (tyWidth t) c)

/-- R80 to R84: a scalar operand and its poison bit. -/
def State.readS (s : State) (b : BitVec 7) (t : Ty) : Word × Bool :=
  let x := s.start
  match s.opnd b with
  | .q n => let e := (x.q.getD n .fresh).val; (e.word, e.sp)
  | .reg n => let v := x.reg false n; (v.word, v.sp)
  | .f n => let v := (tget x.f .unbound n).val; (v.word, v.sp)
  | .const n => (constScalar t n, false)
  | .limm => (match s.issue.limm with | some l => limmScalar t l | none => 0, false)
  | .simm v => (BitVec.ofInt 64 v, false)

/-- Lanes packed into a vector, lane 0 lowest (R93). -/
def packLanes (w : Nat) : List Nat → Nat
  | [] => 0
  | x :: rest => x % 2 ^ w + 2 ^ w * packLanes w rest

/-- R93: lane i of a vector at width w. -/
def laneOf (w : Nat) (v : BitVec 2048) (i : Nat) : Nat := (v.toNat >>> (w * i)) % 2 ^ w

/-- R93: the lanes of a vector. -/
def lanesOf (w : Nat) (v : BitVec 2048) : List Nat := (List.range (2048 / w)).map (laneOf w v)

/-- A value in every lane. -/
def broadcast (w x : Nat) : BitVec 2048 := BitVec.ofNat 2048 (packLanes w (List.replicate (2048 / w) x))

/-- R80 to R84: a vector operand and the poison bits of its words. -/
def State.readV (s : State) (b : BitVec 7) (t : Ty) : BitVec 2048 × BitVec 32 :=
  let x := s.start
  match s.opnd b with
  | .q n => let e := (x.q.getD n .fresh).val; (e.bits, e.poison)
  | .reg n => let v := x.reg true n; (v.bits, v.poison)
  | .f n => let v := (tget x.f .unbound n).val; (v.bits, v.poison)
  | .const n => (broadcast (tyWidth t) ((constCode t n).getD 0), 0)
  | .limm => (match s.issue.limm with
      | some l => broadcast (tyWidth t) ((limmScalar t l).toNat % 2 ^ tyWidth t)
      | none => 0, 0)
  | .simm v => (broadcast (tyWidth t) (intBits (tyWidth t) v), 0)

/-- R85, R87: whether an operand field names a register, which is read through a port. -/
def isPort (b : BitVec 7) : Bool := 16 ≤ b.toNat && b.toNat < 48

/-- R87: whether any of some operand fields comes through a port. -/
def anyPort (l : List (BitVec 7)) : Bool := l.any isPort

/-- R128, R93: the low bits of a scalar as the code of a type. -/
def codeOf (t : Ty) (w : Word) : Nat := w.toNat % 2 ^ tyWidth t

/-- R93: a code of a type as a scalar register holds it: signed types sign-extended, others zero-extended. -/
def extendCode (t : Ty) (c : Nat) : Word :=
  if tyIsSigned t then BitVec.ofInt 64 (intOf true (tyWidth t) c) else BitVec.ofNat 64 c

/-- The predicate that a field holding 8 + n names (R129), as it stood at bundle start. -/
def State.readC (s : State) (b : BitVec 7) : Pred := tget s.start.c .zero (b.toNat - 8)

/-- The mask that a field holding 8 + n names (R129, R137), as it stood at bundle start. -/
def State.readM (s : State) (b : BitVec 7) : Mask := tget s.start.m .zero (b.toNat - 8)

/-- R73, R74: the mask that governs an instruction. -/
def State.govern (s : State) (f : AvtF) : Mask := tget s.start.m .zero f.pred.toNat

/-- R227: an access's size in bytes. -/
def sizeBytes (z : BitVec 3) : Nat :=
  match z.toNat with | 0 => 1 | 1 => 2 | 2 => 4 | 3 => 8 | 4 => 64 | _ => 256

/-- R121, R226: the signed offset of an M slot in bytes, its unit `n`. -/
def State.offset (s : State) (off : BitVec 8) (n : Nat) : Int :=
  (off.toInt + ((s.issue.rep : Int) - 1) * s.issue.ostr) * (min n 64 : Nat)

/-- R227: the effective address, rounded down, with the poison of its operands. -/
def State.effAddr (s : State) (base index : BitVec 7) (off : BitVec 8) (n : Nat) : Word × Bool :=
  let b := s.readS base .i64
  let i := s.readS index .i64
  let a := b.1 + i.1 + BitVec.ofInt 64 (s.offset off n)
  (BitVec.ofNat 64 (a.toNat / min n 64 * min n 64), b.2 || i.2)

end Sys2Proof.Machine
end

