-- ==== Sys2Proof/Machine/Flags.lean ====
section
/-! DEFINITION. What the mods of a slot make of its result: rounding and flushing from FMODE (R63), predication of a scalar
and of lanes with the poison of the governing mask (R55, R56, R128, R139), and the predicates and masks written beside a
result (R118, R141). -/

namespace Sys2Proof.Machine

open Sys2Proof

/-- R63, R74: the rounding and flush in force for a floating instruction. -/
def fmodOf (f : AvtF) (fmode : Nat) : FMod :=
  { rm := Rm.ofBits (if f.ernd = 1 then f.rnd else BitVec.ofNat 2 fmode)
    sat := f.sat = 1
    ftzi := f.ext.getLsbD 5 || fmode.testBit 2
    ftzo := f.ext.getLsbD 6 || fmode.testBit 3 }

/-- The same, of the slot that acts: FMODE as at bundle start (R62). -/
def State.fmod (s : State) (f : AvtF) : FMod := fmodOf f s.start.sr.fmode.toNat

/-- R63, R74: the same for an instruction whose EXT bits 6:5 are not FTZ bits: FMODE's flush still acts. -/
def State.fmodPlain (s : State) (f : AvtF) : FMod :=
  let m := s.start.sr.fmode.toNat
  { rm := Rm.ofBits (if f.ernd = 1 then f.rnd else BitVec.ofNat 2 m), sat := f.sat = 1, ftzi := m.testBit 2,
    ftzo := m.testBit 3 }

/-- R55: whether an A-class instruction is enabled: bit 0 of its mask, inverted under PINV. -/
def State.enabled (s : State) (f : AvtF) : Bool := (s.govern f).v.getLsbD 0 ^^ (f.pinv == 1)

/-- R55: the mask bit that governs a lane of width w. -/
def maskBit (w i : Nat) : Nat := i * w / 32

/-- R55, R139: whether a lane is enabled. -/
def State.laneOn (s : State) (f : AvtF) (w i : Nat) : Bool :=
  (s.govern f).v.getLsbD (maskBit w i) ^^ (f.pinv == 1)

/-- R118, R128: a predicate write with the poison of the governing mask joined. -/
def predPoison (p : Bool) : PredW → PredW
  | .none => .none
  | .c n v po => .c n v (po || p)
  | .m n v po => .m n v (po || p)

/-- R56, R128: an A-class result. A disabled instruction keeps its named destination's value, or yields +0, and writes no
predicate. Poison of the governing mask joins the result either way. -/
def State.aPush (s : State) (f : AvtF) (lat : Nat) (port : Bool) (v : Word) (poison : Bool) (pw : PredW) : State :=
  let mp := (s.govern f).poison
  if s.enabled f then s.push lat port (.scalar v (poison || mp)) (s.dst f.dst) (predPoison mp pw)
  else
    let old := match s.dst f.dst with | some n => s.start.reg false n | none => .zero
    s.push lat port (.scalar old.word (old.sp || mp)) (s.dst f.dst) .none

/-- R56, R139: a vector result from its lanes, each with the poison it carries: a lane that is not `on` keeps the named destination's. -/
def State.vMerge (s : State) (f : AvtF) (w : Nat) (on : Nat → Bool) (lanes : List (Nat × Bool)) : Val :=
  let old : Val := match s.dst f.dst with | some n => s.start.reg true n | none => .vzero
  let mp := (s.govern f).poison
  let out := lanes.zipIdx.map (fun p => if on p.2 then p.1 else (laneOf w old.bits p.2, old.poison.getLsbD (p.2 * w / 64)))
  let po := out.zipIdx.foldl (fun (acc : BitVec 32) p => if p.1.2 then acc ||| BitVec.ofNat 32 (2 ^ (p.2 * w / 64)) else acc) 0
  ⟨true, BitVec.ofNat 2048 (packLanes w (out.map (·.1))), if mp then BitVec.allOnes 32 else po⟩

/-- R56, R139: a vector result whose lanes the governing mask enables. -/
def State.vResult (s : State) (f : AvtF) (w : Nat) (lanes : List (Nat × Bool)) : Val := s.vMerge f w (s.laneOn f w) lanes

/-- A vector result pushed (R141). -/
def State.vPush (s : State) (f : AvtF) (lat : Nat) (port : Bool) (w : Nat) (lanes : List (Nat × Bool)) : State :=
  s.push lat port (s.vResult f w lanes) (s.dst f.dst) .none

/-- The poison of the word that holds a lane. -/
def lanePoison (w : Nat) (p : BitVec 32) (i : Nat) : Bool := p.getLsbD (i * w / 64)

/-- The lanes of an operand with their poison. -/
def lanesP (w : Nat) (v : BitVec 2048 × BitVec 32) : List (Nat × Bool) :=
  (lanesOf w v.1).zipIdx.map (fun p => (p.1, lanePoison w v.2 p.2))

end Sys2Proof.Machine
end

