-- ==== Sys2Proof/Machine/Scalar.lean ====
section
/-! DEFINITION. The scalar integer instructions of the A class (R128 to R132): arithmetic, logic, division, compares, selects
and moves. -/

namespace Sys2Proof.Machine

open Sys2Proof

/-- R128, R130: an integer operation on A and B, exact and then wrapped or clamped to the type. -/
def State.intOp (s : State) (f : AvtF) (lat : Nat) (g : Int → Int → Int) : State :=
  let t := f.type
  let a := s.readS f.a t
  let b := s.readS f.b t
  let r := intWrap t (f.sat == 1) (g (tyInt t (codeOf t a.1)) (tyInt t (codeOf t b.1)))
  s.aPush f lat (anyPort [f.a, f.b]) (extendCode t r) (a.2 || b.2) .none

/-- R128, R130: an operation on the w-bit codes of A and B. -/
def State.bitOp (s : State) (f : AvtF) (g : Nat → Nat → Nat → Nat) : State :=
  let t := f.type
  let a := s.readS f.a t
  let b := s.readS f.b t
  let r := g (tyWidth t) (codeOf t a.1) (codeOf t b.1) % 2 ^ tyWidth t
  s.aPush f 1 (anyPort [f.a, f.b]) (extendCode t r) (a.2 || b.2) .none

/-- R130: a count over the w-bit code of A. -/
def State.countOp (s : State) (f : AvtF) (g : Nat → Nat → Nat) : State :=
  let t := f.type
  let a := s.readS f.a t
  s.aPush f 1 (anyPort [f.a]) (extendCode t (g (tyWidth t) (codeOf t a.1) % 2 ^ tyWidth t)) a.2 .none

/-- The number of trailing zeros of a code, at most w. -/
def trailingZeros : Nat → Nat → Nat
  | 0, _ => 0
  | w + 1, x => if x % 2 = 1 then 0 else trailingZeros w (x / 2) + 1

/-- The number of one bits of a code. -/
def oneBits : Nat → Nat → Nat
  | 0, _ => 0
  | w + 1, x => x % 2 + oneBits w (x / 2)

/-- The significant bits of a magnitude (R131). -/
def bitLen (x : Nat) : Nat := if x = 0 then 0 else Nat.log2 x + 1

/-- The bits of a code shifted right with its sign (R130). -/
def sarCode (w a n : Nat) : Nat := intBits w (intOf true w a / (2 ^ n : Nat))

/-- R130: ADD. -/
def execAdd (f : AvtF) (s : State) : Out := .next (s.intOp f 1 (fun a b => a + b))
/-- R130: SUB. -/
def execSub (f : AvtF) (s : State) : Out := .next (s.intOp f 1 (fun a b => a - b))
/-- R130: MUL, the low bits of the product, or the exact product clamped. -/
def execMul (f : AvtF) (s : State) : Out := .next (s.intOp f 3 (fun a b => a * b))
/-- R130: MULH, the high bits of the signed double-width product. -/
def execMulh (f : AvtF) (s : State) : Out := .next (s.intOp f 3 (fun a b => a * b / (2 ^ tyWidth f.type : Nat)))
/-- R130: MULHU, the high bits of the unsigned double-width product. -/
def execMulhu (f : AvtF) (s : State) : Out := .next (s.intOp f 3 (fun a b => a * b / (2 ^ tyWidth f.type : Nat)))
/-- R130: AND. -/
def execAnd (f : AvtF) (s : State) : Out := .next (s.bitOp f (fun _ a b => a &&& b))
/-- R130: OR. -/
def execOr (f : AvtF) (s : State) : Out := .next (s.bitOp f (fun _ a b => a ||| b))
/-- R130: XOR. -/
def execXor (f : AvtF) (s : State) : Out := .next (s.bitOp f (fun _ a b => a ^^^ b))
/-- R130: ANDN, A and not B. -/
def execAndn (f : AvtF) (s : State) : Out := .next (s.bitOp f (fun w a b => a &&& (2 ^ w - 1 - b)))
/-- R130: SHL by B mod w. -/
def execShl (f : AvtF) (s : State) : Out := .next (s.bitOp f (fun w a b => a * 2 ^ (b % w)))
/-- R130: SHR by B mod w. -/
def execShr (f : AvtF) (s : State) : Out := .next (s.bitOp f (fun w a b => a / 2 ^ (b % w)))
/-- R130: SAR by B mod w. -/
def execSar (f : AvtF) (s : State) : Out := .next (s.bitOp f (fun w a b => sarCode w a (b % w)))
/-- R130: ROTL within w bits by B mod w. -/
def execRotl (f : AvtF) (s : State) : Out :=
  .next (s.bitOp f (fun w a b => a * 2 ^ (b % w) + a / 2 ^ (w - b % w)))
/-- R130: CLZ. -/
def execClz (f : AvtF) (s : State) : Out := .next (s.countOp f (fun w a => w - bitLen a))
/-- R130: CTZ. -/
def execCtz (f : AvtF) (s : State) : Out := .next (s.countOp f trailingZeros)
/-- R130: POPC. -/
def execPopc (f : AvtF) (s : State) : Out := .next (s.countOp f oneBits)
/-- R130: MIN, signed. -/
def execMin (f : AvtF) (s : State) : Out := .next (s.intOp f 1 (fun a b => if a ≤ b then a else b))
/-- R130: MAX, signed. -/
def execMax (f : AvtF) (s : State) : Out := .next (s.intOp f 1 (fun a b => if a ≤ b then b else a))
/-- R130: MINU, unsigned. -/
def execMinu (f : AvtF) (s : State) : Out := .next (s.intOp f 1 (fun a b => if a ≤ b then a else b))
/-- R130: MAXU, unsigned. -/
def execMaxu (f : AvtF) (s : State) : Out := .next (s.intOp f 1 (fun a b => if a ≤ b then b else a))

/-- R131: the quotient rounded toward zero, the corner of a zero divisor, and overflow. -/
def divResult (t : Ty) (sat : Bool) (a b : Int) : Nat :=
  if b = 0 then
    (if tyIsSigned t then intBits (tyWidth t) (if 0 ≤ a then tyMax t else -1) else 2 ^ tyWidth t - 1)
  else intWrap t sat (Int.tdiv a b)

/-- R131: the remainder, with the sign of its dividend; A when B is 0. -/
def remResult (t : Ty) (a b : Int) : Nat := intBits (tyWidth t) (if b = 0 then a else Int.tmod a b)

/-- R131: the latency of a division. -/
def divLatency (a b : Int) : Nat :=
  let n := if b = 0 then 0 else bitLen a.natAbs + 1 - bitLen b.natAbs
  18 + (n + 3) / 4

/-- R131: a division on the core's divider: one in S2 starts when the result of one in S1 is produced, and the divider is
free again when its own result is. -/
def State.divOp (s : State) (f : AvtF) (g : Ty → Int → Int → Nat) : State :=
  let t := f.type
  let a := s.readS f.a t
  let b := s.readS f.b t
  let x := tyInt t (codeOf t a.1)
  let y := tyInt t (codeOf t b.1)
  let port := anyPort [f.a, f.b]
  let wait := (s.core s.issue.core).divFree - s.cycle
  let lat := wait + divLatency x y
  (s.aPush f lat port (extendCode t (g t x y)) (a.2 || b.2) .none).updCore s.issue.core
    (fun k => { k with divFree := s.cycle + lat + if port then 3 else 0 })

/-- R131: DIV. -/
def execDiv (f : AvtF) (s : State) : Out := .next (s.divOp f (fun t => divResult t (f.sat == 1)))
/-- R131: DIVU. -/
def execDivu (f : AvtF) (s : State) : Out := .next (s.divOp f (fun t => divResult t false))
/-- R131: REM. -/
def execRem (f : AvtF) (s : State) : Out := .next (s.divOp f remResult)
/-- R131: REMU. -/
def execRemu (f : AvtF) (s : State) : Out := .next (s.divOp f remResult)

/-- R132: the compare codes on integers. -/
def intCompare (cc : Nat) (a b : Int) : Bool :=
  match cc with
  | 0 => a = b | 1 => a ≠ b | 2 => a < b | 3 => a ≤ b | 4 => b < a | _ => b ≤ a

/-- R118, R129: the predicate that a compare writes, when its C field names one. -/
def predOf (c : BitVec 7) (v poison : Bool) : PredW := if c = 0 then .none else .c (c.toNat - 8) v poison

/-- A truth value as a scalar. -/
def boolWord (b : Bool) : Word := if b then 1 else 0

/-- R132: SEL, A where the predicate is 1 and B otherwise, with the poison of the operand selected and of the predicate. -/
def execSel (f : AvtF) (s : State) : Out :=
  let p := s.readC f.c
  let r := if p.v then s.readS f.a .i64 else s.readS f.b .i64
  .next (s.aPush f 1 (anyPort [f.a, f.b]) r.1 (r.2 || p.poison) .none)

/-- R132: CMP. -/
def execCmp (f : AvtF) (s : State) : Out :=
  let t := f.type
  let a := s.readS f.a t
  let b := s.readS f.b t
  let r := intCompare f.x (tyInt t (codeOf t a.1)) (tyInt t (codeOf t b.1))
  .next (s.aPush f 1 (anyPort [f.a, f.b]) (boolWord r) (a.2 || b.2) (predOf f.c r (a.2 || b.2)))

/-- R132: LI, the immediate or constant read in its type. -/
def execLi (f : AvtF) (s : State) : Out :=
  let t := f.type
  .next (s.aPush f 1 false (extendCode t (codeOf t (s.readS f.a t).1)) false .none)

/-- R132: MOV, A's 64 bits and poison. -/
def execMov (f : AvtF) (s : State) : Out :=
  let a := s.readS f.a .i64
  .next (s.aPush f 1 (anyPort [f.a]) a.1 a.2 .none)

/-- R132: ADDA, A + (B shifted left by X bits 2:0). -/
def execAdda (f : AvtF) (s : State) : Out :=
  let a := s.readS f.a .i64
  let b := s.readS f.b .i64
  .next (s.aPush f 1 (anyPort [f.a, f.b]) (a.1 + (b.1 <<< (f.x % 8))) (a.2 || b.2) .none)

/-- R132: the length of a bit field, 0 standing for 64. -/
def fieldLen (x : Nat) : Nat := if x % 64 = 0 then 64 else x % 64

/-- R132: EXT, a bit field of A, extended by the type. -/
def execExt (f : AvtF) (s : State) : Out :=
  let a := s.readS f.a f.type
  let b := s.readS f.b f.type
  let len := fieldLen f.x
  let v := a.1.toNat / 2 ^ (b.1.toNat % 64) % 2 ^ len
  .next (s.aPush f 1 (anyPort [f.a, f.b]) (BitVec.ofInt 64 (intOf (f.type = .i64) len v)) (a.2 || b.2) .none)

/-- R132: INS, A's low bits put into a field of C; bits past 63 are dropped. -/
def execIns (f : AvtF) (s : State) : Out :=
  let a := s.readS f.a f.type
  let b := s.readS f.b f.type
  let c := s.readS f.c f.type
  let len := fieldLen f.x
  let pos := b.1.toNat % 64
  let m : Word := BitVec.ofNat 64 ((2 ^ len - 1) * 2 ^ pos)
  let v := (c.1 &&& ~~~m) ||| (BitVec.ofNat 64 (a.1.toNat % 2 ^ len * 2 ^ pos))
  .next (s.aPush f 1 (anyPort [f.a, f.b, f.c]) v (a.2 || b.2 || c.2) .none)

/-! ## Predicates (R133) -/

/-- R133: a predicate computed, written and pushed. -/
def State.predPush (s : State) (f : AvtF) (port : Bool) (v poison : Bool) : State :=
  s.aPush f 1 port (boolWord v) poison (predOf f.c v poison)

/-- R133: PAND. -/
def execPand (f : AvtF) (s : State) : Out :=
  let a := s.readC f.a
  let b := s.readC f.b
  .next (s.predPush f false (a.v && b.v) (a.poison || b.poison))
/-- R133: POR. -/
def execPor (f : AvtF) (s : State) : Out :=
  let a := s.readC f.a
  let b := s.readC f.b
  .next (s.predPush f false (a.v || b.v) (a.poison || b.poison))
/-- R133: PXOR. -/
def execPxor (f : AvtF) (s : State) : Out :=
  let a := s.readC f.a
  let b := s.readC f.b
  .next (s.predPush f false (a.v ^^ b.v) (a.poison || b.poison))
/-- R133: PNOT. -/
def execPnot (f : AvtF) (s : State) : Out :=
  let a := s.readC f.a
  .next (s.predPush f false (!a.v) a.poison)

/-- R133: the bits of a mask that UNIF tests: the even ones for 64-bit lanes, all otherwise. (DEDUCED, log entry 31). -/
def unifBits (w : Nat) (m : Word) : List Bool :=
  (List.range 64).filterMap (fun i => if w = 64 && i % 2 == 1 then none else some (m.getLsbD i))

/-- R133: UNIF. -/
def execUnif (f : AvtF) (s : State) : Out :=
  let w := tyWidth f.type
  if f.x = 3 then
    let a := s.readS f.a f.type
    .next (s.predPush f (anyPort [f.a]) (codeOf f.type a.1 != 0) a.2)
  else
    let m := s.readM f.a
    let bits := unifBits w m.v
    let v := match f.x with
      | 0 => bits.any id
      | 1 => bits.all id
      | _ => !(bits.any id)
    .next (s.predPush f false v m.poison)

end Sys2Proof.Machine
end

