-- ==== Sys2Proof/Machine/ScalarFloat.lean ====
section
/-! DEFINITION. The scalar floating instructions (R136). -/

namespace Sys2Proof.Machine

open Sys2Proof

/-- R136: SFADD, A + B, or A − B with negb. -/
def execSfadd (f : AvtF) (s : State) : Out :=
  let t := f.type
  let a := s.readS f.a t
  let b := s.readS f.b t
  let md := s.fmod f
  let r := if f.x5 % 2 = 1 then fpSub t md (codeOf t a.1) (codeOf t b.1) else fpAdd t md (codeOf t a.1) (codeOf t b.1)
  .next (s.aPush f 4 (anyPort [f.a, f.b]) (extendCode t r) (a.2 || b.2) .none)

/-- R136: SFMUL. -/
def execSfmul (f : AvtF) (s : State) : Out :=
  let t := f.type
  let a := s.readS f.a t
  let b := s.readS f.b t
  .next (s.aPush f 4 (anyPort [f.a, f.b]) (extendCode t (fpMul t (s.fmod f) (codeOf t a.1) (codeOf t b.1))) (a.2 || b.2)
    .none)

/-- R136: SFFMA, ±(A·B) ± C rounded once. -/
def execSffma (f : AvtF) (s : State) : Out :=
  let t := f.type
  let a := s.readS f.a t
  let b := s.readS f.b t
  let c := s.readS f.c t
  let r := fpFma t (s.fmod f) (f.x5 / 2 % 2 == 1) (f.x5 % 2 == 1) (codeOf t a.1) (codeOf t b.1) (codeOf t c.1)
  .next (s.aPush f 6 (anyPort [f.a, f.b, f.c]) (extendCode t r) (a.2 || b.2 || c.2) .none)

/-- R136: SFCMP. -/
def execSfcmp (f : AvtF) (s : State) : Out :=
  let t := f.type
  let a := s.readS f.a t
  let b := s.readS f.b t
  let md := s.fmod f
  let r := fpCompare f.x5 (fpRead t md.ftzi (codeOf t a.1)) (fpRead t md.ftzi (codeOf t b.1))
  .next (s.aPush f 2 (anyPort [f.a, f.b]) (boolWord r) (a.2 || b.2) (predOf f.c r (a.2 || b.2)))

/-- R104, R136: a scalar converted. A scalar that holds the I4X marker alone is no value of R98: the result is free.
(DESIGN CHOICE, log entry 29). -/
def sfcvtWord (t src : Ty) (md : FMod) (x : Word) : Word :=
  let c := codeOf src x
  if src = .i4x && c = 8 then Config.loneMarker t.toBits.toNat
  else extendCode t (cvtElem t md (elemOf src md.ftzi c))

/-- R136: SFCVT. -/
def execSfcvt (f : AvtF) (s : State) : Out :=
  let src : Ty := .ofBits (f.ext.truncate 4)
  let a := s.readS f.a src
  let md := if cvtFloating f then s.fmod f else s.fmodPlain f
  .next (s.aPush f 4 (anyPort [f.a]) (sfcvtWord f.type src md a.1) a.2 .none)

end Sys2Proof.Machine
end

