-- ==== Sys2Proof/Machine/System.lean ====
section
/-! DEFINITION. The system registers (R61 to R64, R134, R202) and the binding of prefetch-queue entries (R54, R135). -/

namespace Sys2Proof.Machine

open Sys2Proof

/-- R59, R61: the 64 saturation bits that SEMSEL shows. -/
def semSatView (k : Core) (sel : Word) : Word := k.semSat.extractLsb' (64 * (sel.toNat % 4)) 64

/-- R61, R134: what MFS of register n yields. -/
def State.sysRead (s : State) (core ctx : Nat) (x : Ctx) (n : Nat) : Word :=
  match n with
  | 0x00 => BitVec.ofNat 64 ctx
  | 0x01 => BitVec.ofNat 64 (s.pkgId * 512 + core)
  | 0x02 => x.sr.taskId | 0x03 => x.sr.groupId | 0x04 => x.sr.jobId | 0x05 => x.sr.prio | 0x06 => x.sr.asid
  | 0x07 => BitVec.ofNat 64 s.cycle
  | 0x08 => x.sr.fmode | 0x09 => x.sr.detmode | 0x0A => x.sr.ckptMark | 0x0B => x.sr.logTail
  | 0x0C => x.sr.repCnt | 0x0D => x.sr.repStep
  | 0x0E => semSatView (s.core core) x.sr.semSel
  | 0x0F => x.sr.semSel
  | 0x10 => x.sr.trapCode | 0x11 => x.sr.trapPc | 0x12 => x.sr.trapTgt | 0x13 => x.sr.dlyPend | 0x14 => x.sr.trapAddr
  | 0x15 => x.sr.trapVec | 0x16 => x.sr.priv | 0x17 => x.sr.routIdx | 0x18 => x.sr.frame | 0x19 => x.sr.joinAddr
  | 0x1A => x.sr.imgBase | 0x1B => x.sr.imgRt
  | n => if 0x40 ≤ n then tget x.sr.rng 0 (n - 0x40) else 0

/-- R61 to R64, R202: whether a value may be written to a register: no reserved bit set, and within its listed range. (DEDUCED, log entry 28). -/
def sysLegal (n : Nat) (v : Word) : Bool :=
  let x := v.toNat
  match n with
  | 0x05 => x ≤ 47
  | 0x06 => x < 2 ^ 16
  | 0x08 => x < 16
  | 0x09 => x < 2
  | 0x0C => x ≤ 65536
  | 0x0D => x ≤ 65536
  | 0x0F => x < 4
  | 0x10 => x < 2 ^ 32
  | 0x13 => x < 2
  | n =>
    if n < 0x40 then true
    else match n % 4 with
      | 0 | 1 => x % 2 ^ 16 == 0
      | 2 => x % 2 ^ 16 == 0 && x < 2 ^ 57
      | _ => x < 2 ^ 58 && x / 2 ^ 32 % 2 ^ 15 == 0 && x / 64 % 2 ^ 10 == 0 && !(v.getLsbD 47 && v.getLsbD 5)

/-- R61, R134: a register written by MTS. SEMSAT clears the bits written as 1, of the word that SEMSEL named at bundle start. -/
def State.sysWrite (s : State) (core ctx n : Nat) (v : Word) : State :=
  let up (g : SysRegs → SysRegs) : State := s.updCtx core ctx (fun x => { x with sr := g x.sr })
  match n with
  | 0x05 => up ({ · with prio := v }) | 0x06 => up ({ · with asid := v })
  | 0x08 => up ({ · with fmode := v }) | 0x09 => up ({ · with detmode := v })
  | 0x0C => up ({ · with repCnt := v }) | 0x0D => up ({ · with repStep := v })
  | 0x0E =>
    let sel := s.start.sr.semSel.toNat % 4
    s.updCore core (fun k => { k with semSat := k.semSat &&& ~~~((v.zeroExtend 256) <<< (64 * sel)) })
  | 0x0F => up ({ · with semSel := v })
  | 0x10 => up ({ · with trapCode := v }) | 0x11 => up ({ · with trapPc := v })
  | 0x12 => up ({ · with trapTgt := v }) | 0x13 => up ({ · with dlyPend := v })
  | 0x14 => up ({ · with trapAddr := v }) | 0x15 => up ({ · with trapVec := v })
  | n => if 0x40 ≤ n then up (fun r => { r with rng := tset r.rng 0 (n - 0x40) v }) else s

/-- R49: the context as MFS reads it: as it stood at bundle start, but with the repetition in progress in REPCNT and REPSTEP.
(DEDUCED, log entry 44). -/
def State.mfsView (s : State) : Ctx :=
  let x := s.start
  let r := (s.ctx s.issue.core s.issue.ctx).rep
  if r.on && 0 < r.left then { x with sr := { x.sr with repCnt := BitVec.ofNat 64 r.left, repStep := BitVec.ofNat 64 r.j } } else x

/-- R134: MFS, one cycle after issue; CYCLE reads the cycle in which it issues. -/
def execMfs (f : AvtF) (s : State) : Out :=
  .next (s.aPush f 1 false (s.sysRead s.issue.core s.issue.ctx s.mfsView f.x) false .none)

/-- R62, R134: MTS. Below supervisor level a register marked SRW traps PRIV; a value that sets a reserved bit or lies outside
its range traps ILLFMT RESV; a poisoned value, and a poisoned governing mask, kills the task. A disabled MTS writes nothing.
(DEDUCED, log entries 28, 72). -/
def execMts (f : AvtF) (s : State) : Out :=
  let a := s.readS f.a .i64
  let slot := s.issue.slot
  if sysSupervisor f.x && s.start.sr.priv = 0 then .next (s.slotTrap ⟨6, 0, 0⟩)
  else if !s.enabled f then .next s
  else if !sysLegal f.x a.1 then .next (s.slotTrap (tIllfmt 3 slot))
  else if a.2 || (s.govern f).poison then .next (s.slotKill 5)
  else .next (s.sysWrite s.issue.core s.issue.ctx f.x a.1)

/-- R135: the registers that a PFQ binds, in order, each with its kind. -/
def pfqBinds (f : AvtF) : List (Bool × Nat) :=
  let one (b : BitVec 7) (bit : Nat) : List (Bool × Nat) :=
    if b = 0 then [] else [(f.x / 2 ^ bit % 2 == 1, b.toNat - 16)]
  one f.a 6 ++ one f.b 5 ++ one f.c 4
    ++ (if f.dst.toNat < 32 then [(f.x / 8 % 2 == 1, f.dst.toNat)] else [])

/-- R54, R135: PFQ. Each entry named is bound, whatever m0 holds, and takes its register's value three cycles later.
(DESIGN CHOICE, log entry 81). -/
def execPfq (f : AvtF) (s : State) : Out :=
  let core := s.issue.core
  let ctx := s.issue.ctx
  .next ((pfqBinds f).zipIdx.foldl (fun s p =>
    let x := s.ctx core ctx
    let e := (f.x % 8 + p.2) % 8
    let n := stepReg p.1.2 s.issue.rep s.issue.rstr
    let stamp := x.nextId
    (s.setCtx core ctx { x with nextId := x.nextId + 1,
                                f := tset x.f .unbound e ⟨true, p.1.1, n, false, stamp, x.reg p.1.1 n⟩ }).at 3
      rkCore core (.pfqEntryArrival core ctx e stamp)) s)

/-- R54: an f entry's value arrives, unless it has been bound again. -/
def execPfqEntryArrival (core ctx entry stamp : Nat) (s : State) : Out :=
  .next (s.updCtx core ctx (fun x =>
    let e := tget x.f .unbound entry
    if e.bound && e.stamp == stamp then
      { x with f := tset x.f .unbound entry { e with arrived := true, val := x.reg e.vec e.reg } }
    else x))

/-- R72: an empty slot does nothing. -/
def execNop (s : State) : Out := .next s

end Sys2Proof.Machine
end

