-- ==== Sys2Proof/Machine/Monitor.lean ====
section
/-! DEFINITION. Monitors (R254, R412, R413): samples, windows and captures, and the MON instructions. -/

namespace Sys2Proof.Machine

open Sys2Proof

/-- Monitor m of core n. -/
def Core.monitor (k : Core) (m : Nat) : Monitor := tget k.monitors .off m

/-- R413: the bin of a sample. -/
def binOf (v : Nat) : Nat := if v < 2 then 0 else min 15 (Nat.log2 v)

/-- R413: a capture with one more sample. -/
def Capture.add (c : Capture) (v : Nat) : Capture :=
  let w := BitVec.ofNat 64 v
  { min := if w.toNat < c.min.toNat then w else c.min, max := if c.max.toNat < w.toNat then w else c.max
    bins := tset c.bins 0 (binOf v) (tget c.bins 0 (binOf v) + 1), count := c.count + 1 }

/-- R412: a sample for monitor m of a core, if it runs. -/
def State.sample (s : State) (core m v : Nat) : State :=
  let k := s.core core
  let x := k.monitor m
  if x.on then s.setCore core { k with monitors := tset k.monitors .off m { x with work := x.work.add v } } else s

/-- R413: word w of a readable capture. -/
def Capture.word (c : Capture) (w : Nat) : Word :=
  if w = 0 then c.min else if w = 1 then c.max else if w < 18 then BitVec.ofNat 64 (tget c.bins 0 (w - 2))
  else BitVec.ofNat 64 c.count

/-- R254, R413: MON_START: the working capture is empty, nothing is readable, and windows of 2^B cycles start. (DEDUCED, log entry 88). -/
def execMonStart (f : EF) (s : State) : Out :=
  let a := (s.readS f.a .i64).1.toNat
  let b := (s.readS f.b .i64).1.toNat
  let core := s.issue.core
  if 7 < a || b < 10 || 40 < b then .next (s.slotTrap (tOpnd s.issue.slot))
  else
    let n := s.next
    let s := n.2.updCore core (fun k => { k with monitors := tset k.monitors .off a ⟨true, 2 ^ b, n.1, .empty, .none, .none, 0⟩ })
    .next (s.at (2 ^ b) rkLast core (.monitorWindowEnd core a n.1))

/-- R254, R413: MON_STOP: the readable capture is frozen and sampling stops. In the cycle of a window's end that end, which
acts before the cycle's bundles, has been latched already (R414). -/
def execMonStop (f : EF) (s : State) : Out :=
  let a := (s.readS f.a .i64).1.toNat
  if 7 < a then .next (s.slotTrap (tOpnd s.issue.slot))
  else .next (s.updCore s.issue.core (fun k =>
    { k with monitors := tset k.monitors .off a { k.monitor a with on := false, stamp := 0 } }))

/-- R254, R413: MON_RD: a word of the readable capture, four cycles after issue. -/
def execMonRd (f : EF) (s : State) : Out :=
  let a := (s.readS f.a .i64).1.toNat
  let b := (s.readS f.b .i64).1.toNat
  if 7 < a || 18 < b then .next (s.slotTrap (tOpnd s.issue.slot))
  else
    let m := (s.core s.issue.core).monitor a
    let c := if m.on && m.since = s.cycle then m.before else m.readable
    .next (s.push 4 (anyPort [f.a, f.b]) (.scalar (c.word b) false) (s.dst f.dst) .none)

/-- R413: MONITOR_WINDOW_END: the working capture becomes readable and a new window begins. -/
def execMonitorWindowEnd (core monitor stamp : Nat) (s : State) : Out :=
  let k := s.core core
  let m := k.monitor monitor
  if m.on && m.stamp = stamp then
    let m' := { m with work := .empty, readable := m.work, before := m.readable, since := s.cycle }
    .next ((s.setCore core { k with monitors := tset k.monitors .off monitor m' }).at m.window rkLast core
      (.monitorWindowEnd core monitor stamp))
  else .next s

/-- R407: the voltage domain of a core. -/
def coreDomain (n : Nat) : Nat := 8 * coreDie n + coreY n / 2

/-- R209, R260, R412: the entries of a core's log: those of its contexts' segments and of tasks that yielded, and parked host writes. -/
def Core.logCount (k : Core) : Nat :=
  let host (e : SideEnt) : Bool := match e.ev with | .logEntryArrival p => p.host | _ => false
  ((k.ctxs.entries.map (fun e => e.2.log.length)) ++ k.yielded.map (fun y => y.2.log.length)).sum + (k.side.filter host).length

/-- R412: MONITOR_PERIODIC_SAMPLE: every 1,024 cycles monitors 4 to 7 of every core take a sample. (DESIGN CHOICE, log entry 56). -/
def execMonitorPeriodicSample (s : State) : Out :=
  let one (s : State) (core : Nat) : State :=
    let k := s.core core
    let s := s.sample core 4 (tget s.docents .reset (coreDie core)).items.length
    let s := s.sample core 5 k.logCount
    let s := s.sample core 6 (tget s.rel.temps 0 (coreDie core))
    s.sample core 7 (Config.nominalVoltage (coreDomain core) - 10 * tget s.rel.steps 0 (coreDomain core))
  let s := (s.cores.entries.map (·.1)).foldl one s
  .next (s.at 1024 rkCore 0 .monitorPeriodicSample)

end Sys2Proof.Machine
end

