-- ==== Sys2Proof/Machine/Bytes.lean ====
section
/-! DEFINITION. Bytes and lines of the memories: reading and writing a run of bytes, a 64-byte line under its mask, and the
poison bit of every 64-bit word (R66, R214, R370). -/

namespace Sys2Proof.Machine

open Sys2Proof

/-- The listed pairs of a table with keys from lo to lo + n − 1. -/
def tslice {α : Type} (t : Tbl α) (lo n : Nat) : List (Nat × α) :=
  (t.entries.dropWhile (fun e => e.1 < lo)).takeWhile (fun e => e.1 < lo + n)

/-- The canonical form of a memory: addresses strictly rising, and no entry equal to 0, which an unlisted address reads as.
(DESIGN CHOICE, log entry 2). -/
def Memory.wf (t : Tbl Byte) : Bool := twf t 0

/-- n bytes from an address, little-endian; a byte that nothing has written reads 0. -/
def bytesAt (t : Tbl Byte) (a n : Nat) : Nat :=
  (tslice t a n).foldr (fun e acc => acc + e.2.toNat * 256 ^ (e.1 - a)) 0

/-- Byte i of a little-endian number. -/
def byteOf (x i : Nat) : Byte := BitVec.ofNat 8 (x / 256 ^ i)

/-- n bytes of a number written from an address. -/
def putBytes (t : Tbl Byte) (a n x : Nat) : Tbl Byte :=
  (List.range n).foldl (fun t i => tset t 0 (a + i) (byteOf x i)) t

/-- A line of a memory. -/
def lineAt (t : Tbl Byte) (a : Nat) : Line := BitVec.ofNat 512 (bytesAt t a 64)

/-- The bytes of a line that its mask covers, written from an address. -/
def putLine (t : Tbl Byte) (a : Nat) (d : Line) (mask : BitVec 64) : Tbl Byte :=
  (List.range 64).foldl (fun t i => if mask.getLsbD i then tset t 0 (a + i) (d.extractLsb' (8 * i) 8) else t) t

/-- The poison bits of n words from an address, by the number of each word in its memory. -/
def poisonAt (t : Tbl Bool) (a n : Nat) : Nat :=
  (List.range n).foldr (fun i acc => (if tget t false (a / 8 + i) then 1 else 0) + 2 * acc) 0

/-- R370: the poison of a word after a write: a whole word takes the new bit, a part of one joins it. -/
def mergePoison (whole some' old new : Bool) : Bool := if whole then new else if some' then old || new else old

/-- R370: the poison of a line's words after a write under a mask. -/
def putPoison (t : Tbl Bool) (a : Nat) (mask : BitVec 64) (p : BitVec 8) : Tbl Bool :=
  (List.range 8).foldl (fun t k =>
    let m := (mask.toNat / 256 ^ k) % 256
    tset t false (a / 8 + k) (mergePoison (m == 255) (m != 0) (tget t false (a / 8 + k)) (p.getLsbD k))) t

/-- R370: the poison of the words that n bytes from an address touch, after a write. -/
def putPoisonRun (t : Tbl Bool) (a n : Nat) (p : Nat → Bool) : Tbl Bool :=
  let first := a / 8
  let last := (a + n - 1) / 8
  (List.range (last + 1 - first)).foldl (fun t k =>
    let w := first + k
    let whole := decide (a ≤ 8 * w) && decide (8 * w + 8 ≤ a + n)
    tset t false w (mergePoison whole true (tget t false w) (p w))) t

/-- A mask of n bytes from byte i of a line. -/
def byteMask (i n : Nat) : BitVec 64 := BitVec.ofNat 64 ((2 ^ n - 1) * 2 ^ i)

/-- A line overlaid with the bytes of another under a mask. -/
def overlayLine (old new : Line) (mask : BitVec 64) : Line :=
  let m := BitVec.ofNat 512 ((List.range 64).foldr (fun i acc => (if mask.getLsbD i then 255 else 0) + 256 * acc) 0)
  (old &&& ~~~m) ||| (new &&& m)

/-- The poison of a line overlaid with another under a mask. -/
def overlayPoison (old new : BitVec 8) (mask : BitVec 64) : BitVec 8 :=
  BitVec.ofNat 8 ((List.range 8).foldr (fun k acc =>
    let m := (mask.toNat / 256 ^ k) % 256
    (if mergePoison (m == 255) (m != 0) (old.getLsbD k) (new.getLsbD k) then 1 else 0) + 2 * acc) 0)

/-- Where a line stands (R212, R345): in its bay's Hall storage by IA, in DRAM by physical address (and whether its segment is
encrypted, R346), or in host memory. -/
inductive Place where
  | hall (ia : Nat)
  | dram (pa : Nat) (enc : Bool)
  | host (a : Nat)
  deriving DecidableEq, Repr

/-- R345: a physical address that no DRAM of the module holds stops the machine where an access to it is made. -/
def State.checkPa (s : State) (pa : Nat) : State := if pa < Config.packageDram then s else { s with stuck := some .physicalHole }

/-- R18, R373: the channel of a physical address, by die and channel. -/
def channelOf (pa : Nat) : Nat := pa / 2 ^ 30

/-- R376, R377: the width of a channel. -/
def State.channelWidth (s : State) (c : Nat) : Nat := (tget s.ctl.chstat widthReset c).toNat % 4

/-! ### Checks of a block's transfer (R373 to R376, R381) -/

/-- R375: the parity groups whose lanes a channel uses: all, or the half that did not mismatch when it narrowed. -/
def State.lanesUsed (s : State) (c : Nat) : BitVec 8 :=
  let g := tget s.rel.narrow 0 c
  if g = 0 then 0xFF else if g &&& 0x0F = 0 then 0x0F else 0xF0

/-- R375: the mismatching groups of each coming attempt of a block's transfer, over the lanes that its channel uses. -/
def State.mismatches (s : State) (pa : Nat) : List (BitVec 8) :=
  (tget s.rel.parity [] (pa / 64)).map (· &&& s.lanesUsed (channelOf pa))

/-- R375: the lanes of the half that held no mismatching group. -/
def goodHalf (g : BitVec 8) : BitVec 8 := if g &&& 0x0F = 0 then 0x0F else 0xF0

/-- R375: whether one half held no mismatching group. -/
def oneHalf (g : BitVec 8) : Bool := g &&& 0x0F = 0 || g &&& 0xF0 = 0

/-- R375, R376: the attempts at half width that fail once a transfer has narrowed its channel, at most 4. -/
def State.halfTries (s : State) (pa : Nat) : Nat :=
  let l := s.mismatches pa
  (((l.drop 4).take 4).takeWhile (fun m => m &&& goodHalf (l[3]?.getD 0) != 0)).length

/-- What a block's transfer comes to: the attempts that fail before its outcome, at most 4, and whether the channel fails (R376). -/
def State.transfer (s : State) (pa : Nat) : Nat × Bool :=
  let l := s.mismatches pa
  let n := ((l.take 4).takeWhile (· != 0)).length
  if n < 4 then (n, false)
  else
    let g := l[3]?.getD 0
    (4, s.channelWidth (channelOf pa) = 1 || !oneHalf g || s.halfTries pa = 4)

/-- R374, R375: the cycles that errors and a narrowed channel add to a block's delivery: 16 for each retry, 258 for narrowing and its first half-width
transfer.
(DESIGN CHOICE, log entry 12). -/
def State.transferTime (s : State) (pa : Nat) : Nat :=
  let t := s.transfer pa
  16 * min t.1 3 + (if t.1 = 4 then 258 + 16 * s.halfTries pa else 0) + (if s.channelWidth (channelOf pa) = 1 then 1 else 0)
    + (if (tget s.rel.cells none (pa / 64)).any (fun c => c.outcome == 1) then 4 else 0)

/-- R381, R411: whether an encrypted block's tag holds: it was written since the last reset, and its error, if any, is corrected or
reported. (DESIGN CHOICE, log entry 49). -/
def State.tagHolds (s : State) (pa : Nat) : Bool :=
  tget s.encAt 0 (pa / 64) = s.resets + 1 && !(tget s.rel.cells none (pa / 64)).any (fun c => 3 ≤ c.outcome)

/-- R374, R381, R411: a block as the channel controller delivers it: plaintext where its tag holds, ciphertext read through a
segment that is not encrypted, poison where an error is reported. (DESIGN CHOICE, log entries 49, 50). -/
def State.deliverBlock (s : State) (pa : Nat) (enc : Bool) : Line × BitVec 8 :=
  let a := pa / 64 * 64
  let d := lineAt s.dram a
  let p := BitVec.ofNat 8 (poisonAt s.dramPoison a 8)
  let o := ((tget s.rel.cells none (pa / 64)).map (·.outcome)).getD 0
  let mark := tget s.encAt 0 (pa / 64)
  if o = 2 then (0, 0xFF)
  else if enc then (if s.tagHolds pa then (d, p) else (0, 0xFF))
  else if 3 ≤ o then (Config.lostLine s.freeCtr, p)
  else if mark = 0 then (d, p) else (Config.cipherLine mark (pa / 64) d, p)

/-- R374, R375, R381: what a block's delivery logs: the step of a block in error, and the first of a transfer's retries.
(DESIGN CHOICE, log entry 49). -/
def State.noteBlock (s : State) (pa : Nat) (enc : Bool) : State :=
  let c := tget s.rel.cells none (pa / 64)
  let o := (c.map (·.outcome)).getD 0
  let ok := !enc || s.tagHolds pa
  let s := if 3 ≤ o && !enc then { s with freeCtr := s.freeCtr + 1 } else s
  let s := if o = 0 && ok then s
    else s.at 0 rkLast (pa / 64) (.dramBlockRead (pa / 64 * 64) o ((c.map (·.symbol)).getD 0) enc ok)
  match s.mismatches pa with
  | g :: rest => if g = 0 then { s with rel := { s.rel with parity := tset s.rel.parity [] (pa / 64) rest } }
    else { s with rel := { s.rel with parity := tset s.rel.parity [] (pa / 64) rest } }.at 16 rkLast (pa / 64)
      (.parityRetry (pa / 64 * 64) 1 g)
  | [] => s

/-- R12, R214: whether a physical address lies in the store-log extensions of its die's cores, which no access sees: the last 2 GiB of
the die's DRAM. (DESIGN CHOICE, log entry 82). -/
def inExtension (pa : Nat) : Bool := Config.dieDram - Config.logCarve ≤ pa % Config.dieDram

/-- R16, R212: the lines of DRAM that a bay can hold beside its Hall-placed data. (DESIGN CHOICE, log entry 82). -/
def Bay.lineRoom (b : Bay) : Nat := (128 - b.hallRegions) * 1024

/-- Lines left after some have made way for others. (DESIGN CHOICE, log entry 82). -/
def evictLines (ctr : Nat) : Nat → List (Nat × (Line × BitVec 8)) → List (Nat × (Line × BitVec 8))
  | 0, l => l
  | n + 1, l => evictLines (ctr + 1) n (l.eraseIdx (Config.bayVictim ctr % l.length))

/-- R16, R212: a bay's lines of DRAM held to the part of its 8 MiB that Hall-placed data leaves them. (DESIGN CHOICE, log entry 82). -/
def State.fitBay (s : State) (bay : Nat) : State :=
  let b := tget s.bays .reset bay
  let more := b.lines.entries.length - b.lineRoom
  if more = 0 then s
  else { s with bays := tset s.bays .reset bay { b with lines := ⟨evictLines s.freeCtr more b.lines.entries⟩ }
                freeCtr := s.freeCtr + more }

/-- R350, R397: a line of DRAM read through a bay, which keeps a copy; with the cycles that DRAM adds where it had none. A failed
channel reads as zeros with every word poisoned (R376). (DEDUCED, log entry 54; DESIGN CHOICE, log entry 82). -/
def State.readDram (s : State) (bay pa : Nat) (enc : Bool) : (Line × BitVec 8) × Nat × State :=
  let s := s.checkPa pa
  let b := tget s.bays .reset bay
  match b.lines.entries.find? (fun e => e.1 == pa / 64) with
  | some e => (e.2, 0, s)
  | none =>
    if inExtension pa then ((Config.extensionLine s.freeCtr, 0), Config.dramExtra, { s with freeCtr := s.freeCtr + 1 }) else
    let dead := s.channelWidth (channelOf pa) = 0
    let v : Line × BitVec 8 := if dead || (s.transfer pa).2 then (0, 0xFF) else s.deliverBlock pa enc
    let time := if dead then 0 else s.transferTime pa
    let lines : Tbl (Line × BitVec 8) :=
      ⟨b.lines.entries.takeWhile (fun e => e.1 < pa / 64) ++ (pa / 64, v) :: b.lines.entries.dropWhile (fun e => e.1 < pa / 64)⟩
    let s := if dead then s else s.noteBlock pa enc
    (v, Config.dramExtra + time, { s with bays := tset s.bays .reset bay { b with lines } }.fitBay bay)

/-- A bay's copy of a DRAM line replaced, if it has one. (DEDUCED, log entry 48). -/
def Bay.patch (b : Bay) (pa : Nat) (d : Line) (mask : BitVec 64) (p : BitVec 8) : Bay :=
  { b with lines := ⟨b.lines.entries.map (fun e => if e.1 == pa / 64
      then (e.1, (overlayLine e.2.1 d mask, overlayPoison e.2.2 p mask)) else e)⟩ }

/-- The line at a place, read at a bay, with the cycles that DRAM adds (R18, R212). (DEDUCED, log entries 6, 48, 54). -/
def State.readPlace (s : State) (bay : Nat) (p : Place) : (Line × BitVec 8) × Nat × State :=
  match p with
  | .hall ia => ((lineAt s.hall ia, BitVec.ofNat 8 (poisonAt s.hallPoison ia 8)), 0, s)
  | .dram pa enc => s.readDram bay pa enc
  | .host a => ((lineAt s.host a, 0), 0, s)

/-- R374, R411: a DRAM block stored whole: an error in its cells goes, unless it is a hard one; encrypted or not. (DESIGN CHOICE, log entry 49). -/
def State.storeBlock (s : State) (pa : Nat) (enc : Bool) (d : Line) (mask : BitVec 64) (po : BitVec 8) : State :=
  let cells := match tget s.rel.cells none (pa / 64) with
    | some c => if c.hard then tset s.rel.cells none (pa / 64) (some { c with stored := s.cycle + 1 }) else tset s.rel.cells none (pa / 64) none
    | none => s.rel.cells
  { s with dram := putLine s.dram (pa / 64 * 64) d mask
           dramPoison := putPoison s.dramPoison (pa / 64 * 64) mask po
           encAt := tset s.encAt 0 (pa / 64) (if enc then s.resets + 1 else 0)
           rel := { s.rel with cells } }

/-- R411: whether a part of a block can be written without reading the rest of it first. (DESIGN CHOICE, log entry 49). -/
def State.plainBlock (s : State) (pa : Nat) (enc : Bool) : Bool :=
  (tget s.rel.cells none (pa / 64)).isNone && tget s.encAt 0 (pa / 64) = if enc then s.resets + 1 else 0

/-- A line written at a place under a mask, at a bay (its copy of a DRAM line included). A failed channel discards it
(R376). (DEDUCED, log entry 48; DESIGN CHOICE, log entry 82). -/
def State.writePlace (s : State) (bay : Nat) (p : Place) (d : Line) (mask : BitVec 64) (po : BitVec 8) : State :=
  match p with
  | .hall ia => { s with hall := putLine s.hall ia d mask, hallPoison := putPoison s.hallPoison ia mask po }
  | .dram pa enc =>
    let s := s.checkPa pa
    if inExtension pa || s.channelWidth (channelOf pa) = 0 then s
    else
      let s :=
        if mask = BitVec.allOnes 64 || s.plainBlock pa enc then s.storeBlock pa enc d mask po
        else
          let r := s.readDram bay pa enc
          r.2.2.storeBlock pa enc (overlayLine r.1.1 d mask) (BitVec.allOnes 64) (overlayPoison r.1.2 po mask)
      let b := (tget s.bays .reset bay).patch pa d mask po
      { s with bays := tset s.bays .reset bay b }
  | .host a => { s with host := putLine s.host a d mask }

/-- The number under which the key of a byte at a place is kept. -/
def Place.keyAt (p : Place) (i : Nat) : Nat :=
  match p with
  | .hall ia => 2 * (ia + i)
  | .dram pa _ => 2 * (pa / 64 * 64 + i) + 1
  | .host a => 2 * (2 ^ 60 + a + i)

/-- R215, R259: the order of keys: sequence value, package, die, core, position. -/
def keyLt (a b : Key) : Bool :=
  a.s < b.s || (a.s == b.s && (a.pkg < b.pkg || (a.pkg == b.pkg && (a.die < b.die || (a.die == b.die
    && (a.core < b.core || (a.core == b.core && a.pos < b.pos)))))))

/-- R215 rule 3: the bytes of a line at a place for which a key is higher than the key of their last write. -/
def State.higherBytes (s : State) (p : Place) (mask : BitVec 64) (k : Key) : BitVec 64 :=
  BitVec.ofNat 64 ((List.range 64).foldr (fun i acc =>
    (if mask.getLsbD i && (match tget s.keys none (p.keyAt i) with | none => true | some o => keyLt o k) then 1 else 0) + 2 * acc) 0)

/-- R215 rule 4: the bytes of a line at a place whose last write has no higher key than an atomic's, a host write's or an engine
write's, which follows every write of an equal key. (DEDUCED, log entry 18). -/
def State.openBytes (s : State) (p : Place) (mask : BitVec 64) (k : Key) : BitVec 64 :=
  BitVec.ofNat 64 ((List.range 64).foldr (fun i acc =>
    (if mask.getLsbD i && (match tget s.keys none (p.keyAt i) with | none => true | some o => !keyLt k o) then 1 else 0) + 2 * acc) 0)

/-- The key of a write left on the bytes of a mask. -/
def State.setKeys (s : State) (p : Place) (mask : BitVec 64) (k : Key) : State :=
  let put (t : Tbl (Option Key)) (i : Nat) : Tbl (Option Key) :=
    if mask.getLsbD i then tset t none (p.keyAt i) (some k) else t
  { s with keys := (List.range 64).foldl put s.keys }

end Sys2Proof.Machine
end

