-- ==== Sys2Proof/Machine/Sm3.lean ====
section
/-! DEFINITION. The SM3 hash, by which digests and measurements are formed (R186, R408 to R410): the standard's compression
over 512-bit blocks. -/

namespace Sys2Proof.Machine

/-- The words of the hash. -/
abbrev H32 := BitVec 32

/-- Rotation of a word to the left. -/
def rot32 (x : H32) (n : Nat) : H32 := x.rotateLeft n

/-- The permutations P0 and P1 of the standard. -/
def sm3P0 (x : H32) : H32 := x ^^^ rot32 x 9 ^^^ rot32 x 17
def sm3P1 (x : H32) : H32 := x ^^^ rot32 x 15 ^^^ rot32 x 23

/-- The functions FF and GG of round j. -/
def sm3FF (j : Nat) (x y z : H32) : H32 := if j < 16 then x ^^^ y ^^^ z else (x &&& y) ||| (x &&& z) ||| (y &&& z)
def sm3GG (j : Nat) (x y z : H32) : H32 := if j < 16 then x ^^^ y ^^^ z else (x &&& y) ||| (~~~x &&& z)

/-- The constant of round j. -/
def sm3T (j : Nat) : H32 := if j < 16 then 0x79CC4519 else 0x7A879D8A

/-- The eight words of the chaining value. -/
structure Sm3V where
  a : H32
  b : H32
  c : H32
  d : H32
  e : H32
  f : H32
  g : H32
  h : H32

/-- The initial value. -/
def sm3Iv : Sm3V :=
  ⟨0x7380166F, 0x4914B2B9, 0x172442D7, 0xDA8A0600, 0xA96F30BC, 0x163138AA, 0xE38DEE4D, 0xB0FB0E4E⟩

/-- The expanded message: 16 words of the block extended to 68. -/
def sm3Expand : Nat → List H32 → List H32
  | 0, w => w
  | n + 1, w =>
    let at' (k : Nat) : H32 := w.getD (w.length - k) 0
    sm3Expand n (w ++ [sm3P1 (at' 16 ^^^ at' 9 ^^^ rot32 (at' 3) 15) ^^^ rot32 (at' 13) 7 ^^^ at' 6])

/-- Rounds j and later, on the pairs of words W and W'. -/
def sm3Rounds : Nat → List (H32 × H32) → Sm3V → Sm3V
  | _, [], v => v
  | j, (w, w') :: rest, v =>
    let ss1 := rot32 (rot32 v.a 12 + v.e + rot32 (sm3T j) (j % 32)) 7
    let ss2 := ss1 ^^^ rot32 v.a 12
    let tt1 := sm3FF j v.a v.b v.c + v.d + ss2 + w'
    let tt2 := sm3GG j v.e v.f v.g + v.h + ss1 + w
    sm3Rounds (j + 1) rest ⟨tt1, v.a, rot32 v.b 9, v.c, sm3P0 tt2, v.e, rot32 v.f 19, v.g⟩

/-- The compression of one block of 16 words. -/
def sm3Block (v : Sm3V) (blk : List H32) : Sm3V :=
  let w := sm3Expand 52 blk
  let r := sm3Rounds 0 ((w.take 64).zipIdx.map (fun p => (p.1, p.1 ^^^ w.getD (p.2 + 4) 0))) v
  ⟨v.a ^^^ r.a, v.b ^^^ r.b, v.c ^^^ r.c, v.d ^^^ r.d, v.e ^^^ r.e, v.f ^^^ r.f, v.g ^^^ r.g, v.h ^^^ r.h⟩

/-- Bytes as big-endian words. -/
def bytesToWords : List (BitVec 8) → List H32
  | a :: b :: c :: d :: rest => (a ++ b ++ c ++ d) :: bytesToWords rest
  | _ => []

/-- The blocks of a padded message. -/
def sm3Blocks : Nat → List H32 → Sm3V → Sm3V
  | 0, _, v => v
  | n + 1, ws, v => sm3Blocks n (ws.drop 16) (sm3Block v (ws.take 16))

/-- The padding of a message of n bytes. -/
def sm3Pad (n : Nat) : List (BitVec 8) :=
  let zeros := (119 - n % 64) % 64
  0x80 :: List.replicate zeros 0 ++ (List.range 8).map (fun i => BitVec.ofNat 8 (n * 8 / 256 ^ (7 - i)))

/-- The bytes of a word, the most significant first. -/
def wordBytes (w : H32) : List (BitVec 8) := (List.range 4).map (fun i => w.extractLsb' (24 - 8 * i) 8)

/-- SM3 of a message, 32 bytes in output order. -/
def sm3 (msg : List (BitVec 8)) : List (BitVec 8) :=
  let p := msg ++ sm3Pad msg.length
  let v := sm3Blocks (p.length / 64) (bytesToWords p) sm3Iv
  [v.a, v.b, v.c, v.d, v.e, v.f, v.g, v.h].flatMap wordBytes

/-- Bytes in memory order as a little-endian number. -/
def bytesToNat : List (BitVec 8) → Nat
  | [] => 0
  | b :: rest => b.toNat + 256 * bytesToNat rest

/-- The low n bytes of a number in memory order. -/
def natToBytes : Nat → Nat → List (BitVec 8)
  | 0, _ => []
  | n + 1, x => BitVec.ofNat 8 x :: natToBytes n (x / 256)

end Sys2Proof.Machine
end

