-- ==== Sys2Proof/Machine/CtlSpace.lean ====
section
/-! DEFINITION. The device control space (R269, R419): what each offset reads as, what a write to it does, and the registers
whose writes start something (R271, R397, R401, R409, R410). -/

namespace Sys2Proof.Machine

open Sys2Proof

/-- R269: the first IA of the control space, and whether an IA lies in it. -/
def ctlBase : Nat := 0x1FFFFFFFFF00000
def isCtl (ia : Nat) : Bool := ctlBase ≤ ia && ia < 2 ^ 57

/-! ## Reading -/

/-- R272, R367: what core n of the package counts for: its contexts and its tiles. -/
def State.coreFree (s : State) (n : Nat) : Bool × Bool :=
  let k := s.core n
  if k.dead then (false, false)
  else match k.group with
    | none => (true, true)
    | some g => match s.group g with
      | some x => (x.phase == .saving, false)
      | none => (true, true)

/-- R272: FREECNT of a die. -/
def State.freecnt (s : State) (d : Nat) : Word :=
  let l := (List.range 128).map (fun i => s.coreFree (128 * d + i))
  let ctxs := 4 * (l.filter (·.1)).length
  let tiles := 512 * (l.filter (·.2)).length
  BitVec.ofNat 64 (tiles * 2 ^ 32 + (tget s.docents .reset d).barsFree.length * 2 ^ 16 + ctxs)

/-- Word i of a wide register, the lowest first. -/
def wordOf (x i : Nat) : Word := BitVec.ofNat 64 (x / 2 ^ (64 * i))

/-- R321: LINKCTL as it reads: WIDTH holds the lanes that work, and FWIDTH 1 forces one of two. -/
def linkShown (w : Word) : Word := if w.toNat / 16 % 4 = 1 && w.toNat / 64 % 4 = 2 then w - 0x40 else w

/-- R269 and the maps of the control space: the 8 bytes at an offset, a multiple of 8; 0 where no register stands. -/
def State.ctlWord (s : State) (off : Nat) : Word :=
  let c := s.ctl
  if off = 0x100 then c.schedctl
  else if 0x110 ≤ off && off < 0x130 then s.freecnt ((off - 0x110) / 8)
  else if off = 0x200 then c.gustctl
  else if 0x220 ≤ off && off < 0x240 then tget c.gustpath gustpathReset ((off - 0x220) / 8)
  else if off = 0x300 then c.syrctl
  else if 0x400 ≤ off && off < 0x600 then linkShown (tget c.linkctl linkctlReset ((off - 0x400) / 8))
  else if off = 0x600 then c.detctl
  else if off = 0x700 then c.segroot
  else if off = 0x800 then c.relctl
  else if off = 0x808 then c.relstat
  else if off = 0x900 then c.scrubctl
  else if 0xA00 ≤ off && off < 0xA20 then tget c.edgestat widthReset ((off - 0xA00) / 8)
  else if 0xA40 ≤ off && off < 0xA60 then tget c.eccHead 0 ((off - 0xA40) / 8)
  else if 0xA60 ≤ off && off < 0xA80 then tget c.xferHead 0 ((off - 0xA60) / 8)
  else if off = 0xC00 then c.pwrctl
  else if off = 0xC08 then c.pwrstat
  else if 0xD00 ≤ off && off < 0xD80 then wordOf (tget c.m 0 ((off - 0xD00) / 32)).toNat (off % 32 / 8)
  else if 0xE00 ≤ off && off < 0xE20 then wordOf c.nonce.toNat ((off - 0xE00) / 8)
  else if 0xE20 ≤ off && off < 0xE60 then wordOf c.quoteSig.toNat ((off - 0xE20) / 8)
  else if off = 0xE60 then c.quoteDone
  else if 0xE80 ≤ off && off < 0xEC0 then wordOf Config.publicKey.toNat ((off - 0xE80) / 8)
  else if 0x1000 ≤ off && off < 0x2000 then
    let k := (off - 0x1000) / 256
    let r := off % 256
    if r = 0 then tget c.collTag collTagReset k
    else if 0x80 ≤ r then wordOf (tget c.collMask 0 k).toNat ((r - 0x80) / 8) else 0
  else if 0x20000 ≤ off && off < 0x22000 then tget c.route 0 ((off - 0x20000) / 8)
  else if 0x40000 ≤ off && off < 0x48000 then tget c.asids 0 ((off - 0x40000) / 8)
  else if 0x50000 ≤ off && off < 0x51000 then
    let b := tget c.buffers (0, 0) ((off - 0x50000) / 16)
    if off % 16 = 0 then b.1 else b.2
  else if 0x60000 ≤ off && off < 0x61000 then tget c.chstat widthReset ((off - 0x60000) / 8)
  else if 0x70000 ≤ off && off < 0x74000 then
    let e := tget c.eccLog (0, 0) ((off - 0x70000) / 16)
    if off % 16 = 0 then e.1 else e.2
  else if 0x80000 ≤ off && off < 0x84000 then
    let e := tget c.xferLog (0, 0) ((off - 0x80000) / 16)
    if off % 16 = 0 then e.1 else e.2
  else 0

/-! ## Writing -/

/-- R419: bytes merged into a value. -/
def mergeWord (old v : Word) (mask : Nat) : Word := (old &&& ~~~(BitVec.ofNat 64 mask)) ||| (v &&& BitVec.ofNat 64 mask)

/-- R7 and the maps of the control space: which bits of the word at an offset a write sets at supervisor level, which it sets
at firmware level only, and which it clears by writing 1; none where no register stands. -/
def ctlMasks (off : Nat) : Option (Nat × Nat × Nat) :=
  if off = 0x100 then some (0xF0003, 0, 0)
  else if off = 0x108 then some (0, 0, 0)
  else if 0x110 ≤ off && off < 0x130 then some (0, 0, 0)
  else if off = 0x200 then some (0xFFD, 0, 0)
  else if 0x220 ≤ off && off < 0x240 then some (0x801FFFFFFFFFFFFF, 0, 0)
  else if off = 0x300 then some (1, 0x3FF00000000, 0)
  else if 0x400 ≤ off && off < 0x600 then some (0x31, 8, 0xFFFF0000)
  else if off = 0x600 then some (0xFF0003, 0, 0)
  else if off = 0x700 then some (0xFFF0FFFFFFFFF000, 0, 0)
  else if off = 0x800 then some (0x00FFFFFFFFFFFF01, 0, 0)
  else if off = 0x808 then some (0, 0, 0)
  else if off = 0x900 then some (0xFF03, 0, 0)
  else if 0xA00 ≤ off && off < 0xA20 then some (0, 0, 0xFFFF0000)
  else if 0xA40 ≤ off && off < 0xA80 then some (0, 0, 0xFFFFFFFF00000000)
  else if off = 0xC00 then some (0xFF0001, 0, 0)
  else if off = 0xC08 then some (0, 0, 0)
  else if 0xE20 ≤ off && off < 0xE68 then some (0, 0, 0)
  else if 0xE80 ≤ off && off < 0xEC0 then some (0, 0, 0)
  else if 0x1000 ≤ off && off < 0x2000 then
    if off % 256 = 0 then some (0x8000FF00FFFFFFFF, 0, 0)
    else if 0x80 ≤ off % 256 then some (2 ^ 64 - 1, 0, 0) else none
  else if 0x20000 ≤ off && off < 0x22000 then some (2 ^ 64 - 1, 0, 0)
  else if 0x40000 ≤ off && off < 0x48000 then some (0x1F, 0, 0)
  else if 0x50000 ≤ off && off < 0x51000 then
    if off % 16 = 0 then some (0x01FFFFFFFFFFFFC0, 0, 0) else some (0x8000003FFFFFFFFF, 0, 0)
  else if 0x60000 ≤ off && off < 0x61000 then some (0, 0, 0x0000FFFFFFFFFF04)
  else if 0x70000 ≤ off && off < 0x74000 then some (0, 0, 0)
  else if 0x80000 ≤ off && off < 0x84000 then some (0, 0, 0)
  else none

/-- R7, R269: the line of the control space at an offset as a privilege level reads it: a field that only the firmware may read reads as 0 below
that level. (DESIGN CHOICE, log entry 57). -/
def State.ctlLine (s : State) (off priv : Nat) : Line :=
  BitVec.ofNat 512 ((List.range 8).foldr (fun i acc =>
    let o := off / 64 * 64 + 8 * i
    let hidden := if 2 ≤ priv then 0 else match ctlMasks o with | some (_, frw, _) => frw | none => 0
    (mergeWord (s.ctlWord o) 0 hidden).toNat + 2 ^ 64 * acc) 0)

/-- The word at an offset replaced, for the registers that hold plain words. (DESIGN CHOICE, log entry 57). -/
def Ctl.setWord (c : Ctl) (off : Nat) (v : Word) : Ctl :=
  if off = 0x100 then { c with schedctl := v }
  else if off = 0x200 then { c with gustctl := v }
  else if off = 0x300 then { c with syrctl := v }
  else if 0x400 ≤ off && off < 0x600 then
    let old := tget c.linkctl linkctlReset ((off - 0x400) / 8)
    { c with linkctl := tset c.linkctl linkctlReset ((off - 0x400) / 8) ((v &&& ~~~(0xC0 : Word)) ||| (old &&& 0xC0)) }
  else if off = 0x600 then { c with detctl := v }
  else if off = 0x700 then { c with segroot := v }
  else if off = 0x800 then { c with relctl := v }
  else if off = 0x900 then { c with scrubctl := v }
  else if 0xA00 ≤ off && off < 0xA20 then { c with edgestat := tset c.edgestat widthReset ((off - 0xA00) / 8) v }
  else if 0xA40 ≤ off && off < 0xA60 then { c with eccHead := tset c.eccHead 0 ((off - 0xA40) / 8) v }
  else if 0xA60 ≤ off && off < 0xA80 then { c with xferHead := tset c.xferHead 0 ((off - 0xA60) / 8) v }
  else if off = 0xC00 then { c with pwrctl := v }
  else if 0x1000 ≤ off && off < 0x2000 then
    let k := (off - 0x1000) / 256
    let r := off % 256
    if r = 0 then { c with collTag := tset c.collTag collTagReset k v }
    else
      let i := (r - 0x80) / 8
      let m := tget c.collMask 0 k
      let keep := m &&& ~~~(BitVec.ofNat 1024 ((2 ^ 64 - 1) * 2 ^ (64 * i)))
      { c with collMask := tset c.collMask 0 k (keep ||| BitVec.ofNat 1024 (v.toNat * 2 ^ (64 * i))) }
  else if 0x20000 ≤ off && off < 0x22000 then { c with route := tset c.route 0 ((off - 0x20000) / 8) v }
  else if 0x40000 ≤ off && off < 0x48000 then { c with asids := tset c.asids 0 ((off - 0x40000) / 8) v }
  else if 0x50000 ≤ off && off < 0x51000 then
    let k := (off - 0x50000) / 16
    let b := tget c.buffers (0, 0) k
    { c with buffers := tset c.buffers (0, 0) k (if off % 16 = 0 then (v, b.2) else (b.1, v)) }
  else if 0x60000 ≤ off && off < 0x61000 then { c with chstat := tset c.chstat widthReset ((off - 0x60000) / 8) v }
  else c

/-- R361: BUSY of a registered buffer. -/
def bufBusy (w1 : Word) : Nat := w1.toNat / 2 ^ 47 % 2 ^ 15

/-- R359, R419: the record of a discarded write. -/
def State.discardRecord (s : State) (w : CtlWrite) : State :=
  let core := if w.host then 0 else w.core
  s.record ⟨ringWord0 0 s.pkgId core (if w.host then 0 else w.ctx) (if w.host then 4 else 1) 0 3 2, 0,
    BitVec.ofNat 64 w.ia, BitVec.ofNat 64 (w.taskid * 65536 + w.asidGen), 0, BitVec.ofNat 64 (s.pkgId + 6 * 65536), 0, none⟩
    (if w.host then 512 * 64 else recOrder w.core w.ctx 0)

/-- The bytes of word i of a write that it covers. -/
def cwMask (w : CtlWrite) (i : Nat) : Nat :=
  (List.range 8).foldr (fun j acc => (if w.mask.getLsbD (8 * i + j) then 255 else 0) + 256 * acc) 0

/-- Word i of a write. -/
def cwWord (w : CtlWrite) (i : Nat) : Word := w.data.extractLsb' (64 * i) 64

/-- R2, R271: what a GRPCMD value starts; one with a bit that must be 0 starts nothing. (DESIGN CHOICE, log entry 57). -/
def State.grpcmd (s : State) (v : Word) : State :=
  let gid := v.toNat % 2 ^ 32
  if 2 ^ 34 ≤ v.toNat then s else s.at 0 rkDecide 512 (match v.toNat / 2 ^ 32 % 4 with
    | 0 => .groupPreempt gid | 1 => .groupKill gid | 2 => .groupHold gid | _ => .groupRelease gid)

/-- R287, R298: what a new value of SCHEDCTL starts: with DOLDEN set again every group's counter begins at 0, and the Docents look at their head
items again. -/
def State.schedWritten (s : State) (old v : Word) : State :=
  let s : State := if v.getLsbD 1 && !old.getLsbD 1 then
      { s with groups := ⟨s.groups.entries.map (fun e => (e.1, e.2.map (fun g =>
          { g with lastSink := if g.phase == .saving || g.phase == .saved then 0 else s.cycle })))⟩ }
    else s
  (List.range 4).foldl (fun s d => s.pokeDocent d) s

/-- R7, R8, R419: one register written with its own bytes of a write. Bits that are reserved, and reserved values, are not taken, the other fields
are; a write below supervisor level of GRPCMD has no effect; and every write is one of the expert map: it sets no field that its bytes do not
cover. (DESIGN CHOICE, log entry 57). -/
def State.ctlWriteWord (s : State) (w : CtlWrite) (i : Nat) : State :=
  let mask := cwMask w i
  let off := w.off / 64 * 64 + 8 * i
  if mask = 0 then s
  else match ctlMasks off with
    | none => s.discardRecord w
    | some (srw, frw, w1c) =>
      let old := s.ctlWord off
      let v := mergeWord old (cwWord w i) mask
      let super := 1 ≤ w.priv || w.host
      if off = 0x108 then (if super then s.grpcmd (mergeWord 0 (cwWord w i) mask) else s)
      else
        let set := (if super then srw else 0) + (if 2 ≤ w.priv && !w.host then frw else 0)
        let clear := BitVec.ofNat 64 (w1c &&& mask) &&& cwWord w i
        let v := (mergeWord old v set) &&& ~~~clear
        if 0x220 ≤ off && off < 0x240 then s.at 0 rkCore 512 (.gustpathWrite ((off - 0x220) / 8) v)
        else if 0x50000 ≤ off && off < 0x51000 && off % 16 = 8 && bufBusy old != 0 then s
        else
          let s := { s with ctl := s.ctl.setWord off v }
          if off = 0x100 then s.schedWritten old v
          else if off = 0x200 then s.at 0 rkCore 512 .routerPowerDown
          else if off = 0x900 then (if v.getLsbD 0 && !old.getLsbD 0 then s.at 0 rkLast 0 (.scrubBlock s.rel.scrubAt) else s)
          else s

/-- R419: CONTROL_REGISTER_WRITE: the registers of the line are written in ascending address, each as its own write; bytes
where no register stands are discarded with a record. -/
def execControlRegisterWrite (w : CtlWrite) (s : State) : Out :=
  .next ((List.range 8).foldl (fun s i => s.ctlWriteWord w i) s)

/-- R397: TBLWR_WRITE: a whole write stores 8 bytes to DRAM and drops every bay's copy of the line; any other is discarded. -/
def execTblwrWrite (w : CtlWrite) (s : State) : Out :=
  let lo := (cwWord w 0).toNat
  let pa := lo / 8 * 8
  if w.mask.toNat % 65536 = 65535 && lo % 8 = 0 && lo < 2 ^ 40 && pa < Config.packageDram && (1 ≤ w.priv || w.host) then
    let s := { s with dram := putBytes s.dram pa 8 (cwWord w 1).toNat
                      dramPoison := putPoisonRun s.dramPoison pa 8 (fun _ => false)
                      bays := ⟨s.bays.entries.map (fun e =>
                        (e.1, { e.2 with lines := tfilter e.2.lines (fun k _ => k != pa / 64) }))⟩ }
    .next s
  else .next (s.discardRecord w)

/-- R409, R419: the bytes of a write that cover half a line, 32 bytes, of 0x0D00 to 0x0DBF: those of the M3 extension, whole, extend M3; any
other write to a measurement is discarded, and so is what no register takes. -/
def State.extendPart (s : State) (w : CtlWrite) (half : Nat) : State :=
  let off := w.off / 64 * 64 + 32 * half
  let mask := w.mask.toNat / 2 ^ (32 * half) % 2 ^ 32
  if mask = 0 then s
  else if off = 0xDA0 then (List.range 4).foldl (fun s i => s.ctlWriteWord w (4 + i)) s
  else if off = 0xD80 && mask = 2 ^ 32 - 1 && (1 ≤ w.priv || w.host) then
    let old := tget s.ctl.m 0 3
    let h := sm3 (natToBytes 32 old.toNat ++ natToBytes 32 (w.data.toNat % 2 ^ 256))
    { s with ctl := { s.ctl with m := tset s.ctl.m 0 3 (BitVec.ofNat 256 (bytesToNat h)) } }
  else s.discardRecord w

/-- R409: M3_EXTEND: 32 bytes at 0x0D80 extend M3; any other write to 0x0D00 to 0x0D9F is discarded. -/
def execM3Extend (w : CtlWrite) (s : State) : Out := .next ((s.extendPart w 0).extendPart w 1)

/-- R410: QUOTE_NONCE_WRITE: DONE is cleared and the quote is formed over the nonce and the measurements as they are now.
(DESIGN CHOICE, log entry 14). -/
def execQuoteNonceWrite (nonce : BitVec 256) (s : State) : Out :=
  let msg := natToBytes 32 nonce.toNat ++ (List.range 4).flatMap (fun k => natToBytes 32 (tget s.ctl.m 0 k).toNat)
    ++ natToBytes 2 s.pkgId
  let stamp := s.ctl.quoteStamp + 1
  let f := s.free
  let s := { f.2 with ctl := { f.2.ctl with nonce := nonce, quoteDone := 0, quoteStamp := stamp
                                            quoteDigest := BitVec.ofNat 256 (bytesToNat (sm3 msg)) } }
  .next (s.at (1 + Config.quoteTime f.1 % 2000000) rkLast 0 (.quoteComplete stamp))

/-- R410: QUOTE_COMPLETE: the signature is written and DONE is set, unless a later nonce restarted the quote. (PRESUMED, log entry 78). -/
def execQuoteComplete (stamp : Nat) (s : State) : Out :=
  if s.ctl.quoteStamp = stamp then
    .next { s with ctl := { s.ctl with quoteSig := Config.quoteSignature s.ctl.quoteDigest, quoteDone := 1 } }
  else .next s

/-- R269, R409, R410, R419: a write that reached the control unit starts the step of its line, in this cycle. (DEDUCED, log entry 59). -/
def State.ctlDeliver (s : State) (w : CtlWrite) : State :=
  let line := w.off / 64 * 64
  let order := if w.host then 512 else w.core
  if line = 0 then
    if w.mask = BitVec.allOnes 64 then s.at 0 rkDecide order (.launchWrite w.data w.host) else s.discardRecord w
  else if line = 0xB00 then s.at 0 rkCore order (.tblwrWrite w)
  else if line = 0xD00 || line = 0xD40 || line = 0xD80 then s.at 0 rkCore order (.m3Extend w)
  else if line = 0xE00 then
    let low := w.mask.toNat % 2 ^ 32
    let s := if low = 0 || (w.priv = 0 && !w.host) then s
      else
        let old := (List.range 4).foldr (fun i acc =>
          (mergeWord (s.ctlWord (0xE00 + 8 * i)) (cwWord w i) (cwMask w i)).toNat + 2 ^ 64 * acc) 0
        s.at 0 rkCore order (.quoteNonceWrite (BitVec.ofNat 256 old))
    if w.mask.toNat / 2 ^ 32 = 0 then s
    else s.at 0 rkCore order (.controlRegisterWrite { w with mask := BitVec.ofNat 64 (w.mask.toNat / 2 ^ 32 * 2 ^ 32) })
  else s.at 0 rkCore order (.controlRegisterWrite w)

end Sys2Proof.Machine
end

