-- ==== Sys2Proof/Machine/Translate.lean ====
section
/-! DEFINITION. From a virtual address to a place: the range registers (R203), the home bay of an IA (R212), routes out of
the package (R318, R418), the segment table and its walkers (R345 to R350), and the checks at home (R348). -/

namespace Sys2Proof.Machine

open Sys2Proof

/-- The permissions that an access needs (R203, R348): execute, write, read. -/
structure Need where
  x : Bool
  w : Bool
  r : Bool
  deriving DecidableEq, Repr

/-- The needs of a fetch, a load, a store or reduction, an atomic, and of what needs none (R231). -/
def needX : Need := ⟨true, false, false⟩
def needR : Need := ⟨false, false, true⟩
def needW : Need := ⟨false, true, false⟩
def needRW : Need := ⟨false, true, true⟩
def needNone : Need := ⟨false, false, false⟩

/-- Word i of a context's range sets (R202). -/
def rngWord (rng : Tbl Word) (i : Nat) : Nat := (tget rng 0 i).toNat

/-- R203: an access of n bytes at a virtual address through the range sets: the request, or the subcode of RANGE. -/
def rangeXl (rng : Tbl Word) (a n : Nat) (nd : Need) : Except Nat Xl :=
  let hit (i : Nat) : Bool := (rngWord rng (4 * i + 3)).testBit 0 && rngWord rng (4 * i) ≤ a && a < rngWord rng (4 * i + 1)
  match (List.range 8).find? hit with
  | none => .error 1
  | some i =>
    let fl := rngWord rng (4 * i + 3)
    if rngWord rng (4 * i + 1) < a + n then .error 2
    else if (nd.x && !fl.testBit 3) || (nd.w && !fl.testBit 2) || (nd.r && !fl.testBit 1) then .error 3
    else
      let ia := a - rngWord rng (4 * i) + rngWord rng (4 * i + 2)
      if 2 ^ 57 ≤ ia then .error 4
      else .ok { ia, pkg := fl / 2 ^ 48 % 1024, rmt := fl.testBit 47, host := fl.testBit 5, desc := fl.testBit 4,
                 asid := fl / 2 ^ 16 % 4096, gen := fl / 2 ^ 28 % 16 }

/-- The same request moved to another IA. -/
def xlAt (x : Xl) (ia : Nat) : Xl := { x with ia }

/-! ## Homes (R212) -/

/-- The record of an IA's region. -/
def State.region (s : State) (ia : Nat) : Option Region := tget s.regions none (ia / 65536)

/-- R212: whether a bay has room for another region of Hall-placed data: 8 MiB hold 128. -/
def State.bayRoom (s : State) (b : Nat) : Bool := (tget s.bays .reset b).hallRegions < 128

/-- R212: the bay that a new record names for a requester: the one under its column, or the nearest on its die with room. -/
def State.newHome (s : State) (core : Nat) : Option Nat :=
  let d := coreDie core
  let x := coreX core
  let dist (b : Nat) : Nat := min ((b + 16 - x) % 16) ((x + 16 - b) % 16)
  let order := (List.range 9).flatMap (fun h => (List.range 16).filter (fun b => dist b == h))
  (order.find? (fun b => s.bayRoom (16 * d + b))).map (fun b => 16 * d + b)

/-- The LPUB whose word is on its way. -/
def Ctx.lpubOp (x : Ctx) : Option Xl :=
  (x.ops.findSome? (fun o => match o.kind with | .lpub _ w => if o.sent then some w else none | _ => none))

/-- A request of a core to a home: where it goes, and the same request by another path. -/
def State.homeReq (s : State) (ev : Instr) : Option (Xl × (Path → Instr)) :=
  match ev with
  | .bayReadRequest r => some (r.xl, fun path => .bayReadRequest { r with path })
  | .logEntryArrival p => some (p.w.xl, fun path => .logEntryArrival { p with path })
  | .bayAtomic r => some (r.xl, fun path => .bayAtomic { r with path })
  | .joinCounterDecrement j => some (j.xl, fun path => .joinCounterDecrement { j with path })
  | .publicationWrite c x _ => (s.ctx c x).lpubOp.map (fun w => (w, fun _ => ev))
  | .lacqWordRead c x _ n =>
    ((s.ctx c x).ops.findSome? (fun o => match o.kind with
      | .lacq (w :: rest) _ => if rest.length + 1 = n then some (w, fun _ => ev) else none
      | _ => none))
  | _ => none

/-- R212, R225: the requests of this cycle to a region whose record a lower core number has taken go to its bay, and the request that
made the record no longer pays for it. -/
def State.rehome (s : State) (ia bay maker : Nat) : State :=
  let move (p : Placing) : Placing :=
    match s.homeReq p.pkt.ev with
    | none => p
    | some (x, put) =>
      if p.pkt.rank = rkHome && p.pkt.ts = s.cycle && !x.host && !x.rmt && x.ia / 65536 = ia / 65536 then
        let path := pathToBay s.ctl p.router (bay / 16) (bay % 16)
        { p with pkt := { p.pkt with path, ev := put path, after := if p.router = maker then p.pkt.after - 60 else p.pkt.after } }
      else p
  { s with gust := { s.gust with placing := s.gust.placing.map move } }

/-- R212: the home bay of an IA for a requester, whose record is made if there is none: then the request pays 60 cycles. Of the first
requests of one cycle the lowest core number has the record (R225). None when no bay of its die has room. -/
def State.homeOf (s : State) (core ia : Nat) : Option (Nat × Nat) × State :=
  let put (s : State) (b : Nat) : State := { s with regions := tset s.regions none (ia / 65536) (some ⟨b, false, core, s.cycle + 1⟩) }
  match s.region ia, s.newHome core with
  | some r, some b =>
    if r.since = s.cycle + 1 && core < r.core then (some (b, 60), (put s b).rehome ia b r.core) else (some (r.bay, 0), s)
  | some r, none => (some (r.bay, 0), s)
  | none, none => (none, s)
  | none, some b => (some (b, 60), put s b)

/-- The home bay of an IA that has one, or bay 0. -/
def State.bayOf (s : State) (ia : Nat) : Nat := match s.region ia with | some r => r.bay | none => 0

/-- R318, R321, R418: the Syrraul ports that a request may take: of those named, the enabled ones that are up. (DESIGN CHOICE, log entry 58). -/
def State.ports (s : State) (mask : Nat → Bool) : List Nat :=
  (List.range 64).filter (fun p =>
    let l := tget s.ctl.linkctl linkctlReset p
    mask p && l.getLsbD 0 && l.toNat / 64 % 4 != 0 && s.ctl.syrctl.getLsbD 0)

/-- R318, R418: the k-th of some ports for an IA. (DESIGN CHOICE, log entry 58). -/
def pickPort (l : List Nat) (ia : Nat) : Option Nat := if l.isEmpty then none else l[(ia / 64 % 1024) % l.length]?

/-- R418: the port by which an access to host memory leaves. (DESIGN CHOICE, log entry 58). -/
def State.hostPort (s : State) (ia : Nat) : Option Nat :=
  pickPort (s.ports (fun p => (tget s.ctl.linkctl linkctlReset p).getLsbD 3)) ia

/-- R317, R321: whether host traffic may enter: SYRCTL.EN is 1 and a port that attaches the host is enabled and up.
(DESIGN CHOICE, log entry 58; DEDUCED, log entry 79). -/
def State.hostUp (s : State) : Bool := !(s.ports (fun p => (tget s.ctl.linkctl linkctlReset p).getLsbD 3)).isEmpty

/-- R317, R321: whether a message of a package may enter: its own, or one that some enabled port that is up brings while SYRCTL.EN is 1.
(DESIGN CHOICE, log entry 86). -/
def State.enters (s : State) (pkg : Nat) : Bool := pkg == s.pkgId || !(s.ports (fun _ => true)).isEmpty

/-- R318: the port by which a request to another package leaves. -/
def State.routePort (s : State) (pkg ia : Nat) : Option Nat :=
  pickPort (s.ports (fun p => (tget s.ctl.route 0 pkg).getLsbD p)) ia

/-- R384: the edge link that an output of a router leads over. (DESIGN CHOICE, log entry 12). -/
def edgeLink (router out : Nat) : Nat :=
  let d := coreDie router
  if out = edgeH then d / 2 else 2 + d % 2

/-- R383: whether every edge link of a path works. -/
def State.pathUp (s : State) (p : Path) : Bool :=
  p.all (fun e => e.2 < 5 || (tget s.ctl.edgestat widthReset (edgeLink e.1 e.2)).toNat % 4 != 0)

/-- R9, R308: the most hops and edge crossings of a path on one package: three dies of 8 hops along a row and 4 along a column. -/
def maxHops : Nat := 36
def maxEdges : Nat := 2

/-- R319: what a remote request pays beyond its way on this package: its traversals, at least one, and its hops and edge crossings on the
remote package. (DESIGN CHOICE, log entry 14). -/
def remoteExtra (n : Nat) : Nat :=
  330 * (1 + Config.remoteCrossings n) + 4 * (Config.remoteHops n % (maxHops + 1)) + 48 * (Config.remoteEdges n % (maxEdges + 1))

/-- Where a request of a core goes: its path, the cycles it pays beyond it, or the subcode of its fault at the issuing
package (R212, R318, R383, R418). A request to the control space goes to the control unit under the core's column.
(DESIGN CHOICE, log entry 12; DESIGN CHOICE, log entry 14; DEDUCED, log entry 59). -/
def State.routeOf (s : State) (core : Nat) (x : Xl) : Except Nat (Path × Nat) × State :=
  let via (s : State) (d b extra : Nat) : Except Nat (Path × Nat) × State :=
    let p := pathToBay s.ctl core d b
    if s.pathUp p then (.ok (p, extra), s) else (.error 6, s)
  if x.host then match s.hostPort x.ia with
    | none => (.error 6, s)
    | some p => let f := s.free
                via f.2 (p / 16) (p % 16) (Config.hostTime f.1)
  else if x.rmt then match s.routePort x.pkg x.ia with
    | none => (.error 6, s)
    | some p => let f := s.free
                via f.2 (p / 16) (p % 16) (remoteExtra f.1)
  else if isCtl x.ia then via s (coreDie core) (coreX core) 0
  else match s.homeOf core x.ia with
    | (none, s) => (.error 5, s)
    | (some (b, extra), s) => via s (b / 16) (b % 16) extra

/-! ## The segment table (R345, R346, R350) -/

/-- The levels of the walk: the level, the place of its index, and the entries of a table. -/
def walkLevels : List (Nat × Nat × Nat) := [(4, 48, 512), (3, 39, 512), (2, 30, 512), (1, 21, 512), (0, 16, 32)]

/-- How a walk ends. -/
inductive Walked where
  | fault (sub : Nat)
  /-- a leaf, with the place of its index: its segment is 2 to that power bytes -/
  | leaf (e : Word) (shift : Nat)
  deriving DecidableEq, Repr

/-- R346: whether an entry is malformed at a level whose index stands at a place. -/
def malformedEntry (e : Word) (level shift : Nat) : Bool :=
  let x := e.toNat
  let ty := x % 4
  x / 2 ^ 60 != 0 || x / 256 % 16 != 0 || ty == 3 || (ty == 2 && 3 ≤ level) || (ty == 1 && level == 0)
    || (ty == 2 && (x / 4096 % 2 ^ 36 * 4096) % 2 ^ shift != 0)

/-- R350: the walk from a table, each entry read through the bay; with the cycles it takes. -/
def State.walkFrom (s : State) (bay ia : Nat) : List (Nat × Nat × Nat) → Nat → Nat → Walked × Nat × State
  | [], _, cost => (.fault 1, cost, s)
  | (level, shift, n) :: rest, table, cost =>
    let pa := table + 8 * (ia / 2 ^ shift % n)
    let r := s.readDram bay pa false
    let e : Word := r.1.1.extractLsb' (8 * (pa % 64)) 64
    let cost := cost + if r.2.1 = 0 then Config.walkHall else Config.walkDram + (r.2.1 - Config.dramExtra)
    if e.toNat % 4 = 0 then (.fault 1, cost, r.2.2)
    else if malformedEntry e level shift then (.fault 8, cost, r.2.2)
    else if e.toNat % 4 = 2 then (.leaf e shift, cost, r.2.2)
    else r.2.2.walkFrom bay ia rest (e.toNat / 4096 % 2 ^ 36 * 4096) cost

/-- R347: the level-4 table. -/
def State.root (s : State) : Nat := s.ctl.segroot.toNat / 4096 % 2 ^ 36 * 4096

/-- A walk of an IA at a bay. -/
def State.walk (s : State) (bay ia root : Nat) : Walked × Nat × State := s.walkFrom bay ia walkLevels root 0

/-- R348: steps 1 and 2: the ASID's entry is live and of the request's generation. -/
def State.asidFault (s : State) (asid gen : Nat) : Option Nat :=
  let e := tget s.ctl.asids 0 asid
  if !e.getLsbD 4 then some 2 else if e.toNat % 16 != gen then some 4 else none

/-- R348: steps 5 and 6 on a leaf. -/
def leafFault (e : Word) (asid : Nat) (nd : Need) : Option Nat :=
  if e.toNat / 2 ^ 48 % 4096 != asid then some 2
  else if (nd.x && !e.getLsbD 2) || (nd.w && !e.getLsbD 4) || (nd.r && !e.getLsbD 3) then some 3
  else none

/-- The first IA of the segment of 2^shift bytes that holds an IA. -/
def segBase (ia shift : Nat) : Nat := ia / 2 ^ shift * 2 ^ shift

/-- The place of a line under a leaf (R212, R346). -/
def leafPlace (e : Word) (ia shift : Nat) : Place :=
  if e.getLsbD 5 then .hall (ia / 64 * 64) else .dram (e.toNat / 4096 % 2 ^ 36 * 4096 + ia / 64 * 64 % 2 ^ shift) (e.getLsbD 6)

/-- R350: a bay's cached translation for a request. -/
def Bay.tlbFind (b : Bay) (asid gen ia : Nat) : Option TlbEnt :=
  b.tlb.find? (fun t => t.asid == asid && t.gen == gen && t.base ≤ ia && ia < t.base + 2 ^ t.size)

/-- R350: a use of a cached translation. -/
def Bay.tlbUsed (b : Bay) (t : TlbEnt) : Bay :=
  { b with tlb := b.tlb.map (fun e => if e == t then { e with used := b.tlbUse } else e), tlbUse := b.tlbUse + 1 }

/-- R350: a translation cached; among 2,048 in use, the least recently used is replaced, and one leaf is kept once. -/
def Bay.tlbFill (b : Bay) (t : TlbEnt) : Bay :=
  let l := b.tlb.filter (fun e => !(e.asid == t.asid && e.gen == t.gen && e.base == t.base && e.size == t.size))
  let l := if l.length < 2048 then l else
    let low := l.foldl (fun m e => min m e.used) b.tlbUse
    l.filter (fun e => e.used != low)
  { b with tlb := l ++ [{ t with used := b.tlbUse }], tlbUse := b.tlbUse + 1 }

/-- R212: a region that holds Hall-placed data is counted at its bay. -/
def State.noteHall (s : State) (ia : Nat) : State :=
  match s.region ia with
  | some r =>
    if r.hall then s
    else
      let b := tget s.bays .reset r.bay
      { s with regions := tset s.regions none (ia / 65536) (some { r with hall := true })
               bays := tset s.bays .reset r.bay { b with hallRegions := b.hallRegions + 1 } }.fitBay r.bay
  | none => s

/-- A line found at home: its place, its leaf, and the size of its segment. -/
structure Found where
  place : Place
  leaf : Word
  shift : Nat
  deriving DecidableEq, Repr

/-- R348, R350: the checks of a request at a bay, in order, with a walk where no translation is cached; with the cycles of
that walk. The control space is not walked (R269). -/
def State.xlate (s : State) (bay : Nat) (x : Xl) (nd : Need) (root : Nat) : Except Nat Found × Nat × State :=
  match s.asidFault x.asid x.gen with
  | some f => (.error f, 0, s)
  | none =>
    let finish (s : State) (e : Word) (shift cost : Nat) : Except Nat Found × Nat × State :=
      match leafFault e x.asid nd with
      | some f => (.error f, cost, s)
      | none => (.ok ⟨leafPlace e x.ia shift, e, shift⟩, cost, if e.getLsbD 5 then s.noteHall x.ia else s)
    match (tget s.bays .reset bay).tlbFind x.asid x.gen x.ia with
    | some t => finish { s with bays := tset s.bays .reset bay ((tget s.bays .reset bay).tlbUsed t) } t.leaf t.size 0
    | none =>
      match s.walk bay x.ia root with
      | (.fault f, cost, s) => (.error f, cost, s)
      | (.leaf e shift, cost, s) =>
        match leafFault e x.asid nd with
        | some f => (.error f, cost, s)
        | none =>
          let b := (tget s.bays .reset bay).tlbFill ⟨x.asid, x.gen, segBase x.ia shift, shift, e, 0⟩
          finish { s with bays := tset s.bays .reset bay b } e shift cost

/-- R269, R348: the checks of a request to the control space. -/
def State.ctlFault (s : State) (x : Xl) (fetch : Bool) : Option Nat :=
  match s.asidFault x.asid x.gen with
  | some f => some f
  | none => if fetch || s.ctl.segroot.toNat / 2 ^ 52 != x.asid then some 7 else none

/-- R348: the subcode with which a request would fault at its home, by the table as it stands. -/
def State.homeFault (s : State) (bay : Nat) (x : Xl) (nd : Need) : Option Nat :=
  if x.host || x.rmt then none
  else if isCtl x.ia then s.ctlFault x false
  else match s.xlate bay x nd s.root with
    | (.error f, _, _) => some f
    | (.ok _, _, _) => none

/-! ## Walkers (R350) -/

/-- Whether a request must wait for a walk: its ASID is served and no translation is cached. -/
def State.mustWalk (s : State) (bay : Nat) (x : Xl) : Bool :=
  !x.host && !x.rmt && !isCtl x.ia && s.asidFault x.asid x.gen == none
    && (tget s.bays .reset bay).tlbFind x.asid x.gen x.ia == none

/-- R350: whether a walk in progress serves a request's miss. -/
def Walk.serves (w : Walk) (x : Xl) : Bool := w.asid == x.asid && w.gen == x.gen && w.region == x.ia / 65536

/-- R350: a miss joins a walk. -/
def Bay.join (b : Bay) (x : Xl) (ev : Instr) : Bay :=
  { b with walks := b.walks.map (fun w => if w.serves x then { w with waiters := w.waiters ++ [ev] } else w) }

/-- R350: a miss takes a free walker, whose walk ends after the reads of its levels. -/
def State.beginWalk (s : State) (bay : Nat) (x : Xl) (ev : Instr) : State :=
  let b := tget s.bays .reset bay
  let n := s.next
  let w : Walk := ⟨n.1, x.asid, x.gen, x.ia / 65536, s.ctl.segroot, [ev]⟩
  let s := { n.2 with bays := tset n.2.bays .reset bay { b with walks := b.walks ++ [w] } }
  let r := s.walk bay x.ia s.root
  r.2.2.at r.2.1 rkHome bay (.tableWalkComplete bay n.1)

/-- The unit under which the misses of a cycle take walkers: after all requests of that cycle have reached their homes. -/
def unitWalkers (bay : Nat) : Nat := 2 ^ 80 + bay

/-- R350: a miss joins a walk of its region in progress, or stands in its bay's FIFO, from which the free walkers take misses once all of
the cycle have come. -/
def State.startWalk (s : State) (bay : Nat) (x : Xl) (who : Nat) (ev : Instr) : State :=
  let b := tget s.bays .reset bay
  if b.walks.any (·.serves x) then { s with bays := tset s.bays .reset bay (b.join x ev) }
  else
    let s := { s with bays := tset s.bays .reset bay { b with waiting := insertBy Miss.before ⟨s.cycle, who, ev⟩ b.waiting } }
    let take : Instr := .tableWalkComplete bay 0
    if 16 ≤ b.walks.length || s.agenda.any (fun d => d.ev == take) then s else s.at 0 rkHome (unitWalkers bay) take

end Sys2Proof.Machine
end

