-- ==== Sys2Proof/Machine/View.lean ====
section
/-! DEFINITION. The view cache (R207 to R211) and the store log of a core (R209, R214): finding, allocating and dropping view
lines, pins and load-blocks, and the overlay of a core's log on what it reads. -/

namespace Sys2Proof.Machine

open Sys2Proof

/-- R207: the set of an IA: bits 13:6. -/
def viewSet (ia : Nat) : Nat := ia / 64 % 256

/-- A view line by its way. -/
def Core.viewAt (k : Core) (way : Nat) : Option ViewLine := tget k.view none way

/-- R349: whether a view line serves a request: the same line, package, ASID and generation. -/
def ViewLine.serves (l : ViewLine) (x : Xl) : Bool :=
  l.x.ia / 64 == x.ia / 64 && l.x.rmt == x.rmt && (!x.rmt || l.x.pkg == x.pkg) && l.x.asid == x.asid && l.x.gen == x.gen

/-- Whether a view line holds a line of memory under any tag; a host line never stands in a view (R207). -/
def ViewLine.holds (l : ViewLine) (x : Xl) : Bool :=
  !x.host && l.x.ia / 64 == x.ia / 64 && l.x.rmt == x.rmt && (!x.rmt || l.x.pkg == x.pkg)

/-- The way and the view line that serve a request. -/
def Core.viewFind (k : Core) (x : Xl) : Option (Nat × ViewLine) :=
  ((List.range 16).filterMap (fun w =>
    let key := 16 * viewSet x.ia + w
    match k.viewAt key with
    | some l => if l.serves x then some (key, l) else none
    | none => none)).head?

/-- R210: whether a load-block is still being filled. -/
def Core.blockOpen (k : Core) (tag : Nat) : Bool := k.blocks.any (fun b => b.tag == tag && b.missing != 0)

/-- R207, R210, R218: whether a line may not be chosen as a victim. -/
def Core.pinned (k : Core) (l : ViewLine) : Bool :=
  !l.pin.isEmpty || (match l.block with | some t => k.blockOpen t | none => false)

/-- A view line written at a way. -/
def Core.setView (k : Core) (key : Nat) (l : Option ViewLine) : Core := { k with view := tset k.view none key l }

/-- R207: a touch of a view line: it takes the access's priority and is the most recently used. -/
def Core.touchView (k : Core) (key : Nat) (l : ViewLine) (evp : Nat) : Core :=
  { (k.setView key (some { l with evp := evp, used := k.viewUse + 1 })) with viewUse := k.viewUse + 1 }

/-- R210: tags of which no view line and no fill is left are free again. -/
def Core.freeBlocks (k : Core) : Core :=
  let live (t : Nat) : Bool := k.view.entries.any (fun e => match e.2 with | some l => l.block == some t | none => false)
  { k with blocks := k.blocks.filter (fun b => b.missing != 0 || live b.tag) }

/-- R210, R211: a line dropped from the view, and with it every other line of its load-block. -/
def Core.dropView (k : Core) (key : Nat) : Core :=
  match k.viewAt key with
  | none => k
  | some l =>
    match l.block with
    | none => k.setView key none
    | some t =>
      { k with view := tfilter k.view (fun j e => j != key && (match e with | some m => m.block != some t | none => true)) }.freeBlocks

/-- Every view line that a test picks dropped, load-blocks together. -/
def Core.dropWhere (k : Core) (p : ViewLine → Bool) : Core :=
  (k.view.entries.filter (fun e => match e.2 with | some l => p l | none => false)).foldl (fun k e => k.dropView e.1) k

/-- What is on its way of a line is not to be kept in the view (R262). -/
def Core.passLine (k : Core) (x : Xl) : Core :=
  { k with viewGen := k.viewGen + 1, viewDrop := tset k.viewDrop 0 (x.ia / 64) (k.viewGen + 1) }

/-- A line of memory dropped from a core's view under every tag, and lines on their way not kept; of host memory there is none (R207). (DESIGN CHOICE, log entry 24). -/
def State.dropLine (s : State) (core : Nat) (x : Xl) : State :=
  if x.host then s
  else s.updCore core (fun k => (k.dropWhere (fun l => l.holds x)).passLine x)

/-- R218, R262: every unpinned line of a core's view dropped. (DEDUCED, log entry 13). -/
def State.refresh (s : State) (core : Nat) : State :=
  s.updCore core (fun k => { (k.dropWhere (fun l => l.pin.isEmpty)) with viewGen := k.viewGen + 1, viewAll := k.viewGen + 1 })

/-- Whether a line requested at a count of drops may be kept in the view. -/
def Core.mayKeep (k : Core) (x : Xl) (view : Nat) : Bool := k.viewAll ≤ view && tget k.viewDrop 0 (x.ia / 64) ≤ view

/-- R208, R209: a core's own store, applied at home, overlays its view line where the line has no later store of the core;
of a pinned line only the bytes that home took. -/
def State.overlayView (s : State) (core : Nat) (x : Xl) (d : Line) (mask taken : BitVec 64) (p : BitVec 8) (stamps : Tbl Nat) : State :=
  let k := (s.core core).passLine x
  match k.viewFind x with
  | none => s.setCore core k
  | some (key, l) =>
    let m0 := if l.pin.isEmpty then mask else taken
    let m : BitVec 64 := BitVec.ofNat 64 ((List.range 64).foldr (fun i acc =>
      (if m0.getLsbD i && decide (tget l.stamps 0 i < tget stamps 0 i) then 1 else 0) + 2 * acc) 0)
    let st := (List.range 64).foldl (fun t i => if m.getLsbD i then tset t 0 i (tget stamps 0 i) else t) l.stamps
    s.setCore core (k.setView key (some { l with data := overlayLine l.data d m, poison := overlayPoison l.poison p m, stamps := st }))

/-- R207: the way for a new line: an empty one, or the victim: unpinned, of the lowest priority, least recently used, lowest
way. -/
def Core.victim (k : Core) (ia : Nat) : Option Nat :=
  let keys := (List.range 16).map (fun w => 16 * viewSet ia + w)
  match keys.find? (fun key => (k.viewAt key).isNone) with
  | some key => some key
  | none =>
    let c := keys.filterMap (fun key => match k.viewAt key with
      | some l => if k.pinned l then none else some (l.evp, l.used, key)
      | none => none)
    match c with
    | [] => none
    | b :: rest =>
      let lt (a b : Nat × Nat × Nat) : Bool := a.1 < b.1 || (a.1 == b.1 && (a.2.1 < b.2.1 || (a.2.1 == b.2.1 && a.2.2 < b.2.2)))
      some (rest.foldl (fun m e => if lt e m then e else m) b).2.2

/-- A line placed in the view; where every way is pinned it is not kept (R207). A line that is there already keeps its pins and joins
the load-block that it is brought for (R210); a pinned one keeps what its replay brought. -/
def Core.allocView (k : Core) (l : ViewLine) : Core :=
  match k.viewFind l.x with
  | some (key, old) =>
    let block := l.block.or old.block
    if !old.pin.isEmpty && l.pin.isEmpty then k.setView key (some { old with block, evp := l.evp })
    else { (k.setView key (some { l with used := k.viewUse + 1, block, pin := old.pin.filter (fun e => !l.pin.contains e) ++ l.pin }))
           with viewUse := k.viewUse + 1 }
  | none => match k.victim l.x.ia with
    | none => k
    | some key =>
      let k := k.dropView key
      { (k.setView key (some { l with used := k.viewUse + 1 })) with viewUse := k.viewUse + 1 }

/-- R218: the lines of a view that replay has pinned. -/
def Core.pinCount (k : Core) : Nat :=
  (k.view.entries.filter (fun e => match e.2 with | some l => !l.pin.isEmpty | none => false)).length

/-- R218, R261: the pins on a line released at every core, since home applied a later key to it. -/
def State.unpinLine (s : State) (ia : Nat) : State :=
  let hit (l : ViewLine) : Bool := !l.pin.isEmpty && !l.x.rmt && l.x.ia / 64 == ia / 64
  let has (k : Core) : Bool := k.view.entries.any (fun e => match e.2 with | some l => hit l | none => false)
  (s.cores.entries.filter (fun e => has e.2)).foldl (fun s e => s.updCore e.1 (fun k =>
    { k with view := ⟨k.view.entries.map (fun v => (v.1, v.2.map (fun l => if hit l then { l with pin := [] } else l)))⟩ })) s

/-! ## The store log (R209, R214) -/

/-- The entries of a core's log: its four segments, and those of tasks that yielded. -/
def Core.logEntries (k : Core) : List LogEnt := k.ctxs.entries.flatMap (fun e => e.2.log) ++ k.yielded.flatMap (fun y => y.2.log)

/-- R209, R260: the host writes that stand in a core's side log, as entries of its log. -/
def Core.parkedHost (k : Core) : List LogEnt :=
  k.side.filterMap (fun e => match e.ev with
    | .logEntryArrival p => if p.host then
        some { epoch := 0, pos := e.pos, va := 0, w := p.w, stamps := ⟨(List.range 64).map (fun i => (i, e.stamp))⟩, sealed := true,
               sent := true, parked := true, key := p.key }
      else none
    | _ => none)

/-- R209: the latest store of a core to a byte still in its log, with its word's poison: the byte at place i of a line. -/
def logByte (l : List LogEnt) (x : Xl) (i : Nat) : Option (Byte × Bool) :=
  let c := l.filter (fun e => e.w.xl.ia / 64 == x.ia / 64 && e.w.xl.rmt == x.rmt && e.w.xl.host == x.host
    && (!x.rmt || e.w.xl.pkg == x.pkg) && e.w.mask.getLsbD i)
  match c with
  | [] => none
  | b :: rest =>
    let e := rest.foldl (fun m e => if tget m.stamps 0 i < tget e.stamps 0 i then e else m) b
    some (e.w.data.extractLsb' (8 * i) 8, e.w.poison.getLsbD (i / 8))

/-- R209: the bytes of an access that a core's log gives, by byte of the access: n bytes from byte `from` of a line, the
first of them byte `base` of the access. -/
def logOverlay (l : List LogEnt) (x : Xl) (from_ n base : Nat) : List (Nat × (Byte × Bool)) :=
  (List.range n).filterMap (fun j => (logByte l x (from_ + j)).map (fun b => (base + j, b)))

/-- R214: whether the core's log and its extension have room for n more entries. -/
def Core.logRoom (k : Core) (n : Nat) : Bool :=
  k.logEntries.length + n ≤ Config.logOnCore + Config.logExtension

/-- R214: a store of bytes to one line enters a context's segment: it coalesces into an unsealed entry of the line that no
drain has taken, or opens a new one. -/
def State.logStore (s : State) (core ctx va : Nat) (x : Xl) (d : Line) (mask : BitVec 64) (p : BitVec 8) : State :=
  let k := s.core core
  let c := k.ctx ctx
  let stamp := k.stamp + 1
  let into (e : LogEnt) : Bool := !e.sealed && !e.sent && e.w.xl.ia / 64 == x.ia / 64 && e.w.xl.rmt == x.rmt
    && e.w.xl.host == x.host && (!x.rmt || e.w.xl.pkg == x.pkg) && e.w.xl.asid == x.asid && e.w.xl.gen == x.gen
  let marks (t : Tbl Nat) : Tbl Nat := (List.range 64).foldl (fun t i => if mask.getLsbD i then tset t 0 i stamp else t) t
  let c := if c.log.any into then
      { c with log := c.log.map (fun e => if into e then
          { e with w := ⟨e.w.xl, overlayLine e.w.data d mask, e.w.mask ||| mask, overlayPoison e.w.poison p mask⟩
                   stamps := marks e.stamps }
        else e) }
    else
      let pos := c.sr.logTail.toNat
      let e : LogEnt := { epoch := c.epoch, pos, va, w := ⟨xlAt x (x.ia / 64 * 64), overlayLine 0 d mask, mask, overlayPoison 0 p mask⟩,
                          stamps := marks .empty, sealed := false, sent := false, parked := false, key := ⟨0, 0, 0, 0, 0⟩ }
      { c with log := c.log ++ [e], sr := { c.sr with logTail := BitVec.ofNat 64 (pos + 1) } }
  s.setCore core { (k.setCtx ctx c) with stamp }

end Sys2Proof.Machine
end

