-- ==== Sys2Proof/Machine/Interval.lean ====
section
/-! DEFINITION. Intervals of deterministic tasks (R327 to R330): what a task brings to its merge set. -/

namespace Sys2Proof.Machine

open Sys2Proof

/-- R64: whether a context runs in deterministic mode. -/
def Ctx.det (x : Ctx) : Bool := x.sr.detmode.getLsbD 0

/-- A log entry as a packet, with the range and identity it carries. -/
def logPkt (x : Ctx) (core ctx : Nat) (e : LogEnt) (path : Path) : LogPkt :=
  { core, ctx, epoch := e.epoch, pos := e.pos, w := e.w, key := e.key, va := e.va, taskid := x.sr.taskId.toNat, path,
    replay := false, host := false, priv := x.sr.priv.toNat }

/-- R328: the merge set of a group's phase, of its tasks that end, or of a join block, made if there is none; its number. A set whose
merge has begun takes no more. -/
def State.mergeSet (s : State) (jobId : Nat) (gid : Option Nat) (phase : Option (Nat × Nat)) (joinIa : Option Nat) : Nat × State :=
  match s.merges.find? (fun m => m.jobId == jobId && m.gid == gid && m.phase == phase && m.joinIa == joinIa && m.thenEv.isNone) with
  | some m => (m.id, s)
  | none => let n := s.next
            (n.1, { n.2 with merges := n.2.merges ++ [⟨n.1, jobId, gid, phase, joinIa, [], none⟩] })

/-- The key of an engine command in its task's interval: its number, or, of a walker's, its ITIN's. -/
def Cmd.detKey (c : Cmd) : Nat := if c.walker then 2 * c.id + 1 else 2 * c.num

/-- The engine commands of a context that have not completed: those queued or ending, and a running itinerary. -/
def Core.detCmds (k : Core) (ctx epoch : Nat) : List Nat :=
  ((k.engines.entries.flatMap (fun e => e.2.queue ++ e.2.ending)).filter (fun c => c.ctx == ctx && c.epoch == epoch)).map Cmd.detKey
    ++ (if k.walker.running && k.walker.ctx == ctx && k.walker.epoch == epoch then [2 * k.walker.id + 1] else [])

/-- What of an interval has not reached its homes: loads that wait for lines, atomics and reductions (R329, R331). -/
def Ctx.detOut (x : Ctx) : List Nat := x.loads.map (·.num) ++ x.detFlying

/-- R328: a task's interval ends: what it stored and buffered goes to its merge set, and stays readable in its own segment
until the merge (R329). (DEDUCED, log entry 63). -/
def State.closeInterval (s : State) (core ctx : Nat) (phase : Option (Nat × Nat)) (joinIa : Option Nat) : State :=
  let x := s.ctx core ctx
  if !x.det then s
  else
    let gid := match joinIa with | some _ => none | none => (s.core core).group
    let m := s.mergeSet x.record.job gid phase joinIa
    let mine := x.log.filter (fun e => e.epoch == x.epoch && !e.sent)
    let t : MergeTask := { taskId := x.sr.taskId.toNat, ident := 4 * core + ctx,
                           flying := x.detOut, cmds := (s.core core).detCmds ctx x.epoch,
                           entries := mine.map (fun e => logPkt x core ctx e []), atoms := x.detAtoms,
                           words := x.detWords, reads := x.detReads }
    let x := { x with log := x.log.map (fun e => if e.epoch == x.epoch then { e with sent := true } else e)
                      detAtoms := [], detWords := [], detReads := [] }
    { (m.2.setCtx core ctx x) with merges := m.2.merges.map (fun e => if e.id == m.1 then { e with tasks := e.tasks ++ [t] } else e) }

end Sys2Proof.Machine
end

