-- ==== Sys2Proof/Machine/Home.lean ====
section
/-! DEFINITION. The home side of memory (R213 to R217, R234, R235, R355, R362): packets to homes and their refusal, reads,
drained log entries, atomics, join counters and publication words, parking and replay. -/

namespace Sys2Proof.Machine

open Sys2Proof

/-! ## Banks (R16, R213) -/

/-- R16: the bank, of 16, that serves a line in its bay. (DESIGN CHOICE, log entry 17). -/
def lineBank (ia : Nat) : Nat := Config.bankOf (ia / 64) % 16

/-- R213: whether the bank of a request at a bay can serve in this cycle; what leaves the package, and the control space, has none.
(DESIGN CHOICE, log entry 17). -/
def State.bankFree (s : State) (bay : Nat) (x : Xl) : Bool :=
  x.host || x.rmt || isCtl x.ia || s.bankIdle bay (lineBank x.ia)

/-- R213: the next free cycle of a request's bank taken by an operation. (DESIGN CHOICE, log entry 17). -/
def State.useBank (s : State) (bay : Nat) (x : Xl) : State :=
  if x.host || x.rmt || isCtl x.ia then s
  else s.takeBank bay (lineBank x.ia)

/-! ## Sending -/

/-- R310: the length in flits of a request; a completion word goes as a publication word does (R250). (DEDUCED, log entry 13). -/
def evFlits : Instr → Nat
  | .logEntryArrival p => if p.eng.any (·.1 == 3) then 1 else 4
  | .bayAtomic r => if r.op = .cas then 2 else 1
  | _ => 1

/-- The cycles between the delivery of a request and its service, which make the unloaded sums of R16 and of the trace after
R359: 40 for a load's whole round and for an engine's, and 40 and the hops for a log entry; a cas, of two flits, has the latency of a load
(R235). -/
def evAfter : Instr → Nat
  | .logEntryArrival p => match p.eng with | none => 35 | some (e, _) => if e = 3 then 36 else 33
  | .bayAtomic r => if r.op = .cas then 33 else 34
  | _ => 34

/-- The unit number of a core's agent among the units that send. -/
def whoOf (core order : Nat) : Nat := core * 16 + order

/-- R320: the refused packet of a unit to a region, behind which a later one waits. -/
def State.refusedOf (s : State) (who ia : Nat) (ev : Instr) : Option Refused :=
  s.refused.find? (fun r => r.who == who && r.region == ia / 65536 && r.ev != ev)

/-- R320: a packet put behind a refused one. -/
def State.putBehind (s : State) (id : Nat) (ev : Instr) : State :=
  { s with refused := s.refused.map (fun r => if r.id == id then { r with behind := r.behind ++ [ev] } else r) }

/-- R320: a request sent to its home, or behind an earlier refused one of its unit to the same region. -/
def State.toHome (s : State) (core order ia : Nat) (path : Path) (extra : Nat) (ev : Instr) : State :=
  match s.refusedOf (whoOf core order) ia ev with
  | some r => s.putBehind r.id ev
  | none => s.send 0 order path (evFlits ev) (evAfter ev + extra) rkHome (whoOf core order) ev

/-- A home's reply by the path of its request; another package's leaves by the port that the request came by (R318), and ends there. -/
def State.answer (s : State) (via : Option Nat) (delay flits after rank unit : Nat) (path : Path) (ev : Instr) : State :=
  match via with
  | none => s.send delay unitBay (replyPath path) flits after rank unit ev
  | some _ => s.send delay unitBay (replyPath path) flits 0 rkLast unit .nop

/-- R320: a home that cannot take a request answers with a retry response. -/
def State.refuse (s : State) (core order ia : Nat) (path : Path) (ev : Instr) : State :=
  match s.refused.find? (fun r => r.ev == ev) with
  | some r =>
    let up (e : Refused) : Refused := if e.id == r.id then { e with attempts := e.attempts + 1 } else e
    let s := { s with refused := s.refused.map up }
    s.send 0 unitBay (replyPath path) 1 0 rkCore core (.retryResponse r.id)
  | none =>
    let n := s.next
    let r : Refused := { id := n.1, ev, who := whoOf core order, region := ia / 65536, path, attempts := 1, behind := [] }
    let s : State := { n.2 with refused := n.2.refused ++ [r] }
    s.send 0 unitBay (replyPath path) 1 0 rkCore core (.retryResponse n.1)

/-- R320: a request that was refused is accepted: the later packets that waited behind it are sent. -/
def State.accepted (s : State) (ev : Instr) : State :=
  match s.refused.find? (fun r => r.ev == ev) with
  | none => s
  | some r =>
    let s := { s with refused := s.refused.filter (fun e => e.id != r.id) }
    r.behind.foldl (fun s e => s.send 0 (r.who % 16) r.path (evFlits e) (evAfter e) rkHome r.who e) s

/-- R320: RETRY_RESPONSE: the sender's back-off starts. -/
def execRetryResponse (id : Nat) (s : State) : Out :=
  match s.refused.find? (fun r => r.id == id) with
  | none => .next s
  | some r => .next (s.at (128 * 2 ^ min (r.attempts - 1) 7) rkHome (r.who / 16) (.retryBackoffExpiry id))

/-- R320: RETRY_BACKOFF_EXPIRY: the packet is sent again. -/
def execRetryBackoffExpiry (id : Nat) (s : State) : Out :=
  match s.refused.find? (fun r => r.id == id) with
  | none => .next s
  | some r => .next (s.send 0 (r.who % 16) r.path (evFlits r.ev) (evAfter r.ev) rkHome r.who r.ev)

/-- The bay at the end of a request's path, numbered over the package. -/
def pathBay (p : Path) : Nat := let r := (p.getLast?.getD (0, 0)).1; 16 * coreDie r + coreX r

/-! ## Records of memory faults (R358, R359) -/

/-- R359: a KIND 0 record of class PROT. -/
def State.memRecord (s : State) (core ctx src eng sub : Nat) (x : Xl) (va taskid w5 size : Nat) (held : Option Agent) : RingRec :=
  ⟨ringWord0 eng s.pkgId core ctx src 0 sub 8, BitVec.ofNat 64 va,
    BitVec.ofNat 64 (x.ia + (if x.rmt then 2 ^ 62 else 0) + (if x.host then 2 ^ 63 else 0)),
    BitVec.ofNat 64 (x.asid + x.gen * 4096 + taskid * 65536), BitVec.ofNat 64 w5,
    BitVec.ofNat 64 ((if x.rmt then x.pkg else s.pkgId) + size * 65536), 0, held⟩

/-- The place that a request goes to, as a record names it (R359): an IA of this package, or one marked as the host's or as another
package's. -/
def xlPlace (x : Xl) : Nat := x.ia + (if x.rmt then 2 ^ 62 + 2 ^ 64 * x.pkg else 0) + if x.host then 2 ^ 63 else 0

/-- The extent of the segment that holds a place, by the table as it stands; 64 KiB where no leaf maps it, and outside the package.
(DESIGN CHOICE, log entry 19). -/
def State.segment (s : State) (ia : Nat) : Nat × Nat :=
  if 2 ^ 57 ≤ ia then (segBase ia 16, 16) else
  match (s.walk (s.bayOf ia) ia s.root).1 with
  | .leaf _ shift => (segBase ia shift, shift)
  | .fault _ => (segBase ia 16, 16)

/-! ## Keys (R215 rule 4, R259) -/

/-- The value of a die's sequence counter. -/
def State.seqOf (s : State) (d : Nat) : Nat := tget s.seq 0 d

/-- R259: a die's counter raised to at least a value carried from another die, plus 1. -/
def State.raiseSeq (s : State) (d from_ v : Nat) : State :=
  if d = from_ then s else { s with seq := tset s.seq 0 d (max (s.seqOf d) (v + 1)) }

/-- R259: the value of a home die's counter sent with a reply that serves an acquire or ends a join of a context, under the number of
what it serves. -/
def State.carry (s : State) (core ctx key die : Nat) : State :=
  if die = coreDie core then s
  else s.updCtx core ctx (fun x => { x with carried := x.carried ++ [(key, die, s.seqOf die)] })

/-- R259: such a reply delivered: the counter of the core's die is raised. -/
def State.landed (s : State) (core ctx key : Nat) : State :=
  let x := s.ctx core ctx
  if x.carried.any (fun e => e.1 == key) then
    let s := s.setCtx core ctx { x with carried := x.carried.filter (fun e => e.1 != key) }
    (x.carried.filter (fun e => e.1 == key)).foldl (fun s e => s.raiseSeq (coreDie core) e.2.1 e.2.2) s
  else s

/-- R215 rule 4: the key of an atomic, a reduction, a host write or an engine write at a home: its die's counter. (DEDUCED, log entry 18). -/
def State.homeKey (s : State) (bay : Nat) : Key := ⟨s.seqOf (bay / 16), s.pkgId, bay / 16, Config.cores, 0⟩

/-! ## Migration holds (R362) -/

/-- The migration under way that marks an IA's segment. -/
def State.migrOf (s : State) (ia : Nat) : Option Migr := s.migrs.find? (fun m => m.ia ≤ ia && ia < m.ia + m.size)

/-- R362: a write to a marked segment held at its bay, unless its queue of 64 is full, when it is refused. -/
def State.holdWrite (s : State) (bay core order ia : Nat) (path : Path) (ev : Instr) : State :=
  let b := tget s.bays .reset bay
  if b.holdQ.length < 64 then
    { s.accepted ev with bays := tset (s.accepted ev).bays .reset bay { b with holdQ := b.holdQ ++ [ev] } }
  else s.refuse core order ia path ev

/-! ## Parking (R355) -/

/-- Whether the side log of a core holds an entry of the segment of a place. (DESIGN CHOICE, log entry 19). -/
def State.parksBehind (s : State) (core ia : Nat) : Bool :=
  (s.core core).side.any (fun e => s.segment e.ia == s.segment ia)

/-- R355: a write parked in its core's side log, in a free position; its record enters the ring when its packet, which
retraces the path, has reached the side log. Subcode 0 stands for a write that faults in nothing and only parks behind an earlier
one: it writes no record (R356). (DESIGN CHOICE, log entry 19). -/
def State.park (s : State) (core ctx epoch order : Nat) (x : Xl) (va taskid sub src : Nat) (path : Path) (ev parked : Instr) : State :=
  let k := s.core core
  if 256 ≤ k.side.length then s.refuse core order x.ia path ev
  else
    let s := s.accepted ev
    let used := k.side.map (·.pos)
    let pos := ((List.range 256).find? (fun i => !used.contains i)).getD 0
    let host := src == 4
    let s := s.setCore core { k with side := k.side ++ [⟨pos, ctx, epoch, (xlPlace x), parked, k.stamp + 1, false⟩], stamp := k.stamp + 1 }
    let c := if host then 0 else ctx
    let r := s.memRecord core c src 0 sub x (if host then 0 else va) taskid pos 6 none
    if sub = 0 then s else s.send 0 unitBay (replyPath path) 4 0 rkRing (recOrder core c 0) (.faultRecordWrite r)

/-- R355: a parked entry that faults again stays in its place and writes a new record. -/
def State.reparkRecord (s : State) (core ctx : Nat) (x : Xl) (va taskid sub src : Nat) (ev : Instr) : State :=
  let pos := (((s.core core).side.find? (fun e => e.ev == ev)).map (·.pos)).getD 0
  let c := if src = 4 then 0 else ctx
  let s := s.updCore core (fun k => { k with side := k.side.map (fun e => if e.ev == ev then { e with trying := false } else e) })
  s.record (s.memRecord core c src 0 sub x (if src = 4 then 0 else va) taskid pos 6 none) (recOrder core c 0)

/-- R355: whether a replayed entry still stands in its side log: a kill discards it. -/
def State.stillParked (s : State) (core : Nat) (ev : Instr) : Bool := (s.core core).side.any (fun e => e.ev == ev)

/-- R355: a replayed entry that was applied leaves the side log. -/
def State.leaveSide (s : State) (core : Nat) (ev : Instr) : State :=
  s.updCore core (fun k => { k with side := k.side.filter (fun e => e.ev != ev) })

/-! ## Reads (R213) -/

/-- Free words for a line of another package's memory, which lies outside the module. (DESIGN CHOICE, log entry 15). -/
def State.remoteLine (s : State) : Line × State :=
  (BitVec.ofNat 512 ((List.range 8).foldr (fun i acc => (Config.remoteWord (s.freeCtr + i)).toNat + 2 ^ 64 * acc) 0),
    { s with freeCtr := s.freeCtr + 8 })

/-- A line read at home: its data and poison with the cycles that DRAM adds, or the subcode of a fault. -/
def State.homeRead (s : State) (bay : Nat) (x : Xl) (nd : Need) (fetch : Bool) (priv : Nat) : Except Nat ((Line × BitVec 8) × Nat) × State :=
  if x.host then (.ok ((lineAt s.host (x.ia / 64 * 64), 0), 0), s)
  else if x.rmt then let r := s.remoteLine
                     (.ok ((r.1, 0), 0), r.2)
  else if isCtl x.ia then match s.ctlFault x fetch with
    | some f => (.error f, s)
    | none => (.ok ((s.ctlLine (x.ia - ctlBase) priv, 0), 0), s)
  else match s.xlate bay x nd s.root with
    | (.error f, _, s) => (.error f, s)
    | (.ok fd, _, s) =>
      let r := s.readPlace bay fd.place
      (.ok (r.1, r.2.1), r.2.2)

/-- R213, R218: a miss or a refill of an LACQ's replay served at its bank: the line, or the fault, goes back to the core.
(DEDUCED, log entry 13; DESIGN CHOICE, log entry 15). -/
def State.serveRead (s : State) (r : ReadReq) : State :=
  let bay := pathBay r.path
  let back (s : State) (delay flits : Nat) (v : Line × BitVec 8) (f : Nat) : State :=
    let p : FillP := ⟨r, v.1, v.2, f, s.seqOf (bay / 16)⟩
    s.answer r.via delay flits 0 rkCore r.core r.path (if r.replay then .replayRefill r.core r.ctx r.epoch p else .viewFillArrival p)
  match s.homeRead bay r.xl (if r.replay then needNone else needR) false r.priv with
  | (.error f, s) => back s 0 1 (0, 0) f
  | (.ok (v, d), s) => back s d 3 v 0

/-! ## Log entries (R215) -/

/-- The acknowledgement of a drained entry, or of an engine's write, which names its engine by 4 and more, its command and its number. -/
def State.ackEntry (s : State) (p : LogPkt) : State :=
  if p.host then s
  else match p.eng with
    | none => s.answer p.via 0 1 0 rkCore p.core p.path (.logAck p.core p.ctx p.epoch p.pos)
    | some (e, num) => s.answer p.via 0 1 0 rkCore p.core p.path (.logAck p.core (4 + e) num p.pos)

/-- R208: a core's own entry, applied, overlays its view line. -/
def State.overlayOwn (s : State) (p : LogPkt) (taken : BitVec 64) : State :=
  if p.host || p.via.isSome then s
  else match (s.ctx p.core p.ctx).log.find? (fun e => e.epoch == p.epoch && e.pos == p.pos) with
    | none => s
    | some e => s.overlayView p.core p.w.xl p.w.data p.w.mask taken p.w.poison e.stamps

/-- R215: bytes written at a place under a key, and the pins on the line released where any was (R218); nothing where there is none. -/
def State.writeKeyed (s : State) (bay : Nat) (place : Place) (d : Line) (m : BitVec 64) (po : BitVec 8) (key : Key) (ia : Nat) : State :=
  if m = 0 then s else ((s.writePlace bay place d m po).setKeys place m key).unpinLine ia

/-- R211, R215, R223: an entry's bytes applied at home where its key is higher, a host write's where no higher key stands.
(DEDUCED, log entry 18). -/
def State.applyEntry (s : State) (bay : Nat) (fd : Found) (p : LogPkt) : State :=
  let m := if p.host then s.openBytes fd.place p.w.mask p.key else s.higherBytes fd.place p.w.mask p.key
  (s.writeKeyed bay fd.place p.w.data m p.w.poison p.key p.w.xl.ia).overlayOwn p m

/-- The engines' commands of a number changed, queued or ending. -/
def Core.updCmd (k : Core) (e num : Nat) (f : Cmd → Cmd) : Core :=
  let g := tget k.engines .idle e
  let put (c : Cmd) : Cmd := if c.num == num then f c else c
  { k with engines := tset k.engines .idle e { g with queue := g.queue.map put, ending := g.ending.map put } }

/-- An engine's command by its number. -/
def Core.cmd? (k : Core) (e num : Nat) : Option Cmd :=
  let g := tget k.engines .idle e
  (g.queue ++ g.ending).find? (fun c => c.num == num)

/-- R353: whether a fault at home holds an engine access; any other fails its command. -/
def holdsEngine (f : Nat) : Bool := f == 1 || f == 5 || f == 6 || f == 8

/-- R243: the token of a failure. (DEDUCED, log entry 23). -/
def failToken (cls sub : Nat) : Word := BitVec.ofNat 64 (0x80000000 * 2 ^ 32 + sub * 65536 + cls)

/-- R241, R242, R353: an access of an engine that faults at its home, though the table had let it pass when it was made: its command is held
with it, or fails. (DESIGN CHOICE, log entry 83). -/
def State.engineFault (s : State) (core e num tag f : Nat) (x : Xl) (va : Nat) (ev : Instr) : State :=
  match (s.core core).cmd? e num with
  | none => s
  | some c =>
    if holdsEngine f then
      (s.updCore core (fun k => k.updCmd e num (fun c => { c with held := true, heldReqs := c.heldReqs ++ [ev] }))).record
        (s.memRecord core c.ctx 2 e f x va c.taskId.toNat 0 6 (some (.engine core e))) (recOrder core c.ctx e)
    else
      let fail (c : Cmd) : Cmd :=
        { c with acks := c.acks.filter (· != tag), badTag := some tag, status := if c.status = 0 then failToken 8 f else c.status,
                 reads := [], flights := [] }
      ((s.updCore core (fun k => k.updCmd e num fail)).record (s.memRecord core c.ctx 2 e f x va c.taskId.toNat 0 6 none)
        (recOrder core c.ctx e)).at 1 rkSem (core * 8 + e) (.engineCommandComplete core e)

/-- An 8-byte word written at its home by a single-copy write with release order, outside the log (R217, R250). (DEDUCED, log entry 18). -/
def State.writeWord (s : State) (bay : Nat) (fd : Found) (x : Xl) (v : Word) (die : Nat) : State :=
  let i := x.ia % 64
  let s := s.raiseSeq (bay / 16) die (s.seqOf die)
  let s := s.writePlace bay fd.place (BitVec.ofNat 512 (v.toNat * 256 ^ i)) (byteMask i 8) 0
  (s.setKeys fd.place (byteMask i 8) (s.homeKey bay)).unpinLine x.ia

/-- R241, R250, R259, R264: an engine's write at its home: bytes of a line with the key of R215 rule 4, where no higher key stands, or a
completion word; the line leaves the core's view. A write after one that failed is not made. (DEDUCED, log entry 18). -/
def State.serveEngine (s : State) (p : LogPkt) (e num : Nat) : State :=
  let ev : Instr := .logEntryArrival p
  let x := p.w.xl
  let bay := pathBay p.path
  let dead := match (s.core p.core).cmd? e num with
    | some c => (match c.badTag with | some t => decide (t < p.pos) | none => false)
    | none => false
  let done (s : State) : State :=
    ((s.accepted ev).dropLine p.core x |> fun s => if e = 3 then s.sink p.core 0 else s).carry p.core p.ctx (2 ^ 64 + p.pos) (bay / 16) |>.ackEntry p
  if dead then (s.accepted ev).ackEntry p
  else if x.host then done { s with host := putLine s.host (x.ia / 64 * 64) p.w.data p.w.mask }
  else if x.rmt then done s
  else if isCtl x.ia then match s.ctlFault x false with
    | some f => s.engineFault p.core e num p.pos f x p.va ev
    | none => done (s.ctlDeliver ⟨(x.ia - ctlBase) / 64 * 64, p.w.data, p.w.mask, p.core, p.ctx, false, p.priv, x.ia, x.asid + 4096 * x.gen, p.taskid⟩)
  else match s.xlate bay x needW s.root with
    | (.error f, _, s) => s.engineFault p.core e num p.pos f x p.va ev
    | (.ok fd, _, s) =>
      if (s.migrOf x.ia).isSome then s.holdWrite bay p.core (unitEng e) x.ia p.path ev
      else if e = 3 then done (s.writeWord bay fd x (p.w.data.extractLsb' (8 * (x.ia % 64)) 64) (coreDie p.core))
      else
        let s := s.raiseSeq (bay / 16) (coreDie p.core) p.key.s
        let key := s.homeKey bay
        done (s.writeKeyed bay fd.place p.w.data (s.openBytes fd.place p.w.mask key) p.w.poison key x.ia)

/-- R318: another package's entry at its home here: applied with its key where it is higher, or, where it faults, refused with its reply:
the issuing package parks it. (DESIGN CHOICE, log entry 86). -/
def State.serveRemote (s : State) (p : LogPkt) : State :=
  let ev : Instr := .logEntryArrival p
  let x := p.w.xl
  let bay := pathBay p.path
  match s.xlate bay x needW s.root with
  | (.error _, _, s) => (s.accepted ev).ackEntry p
  | (.ok fd, _, s) =>
    if (s.migrOf x.ia).isSome then s.holdWrite bay p.core p.ctx x.ia p.path ev
    else ((s.applyEntry bay fd p).accepted ev).ackEntry p

/-- R215, R355, R362, R418: a drained or replayed entry, or a host write's, at its home; the entries of a segment for one host line go
in segment order. (DESIGN CHOICE, log entries 15, 19). -/
def State.serveLog (s : State) (p : LogPkt) : State :=
  let ev : Instr := .logEntryArrival p
  let x := p.w.xl
  let bay := pathBay p.path
  let src := if p.host then 4 else 1
  match p.eng with
  | some (e, num) => s.serveEngine p e num
  | none =>
  if p.via.isSome then s.serveRemote p else
  if p.replay && !s.stillParked p.core ev then s.accepted ev else
  let done (s : State) : State :=
    let s := s.accepted ev
    let s := if p.replay then s.leaveSide p.core ev else s
    (if p.host then s.dropLine p.core x else s).ackEntry p
  let fault (s : State) (f : Nat) : State :=
    if p.replay then s.reparkRecord p.core p.ctx x p.va p.taskid f src ev
    else s.park p.core p.ctx p.epoch p.ctx x p.va p.taskid f src p.path ev (.logEntryArrival { p with replay := true })
  if x.host then
    if (s.ctx p.core p.ctx).log.any (fun e => e.epoch == p.epoch && e.sent && e.pos < p.pos && e.w.xl.host && e.w.xl.ia / 64 == x.ia / 64) then
      s.at 1 rkHome p.core ev
    else done { s with host := putLine s.host (x.ia / 64 * 64) p.w.data p.w.mask }
  else if x.rmt then done (s.overlayOwn p p.w.mask)
  else if isCtl x.ia then
    match s.ctlFault x false with
    | some f => fault s f
    | none =>
      let off := x.ia - ctlBase
      if !p.replay && s.parksBehind p.core (xlPlace x) then fault s 0
      else if off / 64 = 0 && p.w.mask = BitVec.allOnes 64 && 64 ≤ s.intake.length then s.at 1 rkHome p.core ev
      else done (s.ctlDeliver ⟨off, p.w.data, p.w.mask, p.core, p.ctx, p.host, p.priv, x.ia, x.asid + 4096 * x.gen, p.taskid⟩)
  else
    let behind := !p.replay && s.parksBehind p.core (xlPlace x)
    match s.xlate bay x needW s.root with
    | (.error f, _, s) => fault s f
    | (.ok fd, _, s) =>
      if behind then fault s 0
      else if (s.migrOf x.ia).isSome then s.holdWrite bay p.core p.ctx x.ia p.path ev
      else done (s.applyEntry bay fd p)

/-! ## Atomics and reductions (R234 to R236) -/

/-- R234: the new value of a word of w bits. -/
def atomValue (op : AtomOp) (wide : Bool) (old d e : Nat) : Nat :=
  let w := if wide then 64 else 32
  let o := old % 2 ^ w
  let d := d % 2 ^ w
  match op with
  | .add => (o + d) % 2 ^ w
  | .fadd => fpAdd (if wide then .f64 else .f32) ⟨.rne, false, false, false⟩ o d
  | .min => if intOf true w o ≤ intOf true w d then o else d
  | .max => if intOf true w o ≤ intOf true w d then d else o
  | .and => o &&& d
  | .or => o ||| d
  | .xor => o ^^^ d
  | .xchg => d
  | .cas => if o = e % 2 ^ w then d else o

/-- A context's count of atomics and reductions on their way lowered, when one has been performed. -/
def State.atomDone (s : State) (r : AtomReq) : State :=
  if r.via.isNone && (s.ctx r.core r.ctx).epoch = r.epoch then
    (s.updCtx r.core r.ctx (fun x => { x with atoms := x.atoms - 1 })).at 0 rkCore r.core (.logAck r.core r.ctx r.epoch (2 ^ 60))
  else s

/-- R87, R235, R262: an atomic's reply: the old value after the way back; with acquire order the reply carries the home die's counter
(R259), and the refresh of the core's view takes 16 cycles. (DEDUCED, log entry 13). -/
def State.atomReply (s : State) (r : AtomReq) (old : Nat) (po : Bool) (delay : Nat) : State :=
  match r.id with
  | none => s
  | some id =>
    let s := if r.acquire && r.via.isNone then s.carry r.core r.ctx id (pathBay r.path / 16) else s
    s.answer r.via delay 1 (2 + (if r.acquire then 16 else 0) + if r.port then 3 else 0) rkResult r.core r.path
      (.resultProduced ⟨r.core, r.ctx, r.epoch, id, .scalar (BitVec.ofNat 64 old) po, r.dst, .none⟩)

/-- R215 rule 4, R235: an atomic or reduction's effect on the word at a place, on whose bytes the higher key stands: the value and poison
that it yields, the cycles that DRAM adds, and the state. A mismatch of the bay unit leaves the word poisoned, with a record (R365).
(DEDUCED, log entries 18, 43). -/
def State.atomWrite (s : State) (bay : Nat) (fd : Found) (r : AtomReq) : (Nat × Bool × Nat) × State :=
  let n := if r.wide then 8 else 4
  let i := r.xl.ia % 64
  let v := s.readPlace bay fd.place
  let old := v.1.1.toNat / 256 ^ i % 256 ^ n
  let po := v.1.2.getLsbD (i / 8)
  let new := atomValue r.op r.wide old r.d.toNat r.e.toNat
  let mask := byteMask i n
  let bad := s.upset (512 + bay) 15
  let key := s.homeKey bay
  let s := v.2.2.writeKeyed bay fd.place (BitVec.ofNat 512 (new * 256 ^ i)) (v.2.2.openBytes fd.place mask key)
    (if po || r.poison || bad.isSome then BitVec.ofNat 8 (2 ^ (i / 8)) else 0) key r.xl.ia
  let s := match bad with
    | none => s
    | some sub =>
      let e := s.memRecord 0 0 6 0 sub r.xl r.va r.taskid 0 (if r.wide then 3 else 2) none
      (s.takeUpset (512 + bay) 15).record { e with word0 := ringWord0 0 s.pkgId 0 0 6 0 sub 0xE } (512 * 64)
  ((if bad.isSome then new else old, po || bad.isSome, v.2.1), if r.via.isSome then s else s.dropLine r.core r.xl)

/-- R235: an atomic or reduction performed at its bay, with its reply. -/
def State.performAtom (s : State) (bay : Nat) (fd : Found) (r : AtomReq) : State :=
  let w := s.atomWrite bay fd r
  (w.2.atomDone r).atomReply r w.1.1 w.1.2.1 w.1.2.2

/-- R236: in deterministic mode an atomic is buffered until its interval's merge, and returns the value at its start. -/
def State.bufferAtom (s : State) (bay : Nat) (fd : Found) (r : AtomReq) : State :=
  let v := s.readPlace bay fd.place
  let old := v.1.1.toNat / 256 ^ (r.xl.ia % 64) % 256 ^ (if r.wide then 8 else 4)
  let s := v.2.2.updCtx r.core r.ctx (fun x => { x with detFlying := x.detFlying.filter (· != r.num) })
  (s.atomDone r).atomReply r old (v.1.2.getLsbD (r.xl.ia % 64 / 8)) v.2.1

/-- R354, R355: a reduction that faults parks; an atomic, a join or a publication word holds its context with the request. -/
def State.holdRequest (s : State) (core ctx epoch : Nat) (x : Xl) (va taskid sub size : Nat) (pc : Word) (ev : Instr) : State :=
  if (s.ctx core ctx).epoch != epoch || (s.ctx core ctx).status == .idle then s
  else
    let s := s.updCtx core ctx (fun c => { c with heldOps := c.heldOps ++ [[ev]], wait := if c.wait == .none then .fault else c.wait })
    s.record (s.memRecord core ctx 0 0 sub x va taskid pc.toNat size (some (.ctx core ctx epoch))) (recOrder core ctx 0)

/-- R235, R318, R362: an ATOM or RED at its home bank, of this package's or another's. (DESIGN CHOICE, log entries 15, 19, 86). -/
def State.serveAtom (s : State) (r : AtomReq) : State :=
  let ev : Instr := .bayAtomic r
  let bay := pathBay r.path
  let size := if r.wide then 3 else 2
  let fault (s : State) (f : Nat) : State :=
    if r.via.isSome then (s.accepted ev).atomReply r 0 false 0 else
    match r.id with
    | some _ => s.holdRequest r.core r.ctx r.epoch r.xl r.va r.taskid f size 0 ev
    | none =>
      if r.replay then s.reparkRecord r.core r.ctx r.xl r.va r.taskid f 1 ev
      else (s.park r.core r.ctx r.epoch r.ctx r.xl r.va r.taskid f 1 r.path ev (.bayAtomic { r with replay := true })).atomDone r
  if r.replay && !s.stillParked r.core ev then s.accepted ev
  else if r.xl.rmt then
    let f := s.free
    let v := (Config.remoteWord f.1).toNat % (if r.wide then 2 ^ 64 else 2 ^ 32)
    ((f.2.accepted ev).atomDone r).atomReply r v false 0
  else if isCtl r.xl.ia then
    match s.ctlFault r.xl false with
    | some f => fault s f
    | none =>
      if r.id.isNone && !r.replay && s.parksBehind r.core (xlPlace r.xl) then fault s 0 else
      let s := if r.replay then s.leaveSide r.core ev else s
      let off := r.xl.ia - ctlBase
      let n := if r.wide then 8 else 4
      let old := (s.ctlLine off (s.ctx r.core r.ctx).sr.priv.toNat).toNat / 256 ^ (off % 64) % 256 ^ n
      let w : CtlWrite := { off, data := BitVec.ofNat 512 (atomValue r.op r.wide old r.d.toNat r.e.toNat * 256 ^ (off % 64)),
                            mask := byteMask (off % 64) n, core := r.core, ctx := r.ctx, host := false,
                            priv := (s.ctx r.core r.ctx).sr.priv.toNat, ia := r.xl.ia, asidGen := r.xl.asid + 4096 * r.xl.gen,
                            taskid := r.taskid }
      ((s.ctlDeliver w).atomDone r).atomReply r old false 0
  else
    let behind := r.id.isNone && !r.replay && r.via.isNone && s.parksBehind r.core (xlPlace r.xl)
    match s.xlate bay r.xl (if r.id.isSome then needRW else needW) s.root with
    | (.error f, _, s) => fault s f
    | (.ok fd, _, s) =>
      if behind then fault s 0 else
      let s := s.raiseSeq (bay / 16) (if r.via.isSome then 4 else coreDie r.core) r.seq
      if r.det && r.via.isNone then (s.accepted ev).bufferAtom bay fd r
      else if (s.migrOf r.xl.ia).isSome then s.holdWrite bay r.core r.ctx r.xl.ia r.path ev
      else
        let s := if r.replay then s.leaveSide r.core ev else s
        (s.accepted ev).performAtom bay fd r

/-! ## Join counters (R123, R417) -/

/-- R268: whether a record made by software is malformed. -/
def malformedRecord (b : BitVec 256) : Bool :=
  let x := b.toNat
  x / 2 ^ 250 != 0 || x / 2 ^ 246 % 4 != 0 || 47 < x / 2 ^ 240 % 64 || x % 64 != 0

/-- The acknowledgement that ends a RETIRE's join, the one that ends an LPUB, and the reply that brings a join block's record, and the one
of an LACQ's word: positions that no entry has. -/
def ackJoin : Nat := 2 ^ 61
def ackWord : Nat := 2 ^ 62
def ackRecord : Nat := 2 ^ 63
def ackAcquire : Nat := 2 ^ 60 + 1

/-- R123, R417: a join counter decremented at its home; on 0 the block's record goes back with the reply, or, malformed, is
reported and fails the job. -/
def State.performJoin (s : State) (bay : Nat) (fd : Found) (j : JoinReq) : State :=
  let v := s.readPlace bay fd.place
  let old := v.1.1.toNat % 2 ^ 64
  let rec_ : BitVec 256 := v.1.1.extractLsb' 256 256
  let s := v.2.2.raiseSeq (bay / 16) (if j.via.isSome then 4 else coreDie j.core) j.seq
  let delay := v.2.1
  let s := if old = 0 then s else
    let s := s.writePlace bay fd.place (BitVec.ofNat 512 (old - 1)) (byteMask 0 8) 0
    (s.setKeys fd.place (byteMask 0 8) (s.homeKey bay)).unpinLine j.xl.ia
  let s := if old = 1 then
      if malformedRecord rec_ then
        let t : TrapInfo := ⟨2, 4, BitVec.ofNat 64 (j.va + 32)⟩
        let s := s.failJob j.jobid 2
        s.record ⟨ringWord0 0 s.pkgId j.core j.ctx 6 4 4 2, trapCode t, j.pc, t.addr, BitVec.ofNat 64 j.taskid,
          (s.ctx j.core j.ctx).sr.groupId, BitVec.ofNat 64 (j.jobid % 2 ^ 32), none⟩ (512 * 64)
      else (if j.via.isSome then s else s.carry j.core j.ctx ackRecord (bay / 16)).answer j.via delay 1 0 rkDecide j.core j.path
        (.spawnRecordPush j.core j.ctx j.epoch 2 ⟨rec_, j.va + 32, j.jobid, true⟩)
    else s
  let s := if j.via.isSome then s else s.carry j.core j.ctx (j.id.getD ackJoin) (bay / 16)
  match j.id with
  | some id =>
    let r := if (s.ctx j.core j.ctx).det then 0 else if old = 0 then BitVec.allOnes 64 else BitVec.ofNat 64 (old - 1)
    s.answer j.via delay 1 (2 + if j.port then 3 else 0) rkResult j.core j.path
      (.resultProduced ⟨j.core, j.ctx, j.epoch, id, .scalar r false, j.dst, .none⟩)
  | none => s.answer j.via delay 1 0 rkCore j.core j.path (.logAck j.core j.ctx j.epoch ackJoin)

/-- R123, R328: JOIN_COUNTER_DECREMENT's service: a deterministic join that brings its counter to 0 first merges its set.
(DESIGN CHOICE, log entry 15). -/
def State.serveJoin (s : State) (j : JoinReq) : State :=
  let ev : Instr := .joinCounterDecrement j
  let bay := pathBay j.path
  let fault (s : State) (f : Nat) : State :=
    if j.via.isSome then s.answer j.via 0 1 0 rkLast 0 j.path .nop else s.holdRequest j.core j.ctx j.epoch j.xl j.va j.taskid f 6 j.pc ev
  if j.xl.rmt then
    let f := s.free
    let s := f.2
    match j.id with
    | some id => s.send 0 unitBay (replyPath j.path) 1 (2 + if j.port then 3 else 0) rkResult j.core
        (.resultProduced ⟨j.core, j.ctx, j.epoch, id, .scalar (Config.remoteWord f.1) false, j.dst, .none⟩)
    | none => s.send 0 unitBay (replyPath j.path) 1 0 rkCore j.core (.logAck j.core j.ctx j.epoch ackJoin)
  else if isCtl j.xl.ia then
    match s.ctlFault j.xl false with
    | some f => fault s f
    | none => fault s 3
  else match s.xlate bay j.xl needRW s.root with
    | (.error f, _, s) => fault s f
    | (.ok fd, _, s) =>
      if (s.migrOf j.xl.ia).isSome then s.holdWrite bay j.core j.ctx j.xl.ia j.path ev
      else
        let v := s.readPlace bay fd.place
        match s.merges.find? (fun m => m.joinIa == some (j.xl.ia / 64 * 64) && m.jobId == j.jobid) with
        | some m =>
          if v.1.1.toNat % 2 ^ 64 = 1 && m.thenEv.isNone then
            let mark (e : MergeSet) : MergeSet := if e.id == m.id then { e with thenEv := some ev } else e
            let s := { v.2.2 with merges := v.2.2.merges.map mark }
            s.at 0 rkHome bay (.merge m.id)
          else v.2.2.performJoin bay fd j
        | none => v.2.2.performJoin bay fd j

/-! ## Publication words (R217) -/

/-- R217: the publication word that a context's LPUB writes. -/
def State.pubWord (s : State) (core ctx : Nat) : Word :=
  BitVec.ofNat 64 ((s.ctx core ctx).pubPos * 2 ^ 32 + s.pkgId * 2 ^ 22 + core * 2 ^ 13 + ctx * 2 ^ 11)

/-- R217: PUBLICATION_WRITE's service. -/
def State.servePub (s : State) (core ctx epoch : Nat) : State :=
  let x := s.ctx core ctx
  if x.epoch != epoch then s
  else match x.lpubOp with
    | none => s
    | some w =>
      let path := (s.routeOf core w).1
      match path with
      | .error f => s.holdRequest core ctx epoch w 0 x.sr.taskId.toNat f 3 0 (.publicationWrite core ctx epoch)
      | .ok (path, _) =>
        let bay := pathBay path
        let ack (s : State) : State := (s.sink core 0).send 0 unitBay (replyPath path) 1 0 rkCore core (.logAck core ctx epoch ackWord)
        let fault (s : State) (f : Nat) : State :=
          s.holdRequest core ctx epoch w 0 x.sr.taskId.toNat f 3 0 (.publicationWrite core ctx epoch)
        if w.host then ack { s with host := putBytes s.host w.ia 8 (s.pubWord core ctx).toNat }
        else if w.rmt then ack s
        else if isCtl w.ia then match s.ctlFault w false with
          | some f => fault s f
          | none =>
            let off := w.ia - ctlBase
            ack (s.ctlDeliver { off, data := BitVec.ofNat 512 ((s.pubWord core ctx).toNat * 256 ^ (off % 64)),
                                mask := byteMask (off % 64) 8, core, ctx, host := false, priv := x.sr.priv.toNat, ia := w.ia,
                                asidGen := w.asid + 4096 * w.gen, taskid := x.sr.taskId.toNat })
        else match s.xlate bay w needW s.root with
          | (.error f, _, s) => fault s f
          | (.ok fd, _, s) =>
            if (s.migrOf w.ia).isSome then s.holdWrite bay core ctx w.ia path (.publicationWrite core ctx epoch)
            else ack (s.writeWord bay fd w (s.pubWord core ctx) (coreDie core))

/-! ## Acquisition (R218, R261) -/

/-- R218: the acquisition table with a writer's position, the least recently used of 32 entries replaced when full. -/
def acqSet (l : List AcqEnt) (pkg core ctx pos : Nat) : List AcqEnt :=
  let now := l.foldl (fun m e => max m e.used) 0 + 1
  let rest := l.filter (fun e => !(e.pkg == pkg && e.core == core && e.ctx == ctx))
  let rest := if rest.length < 32 then rest else
    let low := rest.foldl (fun m e => min m e.used) now
    rest.filter (fun e => e.used != low)
  rest ++ [⟨pkg, core, ctx, pos, now⟩]

/-- R218: the name of a writer and its acquirer under which lines are pinned. -/
def pinName (pkg core ctx acquirer : Nat) : Nat × Nat := (pkg * 2048 + core * 4 + ctx, acquirer)

/-- An LACQ's refills still to come. -/
def Ctx.setRefills (x : Ctx) (n : Nat) (pop : Bool) : Ctx :=
  { x with ops := x.ops.map (fun o => match o.kind with
      | .lacq xls _ => { o with kind := .lacq (if pop then xls.drop 1 else xls) n }
      | _ => o) }

/-- R218, R261: an LACQ's publication word at its home: the reader's view line of the word is dropped, and the writer's history from the
position last acquired is replayed, or the view is refreshed where it is not known. -/
def State.serveLacq (s : State) (core ctx epoch index : Nat) : State :=
  let x := s.ctx core ctx
  if x.epoch != epoch then s
  else match (x.ops.findSome? (fun o => match o.kind with | .lacq (w :: rest) n => some (w, rest, n) | _ => none)) with
  | none => s
  | some (w, rest, _) =>
    if rest.length + 1 != index then s
    else match s.routeOf core w with
    | (.error f, s) => s.holdRequest core ctx epoch w 0 x.sr.taskId.toNat f 3 0 (.lacqWordRead core ctx epoch index)
    | (.ok (path, _), s) =>
      let bay := pathBay path
      match s.homeRead bay w needR false x.sr.priv.toNat with
      | (.error f, s) => s.holdRequest core ctx epoch w 0 x.sr.taskId.toNat f 3 0 (.lacqWordRead core ctx epoch index)
      | (.ok (v, d), s) =>
        let word := v.1.toNat / 256 ^ (w.ia % 64) % 2 ^ 64
        let pos := word / 2 ^ 32
        let wp := word / 2 ^ 22 % 1024
        let wk := word / 2 ^ 13 % 512
        let wc := word / 2 ^ 11 % 4
        let s := (s.carry core ctx ackAcquire (bay / 16)).dropLine core w
        let name := pinName wp wk wc ctx
        let s := s.updCore core (fun k => { k with view := ⟨k.view.entries.map (fun e =>
          (e.1, e.2.map (fun l => { l with pin := l.pin.filter (· != name) })))⟩ })
        let known := (x.acq.find? (fun e => e.pkg == wp && e.core == wk && e.ctx == wc)).map (·.pos)
        let writer := s.ctx wk wc
        let s := s.updCtx core ctx (fun c => { c with acq := acqSet c.acq wp wk wc pos })
        let since := tget writer.pubAt 0 pos
        let reply := pathTime (replyPath path) 1 + d
        let s := if wp = s.pkgId && since != 0 then s.sample core 1 (s.cycle + reply + 1 - since) else s
        let ack (s : State) : State :=
          (s.updCtx core ctx (fun c => c.setRefills 0 true)).at reply rkCore core (.logAck core ctx epoch ackAcquire)
        if pos = 0 then ack s
        else
          let from_ := known.getD 0
          let lines := if wp = s.pkgId then ((List.range (pos - from_)).map (fun i => tget writer.hist none (from_ + i))) else []
          if known.isNone || wp != s.pkgId || lines.any (·.isNone) then ack (s.refresh core)
          else if lines.isEmpty then ack s
          else
            let s := s.updCtx core ctx (fun c => c.setRefills lines.length true)
            let ask (s : State) (l : Xl) : State :=
              let r : ReadReq := { core, ctx, epoch, load := 0, xl := l, evp := 4, view := (s.core core).viewGen, path, replay := true }
              match s.routeOf core l with
              | (.ok (p, extra), s) => s.send reply ctx p 1 (34 + extra) rkHome (whoOf core ctx) (.bayReadRequest { r with path := p })
              | (.error f, s) => s.at reply rkCore core (.replayRefill core ctx epoch ⟨r, 0, 0, f, 0⟩)
            (lines.filterMap id).foldl ask s

/-! ## Arrival at a home -/

/-- A request served at its home, all walks done. -/
def State.serveHome (s : State) (ev : Instr) : State :=
  match ev with
  | .bayReadRequest r => s.serveRead r
  | .logEntryArrival p => s.serveLog p
  | .bayAtomic r => s.serveAtom r
  | .joinCounterDecrement j => s.serveJoin j
  | .publicationWrite c x e => s.servePub c x e
  | .lacqWordRead c x e n => s.serveLacq c x e n
  | _ => s

/-- Where the request of an event at a home goes. -/
def State.evXl (s : State) (ev : Instr) : Option Xl := (s.homeReq ev).map (·.1)

/-- R213: a bank serves one operation per cycle, the others of the cycle going to the next, in the order of their units, which begins
with their injection timestamps. (DESIGN CHOICE, log entry 17). -/
def State.atBank (s : State) (bay : Nat) (x : Xl) (ev : Instr) : State :=
  if s.bankFree bay x then (s.useBank bay x).serveHome ev else s.at 1 rkHome s.unit ev

/-- The unit that sent a request: its core, and its order there. -/
def sender (ev : Instr) : Nat :=
  match ev with
  | .bayReadRequest r => whoOf r.core (match r.eng with | some (e, _) => unitEng e | none => r.ctx)
  | .logEntryArrival p => whoOf p.core (match p.eng with | some (e, _) => unitEng e | none => if p.host then unitPort else p.ctx)
  | .bayAtomic r => whoOf r.core r.ctx
  | .joinCounterDecrement j => whoOf j.core j.ctx
  | .publicationWrite c x _ => whoOf c x
  | .lacqWordRead c x _ _ => whoOf c x
  | _ => 2 ^ 20

/-- R213, R318, R320, R350: a request that reaches its home: it waits behind an earlier refused one of its unit to its region, takes or joins a
walk where no translation serves it, or goes to its bank. Another package's begins at its port, whose traffic may enter while SYRCTL.EN and
the port allow it (R317, R321). (DESIGN CHOICE, log entry 86). -/
def State.reach (s : State) (path : Path) (via : Option Nat) (x : Xl) (walks : Bool) (ev : Instr) : State :=
  match via, path with
  | some port, [] =>
    if !(s.ports (· == port)).contains port then s
    else
      let h := s.homeOf (routerAt (port / 16) (port % 16) 0) x.ia
      (match h.1, s.homeReq ev with
        | some (b, extra), some (_, put) =>
          let p := pathToBay s.ctl (routerAt (port / 16) (port % 16) 0) (b / 16) (b % 16)
          h.2.send 0 unitPort p (evFlits (put p)) (evAfter (put p) + extra) rkHome (sender ev) (put p)
        | _, _ => h.2)
  | _, _ =>
    let bay := pathBay path
    match s.refusedOf (sender ev) x.ia ev with
    | some r => s.putBehind r.id ev
    | none => if walks && s.mustWalk bay x then s.startWalk bay x (sender ev) ev else s.atBank bay x ev

/-- R213: BAY_READ_REQUEST: a miss reaches its bank; one that no translation serves takes or joins a walk. -/
def execBayReadRequest (r : ReadReq) (s : State) : Out := (s.reach r.path r.via r.xl true (.bayReadRequest r)).out

/-- R215: LOG_ENTRY_ARRIVAL. -/
def execLogEntryArrival (p : LogPkt) (s : State) : Out :=
  (s.reach p.path p.via p.w.xl (p.replay || p.eng.isSome || p.via.isSome || !s.parksBehind p.core (xlPlace p.w.xl)) (.logEntryArrival p)).out

/-- R213, R235: BAY_ATOMIC. -/
def execBayAtomic (r : AtomReq) (s : State) : Out := (s.reach r.path r.via r.xl true (.bayAtomic r)).out

/-- R123: JOIN_COUNTER_DECREMENT. -/
def execJoinCounterDecrement (j : JoinReq) (s : State) : Out := (s.reach j.path j.via j.xl true (.joinCounterDecrement j)).out

/-- R217: PUBLICATION_WRITE. -/
def execPublicationWrite (core ctx epoch : Nat) (s : State) : Out :=
  match (s.ctx core ctx).lpubOp with
  | none => .next s
  | some w => match s.routeOf core w with
    | (.error _, s) => (s.servePub core ctx epoch).out
    | (.ok (path, _), s) => (s.reach path none w true (.publicationWrite core ctx epoch)).out

/-- R218, R261: LACQ_WORD_READ: a publication word is read at its home, in bank order. -/
def execLacqWordRead (core ctx epoch index : Nat) (s : State) : Out :=
  let ev : Instr := .lacqWordRead core ctx epoch index
  match s.homeReq ev with
  | none => .next s
  | some (w, _) =>
    if (s.ctx core ctx).epoch != epoch then .next s
    else match s.routeOf core w with
    | (.error _, s) => (s.serveLacq core ctx epoch index).out
    | (.ok (path, _), s) => (s.reach path none w true ev).out

/-- R347: a request served by a walk that started under some SEGROOT. -/
def State.serveUnder (s : State) (root : Word) (ev : Instr) : State :=
  let t := { s with ctl := { s.ctl with segroot := root } }.serveHome ev
  { t with ctl := { t.ctl with segroot := s.ctl.segroot } }

/-- R350: a walk that ended serves a miss that shares it: the first, whose translation it brings, and those that fault; the others go to
their banks. (DESIGN CHOICE, log entry 17). -/
def State.serveWaiter (s : State) (bay : Nat) (root : Word) (ev : Instr) : State :=
  match s.evXl ev with
  | none => s
  | some x => if s.mustWalk bay x then (s.useBank bay x).serveUnder root ev else s.at 0 rkHome bay ev

/-- Whether the bank of a walk's first miss is free. (DESIGN CHOICE, log entry 17). -/
def State.waiterFree (s : State) (bay : Nat) (w : Walk) : Bool :=
  match w.waiters.head?.bind s.evXl with | some x => s.bankFree bay x | none => true

/-- R350: the misses that wait at a bay, in their order: one that a walk or the cache serves by now takes no walker, the others take the
free walkers; the rest wait. -/
def State.takeWalkers (s : State) (bay : Nat) : List Miss → State
  | [] => { s with bays := tset s.bays .reset bay { tget s.bays .reset bay with waiting := [] } }
  | m :: rest =>
    let b := tget s.bays .reset bay
    match s.evXl m.ev with
    | none => s.takeWalkers bay rest
    | some x =>
      if !s.mustWalk bay x then (s.at 0 rkHome bay m.ev).takeWalkers bay rest
      else if b.walks.any (·.serves x) then { s with bays := tset s.bays .reset bay (b.join x m.ev) }.takeWalkers bay rest
      else if 16 ≤ b.walks.length then { s with bays := tset s.bays .reset bay { b with waiting := m :: rest } }
      else (s.beginWalk bay x m.ev).takeWalkers bay rest

/-- R213, R350: TABLE_WALK_COMPLETE: the walk fills the cache or ends in a fault, the misses that share it are served, and waiting misses
take the walkers that are free; while the bank of the first is busy the walk waits. Number 0, which no walk has, stands for the walkers that
are free at the end of a cycle's arrivals. -/
def execTableWalkComplete (bay id : Nat) (s : State) : Out :=
  let b := tget s.bays .reset bay
  match b.walks.find? (fun w => w.id == id) with
  | none => (s.takeWalkers bay b.waiting).out
  | some w =>
    if !s.waiterFree bay w then .next (s.at 1 rkHome bay (.tableWalkComplete bay id)) else
    let s := { s with bays := tset s.bays .reset bay { b with walks := b.walks.filter (fun e => e.id != id) } }
    let s := w.waiters.foldl (fun s ev => s.serveWaiter bay w.root ev) s
    (s.takeWalkers bay b.waiting).out

end Sys2Proof.Machine
end

