-- ==== Sys2Proof/Machine/Queue.lean ====
section
/-! DEFINITION. Continuation records (R267, R268) and the queues they wait in: a core's, a group's and a die's (R280 to R282,
R285), with SPAWN_RECORD_PUSH. -/

namespace Sys2Proof.Machine

open Sys2Proof

/-! ## Records (R267) -/

def recCode (r : RecP) : Nat := r.bits.toNat % 2 ^ 64
def recFrame (r : RecP) : Nat := r.bits.toNat / 2 ^ 64 % 2 ^ 64
def recJoin (r : RecP) : Nat := r.bits.toNat / 2 ^ 128 % 2 ^ 64
def recTask (r : RecP) : Nat := r.bits.toNat / 2 ^ 192 % 2 ^ 48
def recPrio (r : RecP) : Nat := r.bits.toNat / 2 ^ 240 % 64
def recIdem (r : RecP) : Bool := r.bits.getLsbD 248
def recAging (r : RecP) : Bool := r.bits.getLsbD 249
def recResume (r : RecP) : Bool := r.bits.getLsbD 250
def recRetry (r : RecP) : Bool := r.bits.getLsbD 251

/-! ## A die's queues -/

/-- R282: the cycles in which an aging item rises one level: 2^AGEK µs at 2.5 GHz. (DEDUCED, log entry 76). -/
def State.agePeriod (s : State) : Nat := 2500 * 2 ^ (s.ctl.schedctl.toNat / 2 ^ 16 % 16)

/-- R282: the cycles until an item that enters a die's queues first rises: one that has waited in the intake rises when its period there ends.
(DEDUCED, log entry 76). -/
def State.firstRise (s : State) (i : Item) : Nat :=
  match i.kind with
  | .group g => match g.waits with
    | some c => s.agePeriod - (s.cycle - c) % s.agePeriod
    | none => s.agePeriod
  | _ => s.agePeriod

/-- R281, R282: an item enters a die's queues. (DEDUCED, log entry 76). -/
def State.pushItem (s : State) (die : Nat) (i : Item) : State :=
  let d := tget s.docents .reset die
  let n := s.next
  let s := { n.2 with docents := tset n.2.docents .reset die { d with items := d.items ++ [{ i with num := n.1 }] } }
  let s := if i.aging then s.at (s.firstRise i) rkLast die (.agingRise die n.1) else s
  s.pokeDocent die

/-- R280: the items that wait on a die. -/
def State.waiting (s : State) (die : Nat) : Nat := (tget s.docents .reset die).items.length

/-- R280: the most items that a die holds. -/
def dieLimit : Nat := 16777216

/-- R280, R281: a loose record as an item. -/
def looseItem (r : RecP) (now source ctx : Nat) : Item :=
  { num := 0, kind := .loose r r.job, level := recPrio r, time := now, source, ctx, aging := recAging r, hold := false, first := false }

/-- R282, R300: AGING_RISE: an item that still waits rises one level and keeps its timestamp; a decision of this cycle is made at the old level.
A group's own priority stays as it is. (DEDUCED, log entry 76). -/
def execAgingRise (die item : Nat) (s : State) : Out :=
  let up (i : Item) : Item := if i.num == item then { i with level := i.level - 1 } else i
  let d := tget s.docents .reset die
  if d.items.any (·.num == item) then
    .next (({ s with docents := tset s.docents .reset die { d with items := d.items.map up } }.at s.agePeriod rkLast die
      (.agingRise die item)).at 1 rkDecide die .docentPlacement)
  else if s.intake.any (fun (l : Launch) => l.num == item) then
    let rise (g : GroupDesc) : GroupDesc := if g.aging then { g with rise := min (g.rise + 1) g.prio } else g
    .next ({ s with intake := s.intake.map (fun (l : Launch) => if l.num == item then { l with groups := l.groups.map rise } else l) }.at
      s.agePeriod rkLast die (.agingRise die item))
  else .next s

/-! ## Core and group queues (R285) -/

/-- R285: the idle contexts of a core are to pop. -/
def State.pokeCore (s : State) (core : Nat) : State :=
  (List.range 4).foldl (fun s c =>
    if (s.ctx core c).status == .idle then s.at 0 rkDecide (core * 4 + c) (.recordPop core c) else s) s

/-- R285: the idle contexts of a group's cores are to pop. -/
def State.pokeGroup (s : State) (gid : Nat) : State :=
  match s.group gid with
  | none => s
  | some g => g.coreList.foldl (fun s n => s.pokeCore n) s

/-- R285: whether a queue that SPAWN names has no room: 8 records of a core, 64 of a group. (DEDUCED, log entry 80). -/
def State.queueFull (s : State) (core qsel : Nat) : Bool :=
  if qsel = 0 then 8 ≤ (s.core core).queue.length
  else match (s.core core).group.bind s.group with
    | some g => 64 ≤ g.queue.length
    | none => false

/-- R122: SPAWN_RECORD_PUSH: a record read enters its queue, and idle contexts pop. `qsel` 3 is a record that a join pushed
(R417). A queue that has filled meanwhile is tried again. A core in no group has no group queue: its record waits at the
die. (DEDUCED, log entry 80). -/
def execSpawnRecordPush (core ctx epoch qsel : Nat) (r : RecP) (s : State) : Out :=
  let grp := (s.core core).group
  if qsel < 2 && s.queueFull core qsel then .next (s.at 1 rkDecide (core * 4 + ctx) (.spawnRecordPush core ctx epoch qsel r))
  else if qsel = 0 then .next ((s.updCore core (fun k => { k with queue := k.queue ++ [r] })).pokeCore core)
  else match qsel, grp with
    | 1, some gid => .next ((s.updGroup gid (fun g => { g with queue := g.queue ++ [r] })).pokeGroup gid)
    | _, _ => .next ((s.landed core ctx ackRecord).pushItem (coreDie core) (looseItem r s.cycle core ctx))

end Sys2Proof.Machine
end

