-- ==== Sys2Proof/Machine/Pipe.lean ====
section
/-! DEFINITION. PIPEERR (R364 to R367): what a mismatch of a checker does to a task and to its core. Which operation a checker finds
wrong is no matter of the program: `upsets` holds the next ones, as an input. -/

namespace Sys2Proof.Machine

open Sys2Proof

/-- R366: a copy of a record goes back to its group's queue, or, a loose one, to its die's; it is marked. (DESIGN CHOICE, log entry 39). -/
def State.requeue (s : State) (core ctx : Nat) (r : RecP) : State :=
  let r := { r with bits := r.bits ||| BitVec.ofNat 256 (2 ^ 251) }
  let loose := s.pushItem (coreDie core) (looseItem r s.cycle core ctx)
  match (s.core core).group with
  | none => loose
  | some key => match s.group key with
    | none => loose
    | some g => if g.desc.pool then loose else (s.updGroup key (fun g => { g with queue := g.queue ++ [r] })).pokeGroup key

/-- R366: whether a task killed by PIPEERR is put back once. -/
def State.mayRetry (s : State) (x : Ctx) : Bool := s.ctl.relctl.getLsbD 0 && !x.startVec && recIdem x.record && !recRetry x.record

/-- R365, R366: a task killed by PIPEERR, with its report. -/
def State.pipeKill (s : State) (core ctx src : Nat) (t : TrapInfo) (pc : Word) : State :=
  let x := s.ctx core ctx
  if s.mayRetry x then (s.requeue core ctx x.record).killTask core ctx src t pc 0xE false
  else s.killTask core ctx src t pc 0xE true

/-- R367, R369: a core made unusable: its tasks are killed, those that yielded too, and its subscription entries are dropped.
(DESIGN CHOICE, log entry 39). -/
def State.retireCore (s : State) (core : Nat) : State :=
  let k := s.core core
  let s := s.setCore core { k with dead := true, subs := [], fwds := [], yielded := [] }
  let s := k.yielded.foldl (fun s y =>
    let x := y.2
    let s := if s.mayRetry x then s.requeue core 0 x.record else s.failJob x.record.job 0xE
    s.record ⟨ringWord0 0 s.pkgId core 0 5 4 3 0xE, trapCode ⟨0xE, 3, 0⟩, x.pc, 0, x.sr.taskId, x.sr.groupId, x.sr.jobId, none⟩ (recOrder core 0 0)) s
  (List.range 4).foldl (fun s c =>
    let x := s.ctx core c
    if x.status == .running then s.pipeKill core c 5 ⟨0xE, 3, 0⟩ x.pc else s) s

/-- R366, R367: a PIPEERR counted against a core; a second one within the window makes it unusable. -/
def State.countPipe (s : State) (core : Nat) : State :=
  let win := 2 ^ min 48 (max 16 (s.ctl.relctl.toNat / 256 % 256))
  let k := s.core core
  let second := match k.lastPipe with | some t => s.cycle - t ≤ win | none => false
  let s := s.setCore core { k with lastPipe := some s.cycle }
  if second && !k.dead then s.retireCore core else s

/-- R365 to R367: a PIPEERR of a task's work: the task, if it still runs, is killed, and the core counts it. (DESIGN CHOICE, log entry 38). -/
def State.pipeErr (s : State) (core ctx epoch src sub addr : Nat) (pc : Word) : State :=
  let x := s.ctx core ctx
  let s := if x.status == .running && x.epoch == epoch then s.pipeKill core ctx src ⟨0xE, sub, BitVec.ofNat 64 addr⟩ pc else s
  s.countPipe core

end Sys2Proof.Machine
end

