-- ==== Sys2Proof/Machine/Collection.lean ====
section
/-! DEFINITION. The four Collection bodies that the spec prints (R196 to R199), assembled by its own rules (R25 to R28, R68, R73 to
R77, R415), and with them the digests of the vitrine entries that stand for them (R186, R188, R193). -/

namespace Sys2Proof.Machine

open Sys2Proof

/-- A bundle to assemble: the slots of the ports from port 0 upward (R27), a long immediate under the slot that owns it (R26), and
the instruction of each slot that has one. -/
structure Bun where
  ports : List Nat
  limm : Option (Nat × Nat)
  slots : List (Nat × Instr)

/-- R66, R68: the 512 bits of a bundle whose wait, signal and HW fields hold their defaults. -/
def Bun.bits (b : Bun) : Nat :=
  let surr := match b.limm with | some (k, _) => 2 ^ (k + 1) | none => 0
  let ports := (b.ports.zipIdx.map (fun p => p.1 * 2 ^ (8 + 3 * p.2) + 2 ^ (20 + p.2))).sum
  let limm := match b.limm with | some (k, v) => v * 2 ^ (64 + 56 * (k + 1)) | none => 0
  surr + ports + limm + (b.slots.map (fun s => (match encodeSlot s.2 with | some (_, w) => w.toNat | none => 0) * 2 ^ (64 + 56 * s.1))).sum

/-- R28, R75: a vector slot of type .f32 whose result goes to the queue only, and the same with round to nearest written. -/
def cv (a b c : BitVec 7) : AvtF := ⟨0, 0, 0, 9, 0, 0, 0, c, b, a, 63⟩
def cvr (a b c : BitVec 7) : AvtF := { cv a b c with ernd := 1 }

/-- R28: an A-class slot of type .i64. -/
def ca (dst : BitVec 6) (a b : BitVec 7) : AvtF := ⟨0, 0, 0, 0, 0, 0, 0, 0, b, a, dst⟩

/-- R28, R76: a vector load or store at a base, with its natural size, scope core, eviction priority 4 and no
index, which is written as the constant 0. -/
def cm (base data : BitVec 7) (dst : BitVec 6) : MF := ⟨0, 5, dst, data, 56, base, 4, 1, 0⟩

/-- R24: specifiers of s n, v n, and of a long immediate. -/
def rg (n : Nat) : BitVec 7 := BitVec.ofNat 7 (16 + n)
def li : BitVec 7 := 64

/-- A bundle of S4 alone, of S4 and S5, of S0 alone, and an empty one. -/
def bv (i : Instr) : Bun := ⟨[], none, [(4, i)]⟩
def bvl (i : Instr) (l : Nat) : Bun := ⟨[], some (4, l), [(4, i)]⟩
def bvv (i j : Instr) : Bun := ⟨[], none, [(4, i), (5, j)]⟩
def bc (i : Instr) : Bun := ⟨[], none, [(0, i)]⟩
def bnil : Bun := ⟨[], none, []⟩

/-- R196: C.100 DOT4. -/
def bodyDot4 : List Bun :=
  [bvv (.vcvt { cv 1 0 0 with ext := 0xB }) (.vcvt { cv 0 0 0 with ext := 0xB }),
   bvv (.vcvt { cv 3 0 1 with ext := 0xB }) (.vcvt { cv 2 0 1 with ext := 0xB }),
   bvv (.vmul (cvr 3 2 0)) (.vmul (cvr 1 0 0)),
   bvv (.vshuf { cv 1 0 0 with ext := 2 }) (.vshuf { cv 1 0 0 with ext := 3 }),
   bv (.vadd (cvr 1 0 0)),
   bvv (.vshuf { cv 0 56 0 with ext := 2 }) (.vshuf { cv 0 56 0 with ext := 3 }),
   bv (.vadd (cvr 1 0 0)),
   bc .retr,
   bnil]

/-- R197, R198: the steps that C.110 and C.132 share, from the multiplication by log2 e to the scaling by 2^n. -/
def expSteps : List Bun :=
  [bvl (.vmul (cvr 0 li 0)) 0x3FB8AA3B,
   bv (.vrnd (cvr 0 0 0)),
   bvl (.vfms (cvr 0 li 2)) 0x3F317200,
   bvl (.vfms (cvr 1 li 0)) 0x35BFBE8E,
   bvl (.vmul (cvr 0 li 0)) 0x3AB60B61,
   bvl (.vfma (cvr 0 1 li)) 0x3C088889,
   bvl (.vfma (cvr 0 2 li)) 0x3D2AAAAB,
   bvl (.vfma (cvr 0 3 li)) 0x3E2AAAAB,
   bv (.vfma (cvr 0 4 60)),
   bv (.vfma (cvr 0 5 57)),
   bv (.vfma (cvr 0 6 57)),
   bv (.vscl (cvr 0 9 0))]

/-- R197: C.110 EXP. -/
def bodyExp : List Bun :=
  [bvl (.vmax (cv 0 li 0)) 0xC2D00000, bvl (.vmin (cv 0 li 0)) 0x42B20000] ++ expSteps ++ [bc .retr, bnil]

/-- R77: BRC on c1 by a count of bundles. -/
def brc1 (disp : Int) : Bun := bc (.brc ⟨BitVec.ofInt 22 disp, 0, 1, 0, 0, 0⟩)

/-- `add sN, sN, 256` in S1 with a long immediate, beside others; and `sub s3, s3, 1`; and `cmp.ne _, q0, 0, c1`. -/
def addPtr (n : Nat) : Instr := .add (ca (BitVec.ofNat 6 n) (rg n) li)
def subCount : Bun := ⟨[1], none, [(1, .sub (ca 3 (rg 3) 65))]⟩
def cmpCount : Instr := .cmp { ca 63 0 64 with ext := 1, c := 9 }

/-- R198: C.132 SOFTMAX. -/
def bodySoftmax : List Bun :=
  [⟨[], none, [(1, .mov (ca 6 2 0)), (2, .mov (ca 7 1 0))]⟩,
   ⟨[], none, [(1, .mov (ca 8 2 0)), (2, .mov (ca 3 2 0))]⟩,
   ⟨[], none, [(1, .mov (ca 1 3 0)), (4, .vneg { cv 62 0 0 with dst := 1 })]⟩,
   ⟨[1, 3], some (1, 256), [(1, addPtr 1), (3, .ldv (cm (rg 1) 0 63))]⟩,
   subCount,
   ⟨[4], none, [(1, cmpCount), (4, .vmax { cv (rg 1) 1 0 with dst := 1 })]⟩,
   brc1 (-3),
   bnil,
   ⟨[4], none, [(4, .vred { cv (rg 1) 0 0 with ext := 2 })]⟩,
   ⟨[1], none, [(1, .mov (ca 1 (rg 6) 0)), (4, .vbcst { cv 0 0 0 with dst := 3 })]⟩,
   ⟨[1, 2], none, [(1, .mov (ca 2 (rg 7) 0)), (2, .mov (ca 3 (rg 8) 0))]⟩,
   ⟨[], none, [(0, .ckpt), (4, .vabs { cv 56 0 0 with dst := 2 })]⟩,
   ⟨[1, 3], some (1, 256), [(1, addPtr 1), (3, .ldv (cm (rg 1) 0 63))]⟩,
   ⟨[4], none, [(4, .vsub (cvr 0 (rg 3) 0))]⟩,
   bvl (.vmax (cv 0 li 0)) 0xC2D00000] ++ expSteps ++
  [⟨[1, 3, 4], some (1, 256), [(1, addPtr 2), (3, .stv (cm (rg 2) 0 0)), (4, .vadd { cvr (rg 2) 0 0 with dst := 2 })]⟩,
   subCount,
   ⟨[], none, [(0, .ckpt), (1, cmpCount)]⟩,
   brc1 (-18),
   bnil,
   ⟨[4], none, [(4, .vred (cvr (rg 2) 0 0))]⟩,
   bv (.vbcst (cv 0 0 0)),
   bv (.vrcps (cv 0 0 0)),
   bv (.vfms (cvr 1 0 57)),
   bv (.vfma (cvr 1 0 1)),
   bv (.vfms (cvr 3 0 57)),
   bv (.vfma { cvr 1 0 1 with dst := 3 }),
   ⟨[1, 2], none, [(1, .mov (ca 2 (rg 7) 0)), (2, .mov (ca 3 (rg 8) 0))]⟩,
   ⟨[3], none, [(0, .ckpt), (3, .ldv (cm (rg 2) 0 63))]⟩,
   ⟨[4], none, [(4, .vmul (cvr 0 (rg 3) 0))]⟩,
   ⟨[1, 3], some (1, 256), [(1, addPtr 2), (3, .stv (cm (rg 2) 0 0))]⟩,
   subCount,
   ⟨[], none, [(1, cmpCount)]⟩,
   brc1 (-5),
   bnil,
   bc .retr,
   bnil]

/-- R199: C.140 EPI. -/
def bodyEpi : List Bun :=
  [bv (.vadd (cvr 2 1 0)),
   bv (.vmax (cv 0 56 0)),
   bv (.vmul (cvr 0 2 0)),
   bv (.vcvt { cvr 0 56 0 with ext := 9, sat := 1, ty := 0xB }),
   bc .retr,
   bnil]

/-- R186: the canonical bytes of a body that holds no relocated immediate. -/
def bodyBytes (l : List Bun) : List (BitVec 8) := l.flatMap (fun b => natToBytes 64 b.bits)

/-- R186: the digest of a canonical body: the first 16 bytes of its SM3, digest byte 0 lowest. (PRESUMED, log entry 78). -/
def digestOf (bytes : List (BitVec 8)) : BitVec 128 :=
  BitVec.ofNat 128 (((sm3 bytes).take 16).foldr (fun b acc => b.toNat + 256 * acc) 0)

/-- R193: the body printed for a vitrine entry, if the spec prints one. -/
def vitBody : Nat → Option (List Bun)
  | 0 => some bodyDot4
  | 1 => some bodyExp
  | 9 => some bodySoftmax
  | 12 => some bodyEpi
  | _ => none

/-- R186, R193: an entry's digest: that of the printed body; of a body that is not printed the spec gives none. (PRESUMED, log entry 78). -/
def vitDigest (e : Nat) : BitVec 128 :=
  match vitBody e with
  | some b => digestOf (bodyBytes b)
  | none => Config.vitDigest e

/-- A set of register numbers as a mask, from bit `base`. -/
def regBits (base : Nat) (l : List Nat) : Nat := (l.map (fun n => 2 ^ (base + n))).sum

/-- R38, R195: an entry's scalar, mask and predicate clobber set, from the catalogue: c1 stands in bit 41. -/
def vitClobber (e : Nat) : BitVec 64 :=
  BitVec.ofNat 64 (match e with
    | 9 => regBits 0 [1, 2, 3, 6, 7, 8] + regBits 40 [1]
    | 10 => regBits 0 [1, 2, 3, 4, 5, 6, 7, 8] + regBits 40 [1]
    | 11 => regBits 0 [1, 2, 3, 4, 5, 6, 7] + regBits 40 [1]
    | _ => 0)

/-- R188, R195: an entry's vector clobber set. -/
def vitVclob (e : Nat) : BitVec 32 :=
  BitVec.ofNat 32 (match e with
    | 9 => regBits 0 [1, 2, 3]
    | 10 => regBits 0 [1, 2, 3, 4, 5]
    | 11 => regBits 0 [1, 2, 3, 4]
    | _ => 0)

/-- R188, R195: the CKPT bundles of an entry's body. -/
def vitCkpts (e : Nat) : Nat := match e with
  | 9 => 3
  | 10 => 3
  | 11 => 2
  | _ => 0

end Sys2Proof.Machine
end

