-- ==== Sys2Proof/Machine/Arrive.lean ====
section
/-! DEFINITION. The core side of memory: fills and held loads (R207, R210, R354), drains and what follows them (R215, R217,
R233, R235, R123, R124), acquisition and replay (R218, R261), the remaking of held accesses (R357), and the host's writes
and reads (R223, R321). -/

namespace Sys2Proof.Machine

open Sys2Proof

/-! ## Loads -/

/-- The k-th request of a load: line k of its access. -/
def PendLoad.missing (l : PendLoad) : List (Nat × Xl) :=
  l.xls.zipIdx.filterMap (fun e => if (tget l.lines none e.2).isNone then some (e.2, e.1) else none)

/-- The lines of a load, by index, that a request brings: its own, or those that it joined. -/
def PendLoad.wants (l : PendLoad) (r : ReadReq) : List Nat :=
  (l.missing.filter (fun e => e.2 == xlAt r.xl (r.xl.ia / 64 * 64)
    && (let a := tget l.asked 0 e.1; if a = 0 then l.num else a) == r.load)).map (·.1)

/-- R229: byte j of a load whose lines have come, with its word's poison. -/
def PendLoad.byte (l : PendLoad) (j : Nat) : Byte × Bool :=
  match l.overlay.find? (fun e => e.1 == j) with
  | some e => e.2
  | none =>
    let o := l.va % 64 + j
    match tget l.lines none (o / 64) with
    | some d => (d.1.extractLsb' (8 * (o % 64)) 8, d.2.getLsbD (o % 64 / 8))
    | none => (0, false)

/-- R229: the bytes of a load, as a number, and the poison of its words. -/
def PendLoad.value (l : PendLoad) : Nat × Nat :=
  let bytes := (List.range l.size).map l.byte
  (bytes.foldr (fun b acc => b.1.toNat + 256 * acc) 0,
    (List.range ((l.size + 7) / 8)).foldr (fun k acc =>
      (if (bytes.drop (8 * k)).take 8 |>.any (·.2) then 1 else 0) + 2 * acc) 0)

/-- R229: what a load yields. -/
def PendLoad.result (l : PendLoad) : Val :=
  let v := l.value
  if l.vec then ⟨true, BitVec.ofNat 2048 v.1, BitVec.ofNat 32 v.2⟩ else .scalar (BitVec.ofNat 64 v.1) (v.2 != 0)

/-- R122, R229: a load whose every line has come: its result is produced, or its record is pushed. -/
def State.finishLoad (s : State) (core ctx : Nat) (l : PendLoad) (delay : Nat) : State :=
  let x := s.ctx core ctx
  let s := s.setCtx core ctx { x with loads := x.loads.filter (fun e => e.num != l.num) }
  match l.block, l.spawn with
  | some _, _ => s
  | none, some (q, r) => s.at (max delay (l.since + 6 - s.cycle)) rkDecide core (.spawnRecordPush core ctx x.epoch q r)
  | none, none =>
    let delay := delay + if l.port then 3 else 0
    (s.sample core 0 (s.cycle + delay - l.since)).produceAt delay core ctx x.epoch l.id l.result l.dst

/-- R210: a line of a load-block has come; with the last one the token is produced. -/
def State.blockLine (s : State) (core tag : Nat) : State :=
  let k := s.core core
  match k.blocks.find? (fun b => b.tag == tag && b.missing != 0) with
  | none => s
  | some b =>
    let s := s.setCore core { k with blocks := k.blocks.map (fun e => if e.tag == tag then { e with missing := e.missing - 1 } else e) }
    let d := if b.port then 3 else 0
    if b.missing = 1 then ((s.updCore core Core.freeBlocks).sink core d).produceAt d core b.ctx b.epoch b.id (.scalar 1 false) b.dst else s

/-- A line given to every load of a context that waits for the request that brought it. -/
def State.giveLine (s : State) (core ctx : Nat) (r : ReadReq) (d : Line) (po : BitVec 8) : State :=
  let c := s.ctx core ctx
  let wants (l : PendLoad) : List Nat := l.wants r
  let nums := (c.loads.filter (fun l => !(wants l).isEmpty)).map (·.num)
  let give (l : PendLoad) : PendLoad :=
    { l with held := if (wants l).isEmpty then l.held else false
             lines := (wants l).foldl (fun t i => tset t none i (some (d, po))) l.lines }
  let blocks := c.loads.filterMap (fun l => if (wants l).isEmpty then none else l.block)
  let s := s.setCtx core ctx { c with loads := c.loads.map give }
  let s := blocks.foldl (fun s t => s.blockLine core t) s
  nums.foldl (fun s n => match (s.ctx core ctx).loads.find? (fun l => l.num == n) with
    | some l => if l.missing.isEmpty then s.finishLoad core ctx l 0 else s
    | none => s) s

/-- R183, R354, R210: a load's line faulted at home: the loads of the context that wait for it are held, with one record; a
routine body is rolled back, and only a load from before its checkpoint is made again; a load-block's fault holds only the readers of
its token. -/
def State.faultLine (s : State) (p : FillP) : State :=
  let r := p.req
  let c := s.ctx r.core r.ctx
  if c.epoch != r.epoch || c.status == .idle then s
  else
    let wants (l : PendLoad) : Bool := !(l.wants r).isEmpty
    match c.loads.find? wants with
    | none => s
    | some l =>
      let ev : Instr := .bayReadRequest r
      let size := if l.block.isSome then 6 else if l.size < 2 then 0 else Nat.log2 l.size
      let x := l.xls.headD r.xl
      let rec_ := s.memRecord r.core r.ctx 0 0 p.fault (xlAt x (x.ia / 64 * 64 + l.va % 64)) l.va c.sr.taskId.toNat l.pc.toNat size (some (.ctx r.core r.ctx r.epoch))
      if l.held then
        s.setCtx r.core r.ctx { c with heldOps := c.heldOps.dropLast ++ [(c.heldOps.getLast?.getD []) ++ [ev]] }
      else
        let s := s.record rec_ (recOrder r.core r.ctx 0)
        if c.inRoutine && l.block.isNone then
          let c := c.rollback
          let kept := c.loads.any wants
          s.setCtx r.core r.ctx { c with wait := .fault, loads := c.loads.map (fun e => if wants e then { e with held := true } else e)
                                         heldOps := c.heldOps ++ [if kept then [ev] else []] }
        else
          let c := { c with loads := c.loads.map (fun e => if wants e then { e with held := true } else e)
                            heldOps := c.heldOps ++ [[ev]] }
          s.setCtx r.core r.ctx (if l.block.isSome then c else { c with wait := if c.wait == .none then .fault else c.wait })

/-! ### Engines (R241) -/

/-- n bytes of a number, each with the poison of its word, from byte o of the first word. -/
def bytesOf (n o x p : Nat) : List (Byte × Bool) := (List.range n).map (fun i => (byteOf x i, p.testBit ((o % 8 + i) / 8)))

/-- A command's read changed by its number. -/
def Cmd.updRead (c : Cmd) (tag : Nat) (f : Fetch → Fetch) : Cmd := { c with reads := c.reads.map (fun r => if r.tag == tag then f r else r) }

/-- R241, R259: a line that an engine asked for has come, or its fault, which holds the command or fails it there. -/
def State.engineFill (s : State) (e num : Nat) (p : FillP) : State :=
  let r := p.req
  let o := r.xl.ia % 64
  if p.fault = 0 then
    let s := if r.xl.host || r.xl.rmt then s else s.raiseSeq (coreDie r.core) (pathBay r.path / 16) p.seq
    s.updCore r.core (fun k => k.updCmd e num (fun c => c.updRead r.load (fun f =>
      { f with due := s.cycle + 1, got := some (bytesOf f.n o (p.data.toNat / 256 ^ o) (p.poison.toNat / 2 ^ (o / 8))) })))
  else if holdsEngine p.fault then
    let va := (((s.core r.core).cmd? e num).bind (fun c => c.reads.find? (·.tag == r.load))).elim 0 (·.va)
    s.engineFault r.core e num r.load p.fault r.xl va (.bayReadRequest r)
  else s.updCore r.core (fun k => k.updCmd e num (fun c => c.updRead r.load (fun f => { f with bad := some (8, p.fault) })))

/-- R243, R259: an engine's write acknowledged; a command that waits for nothing more completes. -/
def State.engineAck (s : State) (core e num tag : Nat) : State :=
  match (s.core core).cmd? e num with
  | none => s
  | some c =>
    let s := (s.landed core c.ctx (2 ^ 64 + tag)).updCore core (fun k => k.updCmd e num (fun c => { c with acks := c.acks.filter (· != tag) }))
    s.at 0 rkSem (core * 8 + e) (.engineCommandComplete core e)

/-- R207, R210: VIEW_FILL_ARRIVAL: the line is kept in the view by the victim rule, with the priority of the last access that waits for
it, unless the access goes to host memory or to the control space or the view was refreshed since, and the loads that wait for it take
it. -/
def execViewFillArrival (p : FillP) (s : State) : Out :=
  let r := p.req
  match r.eng with
  | some (e, num) => .next (s.engineFill e num p)
  | none =>
  if p.fault ≠ 0 then .next (s.faultLine p)
  else
    let k := s.core r.core
    let c := k.ctx r.ctx
    let here := if c.epoch = r.epoch then c.loads.filter (fun l => !(l.wants r).isEmpty) else []
    let block := here.findSome? (·.block)
    let evp := (here.getLast?.map (·.evp)).getD r.evp
    let s := if r.xl.host || isCtl r.xl.ia || !k.mayKeep r.xl r.view then s
      else s.setCore r.core (k.allocView { x := xlAt r.xl (r.xl.ia / 64 * 64), data := p.data, poison := p.poison, evp, used := 0, stamps := .empty,
                                           pin := [], block })
    .next (if c.epoch = r.epoch then s.giveLine r.core r.ctx r p.data p.poison else s)

/-- R259, R262: what the reply of an acquire ATOM, or of a JOIN, does before its result is produced: the view of an acquirer is
refreshed, and the counter of the core's die raised. -/
def State.acquired (s : State) (core ctx id : Nat) : State :=
  let x := s.ctx core ctx
  let s := if x.wait == .acquire id && !x.det then s.refresh core else s
  s.landed core ctx id

/-- R46: RESULT_PRODUCED: a reserved entry takes its value, and any named destination, predicate or mask is written. A result
of a killed task is dropped (R369), and one of a task that yielded finds it where it is kept (R124). -/
def execResultProduced (p : ResultP) (s : State) : Out :=
  if (s.ctx p.core p.ctx).epoch = p.epoch then .next ((s.acquired p.core p.ctx p.id).updCtx p.core p.ctx (·.produce p))
  else if (s.core p.core).yielded.any (fun y => y.2.epoch == p.epoch) then
    .next (s.updCore p.core (fun k => { k with yielded := k.yielded.map (fun y => if y.2.epoch == p.epoch then (y.1, y.2.produce p) else y) }))
  else .next s

/-- A read of a line sent to its home, or its fault at the issuing package. -/
def State.requestLine (s : State) (core order : Nat) (r : ReadReq) : State :=
  match s.routeOf core r.xl with
  | (.ok (path, extra), s) => s.toHome core order r.xl.ia path extra (.bayReadRequest { r with path })
  | (.error f, s) => s.at 1 rkCore core (.viewFillArrival ⟨{ r with path := pathToBay s.ctl core (coreDie core) (coreX core) }, 0, 0, f, 0⟩)

/-! ## Drains (R215, R217, R233) -/

/-- Whether an operation drains first. -/
def OpKind.drains : OpKind → Bool
  | .lacq _ _ => false
  | .atom release _ _ => release
  | _ => true

/-- R57, R288: whether an operation makes its context count as blocked. (DESIGN CHOICE, log entry 25). -/
def OpKind.blocks : OpKind → Bool
  | .drain | .lpub _ _ | .lacq _ _ | .retire | .halt => true
  | .atom _ _ _ | .join _ | .cmpl _ => false

/-- The scope of an operation's wait (R217): 6 for a drain's. -/
def OpKind.scope : OpKind → Nat
  | .lpub s _ | .cmpl s => s
  | .atom _ s _ => s
  | .join _ => 4
  | _ => 6

/-- R217: whether an entry's home lies within a scope, for a core. -/
def State.inScope (s : State) (core scope : Nat) (x : Xl) : Bool :=
  if scope < 2 then false
  else if scope < 4 then !x.rmt && !x.host && (isCtl x.ia || s.bayOf x.ia / 16 == coreDie core)
  else if scope = 4 then !x.rmt && !x.host
  else if scope = 5 then !x.host
  else true

/-- R215, R219: whether an operation's drain is complete for its scope: every entry it covers acknowledged, and the core's
side log empty. (DEDUCED, log entry 63). -/
def State.drained (s : State) (core ctx : Nat) (o : Op) : Bool :=
  let k := s.core core
  let x := k.ctx ctx
  x.det || (k.side.isEmpty
    && x.log.all (fun e => e.epoch != x.epoch || o.upto ≤ e.pos || !s.inScope core o.kind.scope e.w.xl))

/-- R355: whether a write that leaves the package parks behind an earlier one of its core to the same place, which had no route. -/
def State.behindHere (s : State) (core : Nat) (x : Xl) : Bool := (x.host || x.rmt) && s.parksBehind core (xlPlace x)

/-- A drained entry sent to its home, or parked where no route leads there (R353) or behind one that is. -/
def State.sendEntry (s : State) (core ctx : Nat) (p : LogPkt) : State :=
  let parked (s : State) (f : Nat) : State :=
    let path := pathToBay s.ctl core (coreDie core) (coreX core)
    s.park core p.ctx p.epoch ctx p.w.xl p.va p.taskid f 1 path (.logEntryArrival p) (.logEntryArrival { p with path, replay := true })
  if s.behindHere core p.w.xl then parked s 0
  else match s.routeOf core p.w.xl with
  | (.ok (path, extra), s) => s.toHome core ctx p.w.xl.ia path extra (.logEntryArrival { p with path })
  | (.error f, s) => parked s f

/-- R215: a drain begins: it takes the next value of the die's counter, and every entry of the segment that no drain has taken
is sent with its key. -/
def State.beginDrain (s : State) (core ctx : Nat) : State :=
  let d := coreDie core
  let n := s.seqOf d + 1
  let x := s.ctx core ctx
  if x.det then s
  else
    let mine (e : LogEnt) : Bool := !e.sent && e.epoch == x.epoch
    let key (e : LogEnt) : LogEnt := if mine e then { e with sent := true, key := ⟨n, s.pkgId, d, core, e.pos⟩ } else e
    let todo := (x.log.filter mine).map (fun e => { e with key := ⟨n, s.pkgId, d, core, e.pos⟩ })
    let s := { s with seq := tset s.seq 0 d n }.setCtx core ctx { x with log := x.log.map key }
    todo.foldl (fun s e => s.sendEntry core ctx (logPkt x core ctx e [])) s

/-- R217: what an LPUB publishes: the lines of the segment, entered in the context's history of 65,536. -/
def Ctx.publish (x : Ctx) (now : Nat) : Ctx :=
  let lines := (x.log.filter (fun e => e.epoch == x.epoch)).map (·.w.xl)
  let h := lines.zipIdx.foldl (fun t e => tset t none (x.pubPos + e.2) (some e.1)) x.hist
  let p := x.pubPos + lines.length
  { x with pubPos := p, hist := tfilter h (fun i _ => p ≤ i + 65536), pubAt := tset x.pubAt 0 p (now + 1) }

/-- An operation of a context removed; its next bundle issues no earlier than the cycle after (R233). -/
def State.dropOp (s : State) (core ctx num : Nat) : State :=
  s.updCtx core ctx (fun x =>
    let b := x.ops.any (fun o => o.num == num && o.kind.blocks)
    { x with ops := x.ops.filter (fun o => o.num != num), readyAt := if b then max x.readyAt (s.cycle + 1) else x.readyAt })

/-- An operation of a context marked as sent. -/
def State.markSent (s : State) (core ctx num : Nat) : State :=
  s.updCtx core ctx (fun x => { x with ops := x.ops.map (fun o => if o.num == num then { o with sent := true } else o) })

/-- R124, R289: a HALT completes: the context goes idle and pops no record. (DEDUCED, log entry 73). -/
def State.haltNow (s : State) (core ctx : Nat) : State :=
  let x := s.ctx core ctx
  let s := s.closeInterval core ctx none none
  let s := (s.updCtx core ctx (fun x => { x.toIdle with halted := true })).leaveBarriers core ctx false
  (s.at 0 rkDecide (core * 4 + ctx) (.recordPop core ctx)).at 0 rkJob x.record.job .jobComplete

/-- R124, R328: a RETIRE completes. -/
def State.retireNow (s : State) (core ctx : Nat) (joined : Bool) : State :=
  (if joined then s else s.closeInterval core ctx none none).endTask core ctx false

/-- A join sent to its block's home. -/
def State.postJoin (s : State) (core ctx : Nat) (j : JoinReq) : State :=
  match s.routeOf core j.xl with
  | (.ok (path, extra), s) =>
    s.toHome core ctx j.xl.ia path extra (.joinCounterDecrement { j with path, seq := s.seqOf (coreDie core) })
  | (.error f, s) => s.holdRequest core ctx j.epoch j.xl j.va j.taskid f 6 j.pc (.joinCounterDecrement j)

/-- R328: a join ends its task's interval and goes to its block's home. -/
def State.sendJoin (s : State) (core ctx : Nat) (j : JoinReq) : State :=
  (s.closeInterval core ctx none (some (j.xl.ia / 64 * 64))).postJoin core ctx j

/-- An atomic or reduction sent to its home, with its die's counter: an access that an edge of R257 reaches takes a higher key than what
it is ordered after (R259). (DEDUCED, log entry 18). -/
def State.sendAtom (s : State) (core ctx : Nat) (r : AtomReq) : State :=
  let s := s.updCtx core ctx (fun x => { x with atoms := x.atoms + 1 })
  let r := { r with seq := s.seqOf (coreDie core) }
  let parked (s : State) (f : Nat) : State :=
    let path := pathToBay s.ctl core (coreDie core) (coreX core)
    (s.park core ctx r.epoch ctx r.xl r.va r.taskid f 1 path (.bayAtomic r) (.bayAtomic { r with path, replay := true })).atomDone r
  if r.id.isNone && s.behindHere core r.xl then parked s 0
  else match s.routeOf core r.xl with
  | (.ok (path, extra), s) => s.toHome core ctx r.xl.ia path extra (.bayAtomic { r with path })
  | (.error f, s) => match r.id with
    | some _ => s.holdRequest core ctx r.epoch r.xl r.va r.taskid f (if r.wide then 3 else 2) 0
        (.bayAtomic { r with path := pathToBay s.ctl core (coreDie core) (coreX core) })
    | none => parked s f

/-- R218: the read of an LACQ's next word sent to its home, or the LACQ's end. -/
def State.lacqNext (s : State) (core ctx : Nat) : State :=
  let x := s.ctx core ctx
  match x.ops.find? (fun o => match o.kind with | .lacq _ _ => true | _ => false) with
  | none => s
  | some o => match o.kind with
    | .lacq [] _ => s.dropOp core ctx o.num
    | .lacq (w :: rest) _ =>
      let ev : Instr := .lacqWordRead core ctx x.epoch (rest.length + 1)
      match s.routeOf core w with
      | (.ok (path, extra), s) => s.toHome core ctx w.ia path extra ev
      | (.error f, s) => s.holdRequest core ctx x.epoch w 0 x.sr.taskId.toNat f 3 0 ev
    | _ => s

/-- RETIRE's join block (R124, R417). -/
def State.retireJoin (s : State) (core ctx : Nat) : Option JoinReq :=
  let x := s.ctx core ctx
  let a := x.sr.joinAddr.toNat / 64 * 64
  if x.sr.joinAddr = 0 then none
  else match rangeXl x.sr.rng a 64 needRW with
    | .error _ => none
    | .ok xl => some { core, ctx, epoch := x.epoch, id := none, dst := none, xl, va := a, pc := x.pc, taskid := x.sr.taskId.toNat,
                       jobid := x.record.job, seq := 0, path := [], port := false }

/-- An operation whose drain is complete does its own part. -/
def State.finishOp (s : State) (core ctx : Nat) (o : Op) (first : Bool) : State :=
  match o.kind with
  | .drain => s.dropOp core ctx o.num
  | .halt => if first then s.haltNow core ctx else s
  | .retire =>
    if !first then s
    else match s.retireJoin core ctx with
      | none => s.retireNow core ctx false
      | some j => (s.markSent core ctx o.num).sendJoin core ctx j
  | .join j => (s.dropOp core ctx o.num).sendJoin core ctx j
  | .atom _ _ r => (s.dropOp core ctx o.num).sendAtom core ctx r
  | .lpub _ w =>
    let s := s.markSent core ctx o.num
    let x := s.ctx core ctx
    (match s.routeOf core w with
      | (.ok (path, extra), s) => s.toHome core ctx w.ia path extra (.publicationWrite core ctx x.epoch)
      | (.error f, s) => s.holdRequest core ctx x.epoch w 0 x.sr.taskId.toNat f 3 0 (.publicationWrite core ctx x.epoch))
  | .cmpl _ => (s.markSent core ctx o.num).at 0 rkEngine (core * 8 + 3) .cmplWrite
  | .lacq _ _ => (s.markSent core ctx o.num).lacqNext core ctx

/-- Whether an operation concerns the line of an atomic. -/
def sameLine (x : Xl) (o : Op) : Bool :=
  match o.kind with
  | .atom _ _ r => r.xl.ia / 64 == x.ia / 64
  | _ => false

/-- One operation taken as far as it goes: its drain begins when the context's own atomics have been performed and every
earlier drain has begun, and its own part follows the drain. -/
def State.pumpOp (s : State) (core ctx num : Nat) : State :=
  let x := s.ctx core ctx
  match x.ops.find? (fun o => o.num == num) with
  | none => s
  | some o =>
    let earlier := x.ops.takeWhile (fun e => e.num != num)
    if o.sent then s
    else
      let may := o.begun || !o.kind.drains || x.det || (x.atoms == 0 && earlier.all (fun e => e.begun || !e.kind.drains))
      if !may then s
      else
        let s := if o.begun || !o.kind.drains then s
          else
            let s := match o.kind with
              | .lpub _ _ => s.setCtx core ctx (x.publish s.cycle)
              | _ => s
            let s := s.updCtx core ctx (fun c => { c with ops := c.ops.map (fun e =>
              if e.num == num then { e with begun := true, upto := c.sr.logTail.toNat } else e) })
            s.beginDrain core ctx
        let x := s.ctx core ctx
        match x.ops.find? (fun e => e.num == num) with
        | none => s
        | some o =>
          let ready := match o.kind with
            | .lacq _ _ => true
            | .atom false _ r => earlier.all (fun e => !sameLine r.xl e)
            | _ => s.drained core ctx o
          if ready then s.finishOp core ctx o earlier.isEmpty else s

/-- Every operation of a context taken as far as it goes. -/
def State.pump (s : State) (core ctx : Nat) : State :=
  ((s.ctx core ctx).ops.map (·.num)).foldl (fun s n => s.pumpOp core ctx n) s

/-- The same for every context of a core: its side log has changed. -/
def State.pumpCore (s : State) (core : Nat) : State := (List.range 4).foldl (fun s c => s.pump core c) s

/-- An operation that a slot starts; it is taken as far as it goes. (DESIGN CHOICE, log entry 25; DEDUCED, log entry 63). -/
def State.startOp (s : State) (kind : OpKind) : State :=
  let i := s.issue
  let n := s.next
  let s := n.2.updCtx i.core i.ctx (fun x => { x with ops := x.ops ++ [⟨n.1, kind, false, 0, false⟩] })
  s.pump i.core i.ctx

/-- Where a task stands, by its number: on the context it is known by, or, moved by a pre-emption (R292), on another. -/
def State.whereIs (s : State) (core ctx epoch : Nat) : Nat × Nat :=
  if (s.ctx core ctx).epoch = epoch then (core, ctx)
  else ((s.cores.entries.findSome? (fun e =>
    ((List.range 4).find? (fun c => (e.2.ctx c).epoch == epoch && (e.2.ctx c).status == .running)).map (fun c => (e.1, c))))).getD (core, ctx)

/-- A core with the contexts of a task's number changed, those of tasks that yielded among them. -/
def Core.updTask (k : Core) (epoch : Nat) (f : Ctx → Ctx) : Core :=
  { k with ctxs := ⟨k.ctxs.entries.map (fun e => (e.1, if e.2.epoch == epoch then f e.2 else e.2))⟩
           yielded := k.yielded.map (fun y => (y.1, if y.2.epoch == epoch then f y.2 else y.2)) }

/-- A task's context changed where it stands: on its core, or in the image of its pre-empted group (R290). The context it is known by
changes too: entries of tasks that have ended may stand there. -/
def State.updTask (s : State) (core ctx epoch : Nat) (f : Ctx → Ctx) : State :=
  let here := s.whereIs core ctx epoch
  let s := s.updCtx core ctx f
  let s := if here = (core, ctx) then s else s.updCtx here.1 here.2 f
  { s with groups := ⟨s.groups.entries.map (fun e => (e.1, e.2.map (fun g =>
      { g with saved := ⟨g.saved.entries.map (fun k => (k.1, k.2.updTask epoch f))⟩ })))⟩ }

/-- R215, R243: LOG_ACK: an acknowledged entry leaves the segment; drains and what follows them go on. Acknowledgements of a
publication word and of a RETIRE's join end those; one for an engine names it by 4 and more, its command and its write. -/
def execLogAck (core ctx epoch pos : Nat) (s : State) : Out :=
  let x := s.ctx core ctx
  if 4 ≤ ctx then .next (s.engineAck core (ctx - 4) epoch pos)
  else if pos = ackWord then
    if x.epoch = epoch then
      match x.ops.find? (fun o => match o.kind with | .lpub _ _ => o.sent | _ => false) with
      | some o => .next ((s.dropOp core ctx o.num).pump core ctx)
      | none => .next s
    else .next s
  else if pos = ackJoin then (if x.epoch = epoch then .next ((s.landed core ctx ackJoin).retireNow core ctx true) else .next s)
  else if pos = ackAcquire then (if x.epoch = epoch then .next ((s.landed core ctx ackAcquire).lacqNext core ctx) else .next s)
  else
    let here := s.whereIs core ctx epoch
    let s := s.updTask core ctx epoch (fun x => { x with log := x.log.filter (fun e => e.epoch != epoch || e.pos != pos) })
    .next ((s.pumpCore core).pumpCore here.1)

/-! ## Acquisition (R218, R261) -/

/-- R218: the writer whose history a context's LACQ replays, as the name of the pins. -/
def Ctx.pinFor (x : Ctx) (ctx : Nat) : Nat × Nat :=
  match x.acq.getLast? with | some e => pinName e.pkg e.core e.ctx ctx | none => (0, ctx)

/-- R218, R259: REPLAY_REFILL: a line of a writer's history has come from its home, whose counter raises that of the reader's die, and
is pinned in the view; beyond 2,048 pinned lines, where home faulted, and where the core's view dropped the line while it was on its
way, it is dropped. The last one lets the LACQ go on. (DESIGN CHOICE, log entry 24). -/
def execReplayRefill (core ctx epoch : Nat) (p : FillP) (s : State) : Out :=
  let r := p.req
  let x := xlAt r.xl (r.xl.ia / 64 * 64)
  let s := if p.fault = 0 then s.raiseSeq (coreDie core) (pathBay r.path / 16) p.seq else s
  let k := s.core core
  let full := 2048 ≤ k.pinCount && !(match k.viewFind x with | some e => !e.2.pin.isEmpty | none => false)
  let s := if p.fault ≠ 0 || !k.mayKeep x r.view || full then s.dropLine core x
    else s.setCore core ((k.passLine x).allocView { x, data := p.data, poison := p.poison, evp := r.evp, used := 0, stamps := .empty,
                                                    pin := [(s.ctx core ctx).pinFor ctx], block := none })
  let c := s.ctx core ctx
  if c.epoch != epoch then s.out
  else
    let left := (c.ops.findSome? (fun o => match o.kind with | .lacq _ n => some n | _ => none)).getD 0
    let s := s.setCtx core ctx (c.setRefills (left - 1) false)
    (if left = 1 then s.lacqNext core ctx else s).out

/-! ## Held accesses and parked entries made again (R355, R357) -/

/-- A held request sent again from its core. -/
def State.resend (s : State) (core ctx : Nat) (ev : Instr) : State :=
  match ev with
  | .bayReadRequest r => s.requestLine core ctx { r with core, ctx, view := (s.core core).viewGen }
  | .bayAtomic r => (s.updCtx core ctx (fun x => { x with atoms := x.atoms - 1 })).sendAtom core ctx { r with core, ctx }
  | .joinCounterDecrement j => s.postJoin core ctx { j with core, ctx }
  | .lacqWordRead _ _ _ _ => s.lacqNext core ctx
  | .publicationWrite _ _ e =>
    match (s.ctx core ctx).lpubOp with
    | none => s
    | some w => match s.routeOf core w with
      | (.ok (path, extra), s) => s.toHome core ctx w.ia path extra (.publicationWrite core ctx e)
      | (.error f, s) => s.holdRequest core ctx e w 0 0 f 3 0 (.publicationWrite core ctx e)
  | _ => s

/-- R241, R357: a held request of an engine sent again. -/
def State.resendEngine (s : State) (core e : Nat) (ev : Instr) : State :=
  match ev with
  | .bayReadRequest r => s.requestLine core (unitEng e) { r with core }
  | .logEntryArrival p => match s.routeOf core p.w.xl with
    | (.ok (path, extra), s) => s.toHome core (unitEng e) p.w.xl.ia path extra (.logEntryArrival { p with core, path })
    | (.error f, s) => match p.eng with
      | some (e, num) => s.engineFault core e num p.pos f p.w.xl p.va ev
      | none => s
  | _ => s

/-- R354, R357: HELD_ACCESS_REMAKE: the requests of an acknowledged record are made again, and the context goes on when none
is held; an engine or the walker goes on with its command, and the Curator with the completion words it holds. (DEDUCED, log entry 67). -/
def execHeldAccessRemake (who : Agent) (s : State) : Out :=
  match who with
  | .ctx core ctx epoch =>
    let x := s.ctx core ctx
    if x.epoch != epoch then .next s
    else match x.heldOps with
    | [] => .next s
    | evs :: rest =>
      let x := { x with heldOps := rest, wait := if rest.isEmpty && x.wait == .fault then .none else x.wait
                        loads := x.loads.map (fun l => { l with held := if rest.isEmpty then false else l.held }) }
      .next (evs.foldl (fun s ev => s.resend core ctx ev) (s.setCtx core ctx x))
  | .engine core eng =>
    if eng < 4 then
      let k := s.core core
      let e := tget k.engines .idle eng
      let evs := (e.queue ++ e.ending).flatMap (·.heldReqs)
      let go (c : Cmd) : Cmd := { c with held := false, heldReqs := [] }
      let s := s.setCore core { k with engines := tset k.engines .idle eng { e with queue := e.queue.map go, ending := e.ending.map go } }
      let s := evs.foldl (fun s ev => s.resendEngine core eng ev) s
      .next (if e.queue.head?.any (·.held) then s.at 0 rkEngine (core * 8 + eng) (.engineCommandStart core eng) else s)
    else
      let k := s.core core
      .next ((s.setCore core { k with walker := { k.walker with held := false } }).at 0 rkEngine
        (core * 8 + 4) (if k.walker.running then .itinCommandNode else .nop))
  | .curator => .next (s.jobs.entries.foldl (fun s e => match e.2 with
      | some j => if j.done then { s with jobs := tset s.jobs none e.1 (some { j with done := false }) }.at 0 rkJob e.1 .jobComplete else s
      | none => s) s)
  | _ => .next s

/-- R355: SIDE_LOG_REPLAY: the parked entries of a segment are tried again in parking order with their keys. -/
def execSideLogReplay (core segment : Nat) (s : State) : Out :=
  let mine := (s.core core).side.filter (fun e => !e.trying && s.segment e.ia == s.segment segment)
  .next (mine.foldl (fun s e =>
    let put (s : State) (path : Path) (extra : Nat) (ev : Instr) : State :=
      (s.updCore core (fun k => { k with side := k.side.map (fun f => if f == e then { f with ev := ev, trying := true } else f) })).send 0 unitBay path 4
        (35 + extra) rkHome (whoOf core unitBay) ev
    match e.ev with
    | .logEntryArrival p =>
      (match s.routeOf core p.w.xl with
        | (.ok (path, extra), s) => put s path extra (.logEntryArrival { p with path })
        | (.error f, s) => s.reparkRecord core e.ctx p.w.xl p.va p.taskid f (if p.host then 4 else 1) e.ev)
    | .bayAtomic r =>
      (match s.routeOf core r.xl with
        | (.ok (path, extra), s) => put s path extra (.bayAtomic { r with path })
        | (.error f, s) => s.reparkRecord core e.ctx r.xl r.va r.taskid f 1 e.ev)
    | .merge set =>
      (s.updCore core (fun k => { k with side := k.side.filter (fun f => f != e) })).at 0 rkHome core (.merge set)
    | _ => s) s)

/-! ## The host (R223, R321) -/

/-- R223: the request that the host's accesses carry: SUPASID and its generation. -/
def State.supXl (s : State) (ia : Nat) : Xl :=
  let a := s.ctl.segroot.toNat / 2 ^ 52
  { ia, pkg := s.pkgId, rmt := false, host := false, desc := false, asid := a, gen := (tget s.ctl.asids 0 a).toNat % 16 }

/-- R21, R223, R269, R274, R321: HOST_WRITE_ARRIVAL, which comes by a host port that is up: a write to LAUNCH goes to the Curator, which refuses it
before bring-up has ended and while its intake is full; any other, and one to LAUNCH that SUPASID's entry does not let pass, enters the ingress
buffer, or is refused while that holds 4,096. (DEDUCED, log entry 79). -/
def execHostWriteArrival (w : HostWrite) (s : State) : Out :=
  let x := s.supXl w.ia
  let launch := isCtl w.ia && (w.ia - ctlBase) / 64 == 0
  if launch && s.holdStep != 0 then .next { s with hostRetries := s.hostRetries + 1 }
  else if !s.hostUp then .next s
  else if launch && (s.ctlFault x false).isNone then
    if w.mask != BitVec.allOnes 64 then
      .next (s.discardRecord { off := 0, data := w.data, mask := w.mask, core := 0, ctx := 0, host := true, priv := 1, ia := w.ia,
                               asidGen := x.asid + 4096 * x.gen, taskid := 0 })
    else if 64 ≤ s.intake.length then .next { s with hostRetries := s.hostRetries + 1 }
    else .next (s.at 0 rkDecide 512 (.launchWrite w.data true))
  else if 4096 ≤ s.ingress.length then .next { s with hostRetries := s.hostRetries + 1 }
  else .next { s with ingress := s.ingress ++ [w] }

/-- R71, R213, R223: one host write applied by a core, at its home, at once, and an operation of its bank; the core's view line is dropped. A
write whose target faults is parked in the core's side log. (DESIGN CHOICE, log entry 37; DEDUCED, log entry 79). -/
def State.applyHostWrite (s : State) (core : Nat) (w : HostWrite) : State :=
  let x := s.supXl (w.ia / 64 * 64)
  let r := s.routeOf core x
  let s := r.2.dropLine core x
  let path := match r.1 with | .ok (p, _) => p | .error _ => pathToBay s.ctl core (coreDie core) (coreX core)
  let p : LogPkt := { core, ctx := 4, epoch := 0, pos := 0, w := ⟨x, w.data, w.mask, 0⟩, key := s.homeKey (pathBay path), va := 0,
                      taskid := 0, path, replay := false, host := true, priv := 1 }
  match r.1 with
  | .error f => s.park core 4 0 4 x 0 0 f 4 path (.logEntryArrival p) (.logEntryArrival { p with replay := true })
  | .ok _ => ((s.useBank (pathBay path) x).serveLog p).raiseSeq (coreDie core) (pathBay path / 16) (s.seqOf (pathBay path / 16))

/-- R71, R223: an HW bundle applies the oldest pending host writes, up to 16, in arrival order. (DEDUCED, log entry 18). -/
def State.applyHost (s : State) (core : Nat) : State :=
  let now := s.ingress.take 16
  now.foldl (fun s w => s.applyHostWrite core w) { s with ingress := s.ingress.drop 16 }

/-- R21, R321, R372: HOST_READ, which comes by a host port that is up: a device word read by the host at its home or at the control unit: status
0 with the data, 1 with poisoned data, 2 on a fault, with a record. (DEDUCED, log entry 79). -/
def execHostRead (ia size tag : Nat) (s : State) : Out :=
  let x := s.supXl ia
  if !s.hostUp then .next s
  else match s.homeRead (s.bayOf ia) x needR false 1 with
  | (.error f, s) =>
    let r := s.memRecord 0 0 4 0 f x 0 0 0 0 none
    ({ s with hostReads := s.hostReads ++ [(tag, 2, 0)] }.record r (512 * 64)).out
  | (.ok (v, _), s) =>
    let po := (List.range 8).any (fun k => v.2.getLsbD k && decide (8 * k < ia % 64 + size) && decide (ia % 64 < 8 * k + 8))
    ({ s with hostReads := s.hostReads ++ [(tag, if po then 1 else 0, v.1)] }).out

end Sys2Proof.Machine
end

