-- ==== Sys2Proof/Machine/Scratch.lean ====
section
/-! DEFINITION. The scratchpad (R200, R205, R206, R159, R160, R164): banks, owner bits, what an access waits for, reading and
writing, and the forwarding of writes to subscribers (R220 to R222, R390, R391). -/

namespace Sys2Proof.Machine

open Sys2Proof

/-! ## Banks (R159, R160) -/

/-- R200: the tile of a window address. -/
def tileOf (a : Nat) : Nat := a / 2048

/-- The tiles that n bytes from a window address touch. -/
def tilesOf (a n : Nat) : List Nat := (List.range (tileOf (a + n - 1) + 1 - tileOf a)).map (fun i => tileOf a + i)

/-- R160: whether the banks of some tiles are free in a cycle. -/
def Core.banksFree (k : Core) (c : Nat) (tiles : List Nat) : Bool :=
  !k.banks.any (fun g => g.1 == c && tiles.any (fun t => t % 32 == g.2 % 32))

/-- R160: the first cycle from c on in which the banks of some tiles are free; each refusal moves the access one cycle. -/
def Core.bankCycle (k : Core) (tiles : List Nat) : Nat → Nat → Nat
  | 0, c => c
  | n + 1, c => if k.banksFree c tiles then c else k.bankCycle tiles n (c + 1)

/-- The same, over as many cycles as grants stand. -/
def Core.firstFree (k : Core) (c : Nat) (tiles : List Nat) : Nat := k.bankCycle tiles (k.banks.length + 1) c

/-- R160: the banks of some tiles granted in a cycle; grants of past cycles are forgotten. -/
def Core.grant (k : Core) (now c : Nat) (tiles : List Nat) : Core :=
  { k with banks := k.banks.filter (fun g => now ≤ g.1) ++ tiles.map (fun t => (c, t)) }

/-! ## What an access meets (R164, R205, R247) -/

/-- R205: whether a tile is engine-owned. -/
def Core.engOwned (k : Core) (t : Nat) : Bool := tget k.owner false t

/-- R247: whether a flip of a tile is pending. -/
def Core.flipPending (k : Core) (t : Nat) : Bool := k.flips.any (fun f => f.first ≤ t && t < f.first + f.count)

/-- R166: whether the store that waits for a tile instruction lies in a tile. -/
def TileOp.stores (o : TileOp) (t : Nat) : Bool := match o.store with | some w => (tilesOf w.addr w.size).contains t | none => false

/-- R164: whether a tile instruction issued earlier, or the store that waits for it, has still to write a tile. -/
def Core.tileWriting (k : Core) (now t : Nat) : Bool := k.tileOps.any (fun o => (now < o.done && o.writes.contains t) || o.stores t)

/-- R158: the rows of a tile operand: where row r begins. -/
def rowAddr (d1 d2 : Word) (r : Nat) : Nat :=
  let p := 32 * 2 ^ (d1.toNat / 512 % 8)
  let g := 2048 / p
  2048 * (d1.toNat % 512 + r / g * (d2.toNat % 512)) + r % g * p

/-- R164: whether a tile instruction issued earlier has still to read a tile. -/
def Core.tileReading (k : Core) (t : Nat) : Bool :=
  k.tileOps.any (fun o => o.reads.contains t && o.sched.any (fun a => a.2.any (fun r => tileOf (rowAddr o.d1 o.d2 r) == t)))

/-- R159, R160: one request for each of some tiles from cycle c on, each served in the first cycle in which its bank is free: the last
cycle, and the core with the grants. (DEDUCED, log entry 46). -/
def Core.serve (k : Core) (now c : Nat) (tiles : List Nat) : Nat × Core :=
  tiles.foldl (fun acc t => let x := acc.2.firstFree c [t]; (max acc.1 x, acc.2.grant now x [t])) (c, k)

/-- What an M-class access to the window meets before it may be made. -/
inductive Meets where
  | ok
  /-- it stalls -/
  | wait
  /-- it traps TILEOWN, at an address -/
  | own (a : Nat)
  deriving DecidableEq, Repr

/-- R164, R205, R247: what an access of n bytes at a window address meets. -/
def Core.meets (k : Core) (now a n : Nat) (store : Bool) : Meets :=
  let ts := tilesOf a n
  if ts.any k.flipPending then .wait
  else match ts.find? k.engOwned with
    | some t => .own (max a (2048 * t))
    | none => if ts.any (fun t => k.tileWriting now t || (store && k.tileReading t)) then .wait else .ok

/-- R205: TILEOWN, with the window address. -/
def tTileOwn (a : Nat) : TrapInfo := ⟨4, 0, BitVec.ofNat 64 a⟩

/-- R203: RANGE, with a subcode and the address. -/
def tRange (sub a : Nat) : TrapInfo := ⟨7, sub, BitVec.ofNat 64 a⟩

/-! ## Groups of cores -/

/-- The number that stands for no group: the cores of firmware. -/
def noGroup : Nat := 2 ^ 32

/-- The number of a core's group, and the core's index in it (R175). -/
def State.gidOf (s : State) (core : Nat) : Nat := (s.core core).group.getD noGroup

/-- The number of cores in a core's group: 1 where it has none. -/
def State.groupSize (s : State) (core : Nat) : Nat :=
  match (s.core core).group.bind s.group with | some g => g.desc.w * g.desc.h | none => 1

/-- R175: the core at an index of a core's group. -/
def State.relCore (s : State) (core i : Nat) : Nat :=
  match (s.core core).group.bind s.group with | some g => g.coreAt i | none => core

/-- R175: a core's index in its group. -/
def State.relIndex (s : State) (core : Nat) : Nat :=
  match (s.core core).group.bind s.group with
  | some g => (coreY core - g.y) * g.desc.w + (coreX core - g.x)
  | none => 0

/-- R290: whether the group of a core has been stopped to be saved: its walker visits no node, its engines begin no run, and no native call
begins. -/
def State.stoppedCore (s : State) (core : Nat) : Bool :=
  match (s.core core).group.bind s.group with
  | some g => g.phase == .stopping || g.phase == .saving
  | none => false

/-! ## Forwarding (R221) -/

/-- R221: an open window closed: its update is sent, and counted at its subscriber. -/
def State.closeWindow (s : State) (core entry : Nat) (bar : Option Nat) : State :=
  let k := s.core core
  match k.fwds.find? (fun e => e.entry == entry && e.open_) with
  | none => s
  | some e =>
    let target := s.relCore core e.sub
    let u : SubUpd := { sub := e.sub, pub := s.relIndex core, gid := s.gidOf core, addr := e.base + (e.line - e.pbase), data := e.data,
                        mask := e.mask, poison := e.poison, bar }
    let s := s.setCore core { k with fwds := k.fwds.map (fun f => if f.entry == entry then { f with open_ := false, mask := 0, poison := 0 } else f) }
    let s := s.updCore target (fun k => { k with subs := k.subs.map (fun x => if x.base == e.base then { x with flying := x.flying + 1 } else x) })
    s.send 1 0 (pathToCore s.ctl core target) 4 0 rkUpdate core (.subscriptionUpdateApply u)

/-- R221: the bytes of one line written in a forwarding entry's region: they join the open window of the line, or open one. -/
def State.forwardLine (s : State) (core entry line : Nat) (d : Line) (mask : BitVec 64) (p : BitVec 8) : State :=
  let put (s : State) (fresh : Bool) : State :=
    s.updCore core (fun k => { k with fwds := k.fwds.map (fun f =>
      if f.entry != entry then f
      else if fresh then { f with open_ := true, line, data := overlayLine 0 d mask, mask, poison := overlayPoison 0 p mask, stamp := f.stamp + 1 }
      else { f with data := overlayLine f.data d mask, mask := f.mask ||| mask, poison := overlayPoison f.poison p mask }) })
  match (s.core core).fwds.find? (fun e => e.entry == entry) with
  | none => s
  | some e =>
    if e.open_ && e.line == line then put s false
    else (put (s.closeWindow core entry none) true).at 32 rkUpdate core (.subsWindowTimeout core entry (e.stamp + 1))

/-- R221: a line of a core's window written: forwarded through every entry whose publisher region holds it. -/
def State.forward (s : State) (core line : Nat) (d : Line) (mask : BitVec 64) (p : BitVec 8) : State :=
  let hit := (s.core core).fwds.filter (fun e => e.pbase ≤ line && line < e.pbase + 64 * e.lines)
  hit.foldl (fun s e => s.forwardLine core e.entry line d mask p) s

/-- R221, R222: every open window of a core closed by an arrival at a barrier; how many there were. -/
def State.closeWindows (s : State) (core bix : Nat) : Nat × State :=
  let l := ((s.core core).fwds.filter (·.open_)).map (·.entry)
  (l.length, l.foldl (fun s e => s.closeWindow core e (some bix)) s)

/-- R221: SUBS_WINDOW_TIMEOUT: a window that is still the one opened closes. -/
def execSubsWindowTimeout (core entry stamp : Nat) (s : State) : Out :=
  if (s.core core).fwds.any (fun e => e.entry == entry && e.open_ && e.stamp == stamp) then .next (s.closeWindow core entry none)
  else .next s

/-! ## Reading and writing -/

/-- Bytes of a core's scratchpad, and the poison bits of their words. (DEDUCED, log entry 75). -/
def Core.spRead (k : Core) (a n : Nat) : Nat × Nat := (bytesAt k.sp a n, poisonAt k.spPoison a ((a % 8 + n + 7) / 8))

/-- Bytes written to a core's scratchpad, with the poison of the words they touch, given by number from the first. -/
def Core.spPut (k : Core) (a n x p : Nat) : Core :=
  { k with sp := putBytes k.sp a n x, spPoison := putPoisonRun k.spPoison a n (fun w => p.testBit (w - a / 8)) }

/-- The bytes of a line written in a core's scratchpad under a mask. -/
def Core.spPutLine (k : Core) (a : Nat) (d : Line) (mask : BitVec 64) (p : BitVec 8) : Core :=
  { k with sp := putLine k.sp a d mask, spPoison := putPoison k.spPoison a mask p }

/-- A write of n bytes to the window forwarded, line by line. -/
def State.forwardRun (s : State) (core a n x p : Nat) : State :=
  if (s.core core).fwds.isEmpty then s
  else (List.range ((a + n - 1) / 64 + 1 - a / 64)).foldl (fun s i =>
    let line := (a / 64 + i) * 64
    let lo := max a line
    let hi := min (a + n) (line + 64)
    let d : Line := BitVec.ofNat 512 (x / 256 ^ (lo - a) % 256 ^ (hi - lo) * 256 ^ (lo - line))
    let po : BitVec 8 := BitVec.ofNat 8 ((List.range 8).foldr (fun k acc =>
      (if p.testBit (line / 8 + k - a / 8) && decide (a / 8 ≤ line / 8 + k) then 1 else 0) + 2 * acc) 0)
    s.forward core line d (byteMask (lo - line) (hi - lo)) po) s

/-- R221, R229: a write of n bytes to a core's window, forwarded to its subscribers. -/
def State.spStore (s : State) (core a n x p : Nat) : State :=
  (s.updCore core (fun k => k.spPut a n x p)).forwardRun core a n x p

/-- R160, R229: a store to a core's window performed, by requests from a cycle on. -/
def State.spWrite (s : State) (core c : Nat) (w : SpWrite) : State :=
  (s.updCore core (fun k => (k.serve s.cycle c (tilesOf w.addr w.size)).2)).spStore core w.addr w.size w.data w.poison

/-! ## Subscription (R237, R238, R390) -/

/-- R220, R390: the lowest free number in a core's subscription table of 16 entries. -/
def Core.freeSub (k : Core) : Option Nat :=
  (List.range 16).find? (fun i => !k.subs.any (·.entry == i) && !k.fwds.any (·.entry == i))

/-- R237: SUBS. A subscribing entry is made at once, or its failure is answered when the publisher's answer would come. (DEDUCED, log entry 16). -/
def execSubs (f : MF) (s : State) : Out :=
  let a := s.readS f.base .i64
  let b := s.readS f.index .i64
  let base := a.1.toNat
  let pbase := b.1.toNat
  let d := s.readS f.data .i64
  let pub := d.1.toNat % 128
  let lines := d.1.toNat / 2 ^ 16 % 1024 + 1
  let i := s.issue
  if a.2 || b.2 || d.2 then .next (s.slotKill 1)
  else if base % 64 ≠ 0 || pbase % 64 ≠ 0 || 0x100000 < base + 64 * lines || 0x100000 < pbase + 64 * lines
      || s.groupSize i.core ≤ pub || d.1.toNat / 2 ^ 26 ≠ 0 || d.1.toNat / 2 ^ 7 % 2 ^ 9 ≠ 0 then
    .next (s.slotTrap (tOpnd i.slot))
  else
    let r := s.reserveFor false (s.dst f.dst)
    let s := r.2
    let target := s.relCore i.core pub
    let path := pathToCore s.ctl i.core target
    let k := s.core i.core
    let answer (v : Int) : State :=
      s.produceAt (8 + 4 * pathHops path + if anyPort [f.base, f.index, f.data] then 3 else 0) i.core i.ctx (s.ctx i.core i.ctx).epoch r.1
        (.scalar (BitVec.ofInt 64 v) false) (s.dst f.dst)
    if k.subs.any (fun e => e.base < base + 64 * lines && base < e.base + 64 * e.lines) then .next (answer (-3))
    else match k.freeSub with
      | none => .next (answer (-1))
      | some n =>
        let q : SubsReq := { sub := i.core, ctx := i.ctx, epoch := (s.ctx i.core i.ctx).epoch, id := r.1, dst := s.dst f.dst, pub := target,
                             entry := n, base, pbase, len := lines, path }
        let s := s.setCore i.core { k with subs := k.subs ++ [⟨n, base, lines, pub, pbase, 0, none, false, s.cycle + if anyPort [f.base, f.index, f.data] then 3 else 0⟩] }
        .next (s.send (if anyPort [f.base, f.index, f.data] then 3 else 0) i.ctx path 1 2 rkUpdate i.core (.subsRequestArrival q))

/-- R237, R390: SUBS_REQUEST_ARRIVAL: the publisher makes the forwarding entry, or the subscriber's entry goes again. -/
def execSubsRequestArrival (r : SubsReq) (s : State) : Out :=
  let k := s.core r.pub
  let reply (s : State) (v : Int) : State :=
    s.send 0 0 (replyPath r.path) 1 2 rkResult r.sub (.resultProduced ⟨r.sub, r.ctx, r.epoch, r.id, .scalar (BitVec.ofInt 64 v) false, r.dst, .none⟩)
  match k.freeSub with
  | none => .next (reply (s.updCore r.sub (fun k => { k with subs := k.subs.filter (fun e => e.entry != r.entry) })) (-2))
  | some n =>
    let e : FwdEnt := { entry := n, sub := s.relIndex r.sub, base := r.base, lines := r.len, pbase := r.pbase, open_ := false, line := 0,
                        data := 0, mask := 0, poison := 0, stamp := 0 }
    .next (reply (s.setCore r.pub { k with fwds := k.fwds ++ [e] }) r.entry)

/-- R87, R238: UNSUB of the entry whose region begins at ea; the context waits until every update sent for it has been applied. Its request
leaves no earlier than that of the entry's SUBS. -/
def execUnsub (f : MF) (s : State) : Out :=
  let a := s.effAddr f.base f.index f.off 64
  let i := s.issue
  if a.2 then .next (s.slotKill 1)
  else match (s.core i.core).subs.find? (fun e => e.base == a.1.toNat && e.ending.isNone) with
    | none => .next s
    | some e =>
      let target := s.relCore i.core e.pub
      let path := pathToCore s.ctl i.core target
      let s := s.updCore i.core (fun k => { k with subs := k.subs.map (fun x => if x.entry == e.entry then { x with ending := some i.ctx } else x) })
      let s := s.updCtx i.core i.ctx (fun x => { x with wait := .unsub })
      let q : SubsReq := { sub := i.core, ctx := i.ctx, epoch := (s.ctx i.core i.ctx).epoch, id := 0, dst := none, pub := target,
                           entry := e.entry, base := e.base, pbase := e.pbase, len := e.lines, path }
      let delay := max (if anyPort [f.base, f.index] then 3 else 0) (e.sent - s.cycle)
      .next (s.send delay i.ctx path 1 2 rkUpdate i.core (.unsubRequestArrival q))

/-- R238: entries that have ended, and of which no update is on its way, leave a core's table, and their contexts go on. -/
def Core.endSubs (k : Core) (now : Nat) : Core :=
  let ended (e : SubEnt) : Bool := e.gone && e.flying == 0
  (k.subs.filter ended).foldl (fun k e => match e.ending with
    | none => k
    | some c =>
      let x := k.ctx c
      if x.wait == .unsub then k.setCtx c { x with wait := .none, readyAt := max x.readyAt (now + 1) } else k)
    { k with subs := k.subs.filter (fun e => !ended e) }

/-- R222: an update applied to a core's scratchpad. -/
def Core.applyUpdate (k : Core) (u : SubUpd) (now : Nat) : Core :=
  let here (e : SubEnt) : Bool := e.base ≤ u.addr && u.addr < e.base + 64 * e.lines
  { k.spPutLine u.addr u.data u.mask u.poison with
    subs := k.subs.map (fun e => if here e then { e with flying := e.flying - 1 } else e) }.endSubs now

/-- R222: UNSUB_REQUEST_ARRIVAL: the publisher closes and sends the entry's open window and removes the entry. -/
def execUnsubRequestArrival (r : SubsReq) (s : State) : Out :=
  let s := match (s.core r.pub).fwds.find? (fun e => e.base == r.base && s.relCore r.pub e.sub == r.sub) with
    | none => s
    | some e => (s.closeWindow r.pub e.entry none).updCore r.pub (fun k => { k with fwds := k.fwds.filter (fun x => x.entry != e.entry) })
  .next (s.updCore r.sub (fun (k : Core) =>
    let up (e : SubEnt) : SubEnt := if e.base == r.base && e.ending.isSome then { e with gone := true } else e
    Core.endSubs { k with subs := k.subs.map up } s.cycle))

/-- R222: an update applied is no longer counted at its barrier. -/
def State.updateDone (s : State) (u : SubUpd) : State :=
  match u.bar with
  | none => s
  | some b =>
    (s.updGroup u.gid (fun g => g.setBarrier b { g.barrier b with updates := (g.barrier b).updates - 1, since := s.cycle })).checkBarriers u.gid

/-- R391: a refused update moves to the next cycle, and later ones from the same publisher to the same subscriber stay behind it. -/
def State.deferUpdate (s : State) (u : SubUpd) (unit : Nat) : State :=
  let later (d : Due) : Bool := d.cycle ≤ s.cycle + 1 && match d.ev with
    | .subscriptionUpdateApply v | .subsUpdateSavedImage v => v.gid == u.gid && v.pub == u.pub && v.sub == u.sub
    | _ => false
  let t := { s with agenda := s.agenda.filter (fun d => !later d) }.at 1 rkUpdate unit (.subscriptionUpdateApply u)
  (s.agenda.filter later).foldl (fun s d => s.at 1 d.rank d.unit d.ev) t

/-- R221, R391: SUBSCRIPTION_UPDATE_APPLY: an update is written as one access after every core access of the cycle, in a bank
that is free; one for a group that is swapped out goes to its saved image. -/
def execSubscriptionUpdateApply (u : SubUpd) (s : State) : Out :=
  let apply (core : Nat) : Out :=
    let k := s.core core
    let t := tileOf u.addr
    if !k.banksFree s.cycle [t] then
      .next (s.deferUpdate u (match s.group u.gid with | some g => g.coreAt u.pub | none => core))
    else
      .next (((s.setCore core ((k.grant s.cycle s.cycle [t]).applyUpdate u s.cycle)).sink core 0).updateDone u)
  if u.gid = noGroup then apply u.sub
  else match s.group u.gid with
    | none => .next s
    | some g => if g.phase == .saved || g.phase == .saving then .next (s.at 0 rkUpdate u.pub (.subsUpdateSavedImage u)) else apply (g.coreAt u.sub)

/-- R213, R222: SUBS_UPDATE_SAVED_IMAGE: an update of a swapped-out subscriber is applied to the saved scratchpad, in order, by a bank of the
bay that holds the line of the save area. (DESIGN CHOICE, log entry 17). -/
def execSubsUpdateSavedImage (u : SubUpd) (s : State) : Out :=
  match s.group u.gid with
  | none => .next s
  | some g =>
    let at_ := Config.saveBank u.gid u.sub (u.addr / 64)
    let bay := 16 * g.die + at_ % 16
    let bank := at_ / 16 % 16
    if !s.bankIdle bay bank then .next (s.deferUpdate u u.pub)
    else .next (((s.takeBank bay bank).updGroup u.gid (fun g =>
      { g with saved := tset g.saved .reset u.sub ((tget g.saved .reset u.sub).applyUpdate u s.cycle) })).updateDone u)

end Sys2Proof.Machine
end

