-- ==== Sys2Proof/Machine/Mem.lean ====
section
/-! DEFINITION. The M class (R226 to R236): loads and stores to the window and to shared memory, load-blocks and discards,
drains, publication and acquisition, atomics and reductions. -/

namespace Sys2Proof.Machine

open Sys2Proof

/-- R227: where an M-class access of n bytes goes. -/
inductive Where where
  | window (a : Nat)
  | shared (x : Xl)
  /-- it raises a trap -/
  | trap (t : TrapInfo)
  deriving DecidableEq, Repr

/-- R200, R203, R227: an access of n bytes at an address, by a context; `window` says whether it has a meaning there. -/
def State.place (s : State) (a n : Nat) (nd : Need) (window : Bool) : Where :=
  if a < 0x100000 && !window then .trap (tRange 1 a)
  else if a + n ≤ 0x100000 then .window a
  else if a < 0x100000 then .trap (tRange 2 a)
  else match rangeXl s.start.sr.rng a n nd with
    | .error f => .trap (tRange f a)
    | .ok x => .shared x

/-- R201: the lines of a shared access of n bytes: the request of each, at its line. -/
def lineXls (x : Xl) (n : Nat) : List Xl :=
  (List.range ((x.ia + n - 1) / 64 + 1 - x.ia / 64)).map (fun k => xlAt x ((x.ia / 64 + k) * 64))

/-! ## Loads (R229) -/

/-- The log entries that a context's load reads (R209, R260, R329). -/
def Core.seenLog (k : Core) (ctx : Nat) : List LogEnt :=
  let x := k.ctx ctx
  if x.det then x.log.filter (fun e => e.epoch == x.epoch) else k.logEntries ++ k.parkedHost

/-- R333: a deterministic task's read of a line. -/
def Ctx.noteRead (x : Ctx) (xls : List Xl) : Ctx :=
  if x.det then { x with detReads := x.detReads ++ (xls.map (·.ia / 64)).filter (fun l => !x.detReads.contains l) } else x

/-- The earlier load of a context whose request for a line is on its way and joins this one: nothing has dropped the line from the view
since, so that what it reads at home is not older than what the load is ordered after (R257, R258). -/
def Core.asker (k : Core) (ctx : Nat) (l : Xl) : Option Nat :=
  ((k.ctx ctx).loads.find? (fun p => k.mayKeep l p.view && p.missing.any (fun e => e.2 == l && tget p.asked 0 e.1 = 0))).map (·.num)

/-- A load with the requests that it joins. -/
def PendLoad.join (l : PendLoad) (k : Core) (ctx : Nat) : PendLoad :=
  { l with asked := l.missing.foldl (fun t e => match k.asker ctx e.2 with | some n => tset t 0 e.1 n | none => t) l.asked }

/-- The lines for which a load makes requests of its own. -/
def PendLoad.asks (l : PendLoad) : List Xl := (l.missing.filter (fun e => tget l.asked 0 e.1 = 0)).map (·.2)

/-- R229: the requests of a context's load. -/
def State.askLines (s : State) (l : PendLoad) : State :=
  let i := s.issue
  let c := s.ctx i.core i.ctx
  l.asks.foldl (fun s y => s.requestLine i.core i.ctx { core := i.core, ctx := i.ctx, epoch := c.epoch, load := l.num, xl := y, evp := l.evp,
                                                        view := l.view, path := [], replay := false, priv := i.start.sr.priv.toNat }) s

/-- R207, R209, R229: a load of shared memory by a context: the bytes that the core's log gives, the lines of the view, and a
request for each line that neither gives and no earlier load of the context has asked for. `dst`, `block` and `spawn` say what
it is for. -/
def State.sharedLoad (s : State) (x : Xl) (va n id : Nat) (dst : Option Nat) (vec port : Bool) (evp : Nat) (spawn : Option (Nat × RecP)) : State :=
  let i := s.issue
  let xls := lineXls x n
  let l := (s.core i.core).seenLog i.ctx
  let overlay := xls.flatMap (fun y =>
    let lo := max x.ia y.ia
    let hi := min (x.ia + n) (y.ia + 64)
    logOverlay l y (lo - y.ia) (hi - lo) (lo - x.ia))
  let covered (y : Xl) : Bool := (List.range 64).all (fun o =>
    let a := y.ia + o
    a < x.ia || x.ia + n ≤ a || overlay.any (fun e => e.1 == a - x.ia))
  let nocache := x.host || isCtl x.ia
  let step (acc : State × Tbl (Option (Line × BitVec 8))) (p : Xl × Nat) : State × Tbl (Option (Line × BitVec 8)) :=
    let k := acc.1.core i.core
    match (if nocache then none else k.viewFind p.1) with
    | some (key, v) => (acc.1.setCore i.core (k.touchView key v evp), tset acc.2 none p.2 (some (v.data, v.poison)))
    | none => if covered p.1 then (acc.1, tset acc.2 none p.2 (some (0, 0))) else acc
  let r := xls.zipIdx.foldl step (s, .empty)
  let m := r.1.next
  let s := m.2
  let k := s.core i.core
  let pl : PendLoad := { num := m.1, id, dst, vec, va, size := n, xls, evp, lines := r.2, asked := .empty, view := k.viewGen, overlay,
                         held := false, block := none, spawn, since := s.cycle, pc := i.pc, port }
  let pl := pl.join k i.ctx
  let s := s.updCtx i.core i.ctx (fun c => { c with loads := c.loads ++ [pl] }.noteRead xls)
  if pl.missing.isEmpty then s.finishLoad i.core i.ctx pl 14 else s.askLines pl

/-- R229: LD and LDV. -/
def State.loadOp (s : State) (f : MF) (vec : Bool) : State :=
  let n := sizeBytes f.size
  let a := s.effAddr f.base f.index f.off n
  let port := anyPort [f.base, f.index]
  let i := s.issue
  if a.2 then s.slotKill 1
  else match s.place a.1.toNat n needR true with
    | .trap t => s.slotTrap t
    | .window b =>
      let k := s.core i.core
      (match k.meets s.cycle b n false with
        | .wait => s.slotStall
        | .own a => s.slotTrap (tTileOwn a)
        | .ok =>
          let g := k.serve s.cycle s.cycle (tilesOf b n)
          let v := k.spRead b n
          let val : Val := if vec then ⟨true, BitVec.ofNat 2048 v.1, BitVec.ofNat 32 v.2⟩ else .scalar (BitVec.ofNat 64 v.1) (v.2 != 0)
          (s.setCore i.core g.2).push (6 + (g.1 - s.cycle)) port val (s.dst f.dst) .none)
    | .shared x =>
      let r := s.reserveFor vec (s.dst f.dst)
      r.2.sharedLoad x a.1.toNat n r.1 (s.dst f.dst) vec port f.evp.toNat none

/-- R229: LD yields n bytes, zero-extended. -/
def execLd (f : MF) (s : State) : Out := (s.loadOp f false).out
/-- R229: LDV yields 64 or 256 bytes. -/
def execLdv (f : MF) (s : State) : Out := (s.loadOp f true).out

/-! ## Stores (R214, R229) -/

/-- R330, R336, R359: CONFLICT LOGFULL: a deterministic store that finds no room is recorded and kills the job (R335). -/
def State.logFull (s : State) (core ctx ia : Nat) : State :=
  let x := s.ctx core ctx
  let s := s.killJob x.record.job 9
  s.record ⟨ringWord0 0 s.pkgId core ctx 0 2 3 9, x.sr.taskId, 0, BitVec.ofNat 64 ia, 0, 0, 0, none⟩ (recOrder core ctx 0)

/-- R214: the lines of a store that would open a new entry of a segment. -/
def Ctx.opens (x : Ctx) (xls : List Xl) : Nat :=
  (xls.filter (fun y => !x.log.any (fun e => !e.sealed && !e.sent && e.w.xl.ia / 64 == y.ia / 64 && e.w.xl.rmt == y.rmt
    && e.w.xl.host == y.host && (!y.rmt || e.w.xl.pkg == y.pkg) && e.w.xl.asid == y.asid && e.w.xl.gen == y.gen))).length

/-- R214, R229: n bytes of data with the poison of their words stored to shared memory: line by line into the segment, each
view line present taking the eviction priority. -/
def State.sharedStore (s : State) (core ctx va : Nat) (x : Xl) (n d : Nat) (p : Nat → Bool) (evp : Option Nat) : State :=
  (lineXls x n).foldl (fun s y =>
    let lo := max x.ia y.ia
    let hi := min (x.ia + n) (y.ia + 64)
    let data : Line := BitVec.ofNat 512 (d / 256 ^ (lo - x.ia) % 256 ^ (hi - lo) * 256 ^ (lo - y.ia))
    let po : BitVec 8 := BitVec.ofNat 8 ((List.range 8).foldr (fun k acc =>
      (if decide (y.ia + 8 * k < hi) && decide (lo < y.ia + 8 * k + 8) && p ((y.ia + 8 * k) / 8 - x.ia / 8) then 1 else 0) + 2 * acc) 0)
    let s := s.logStore core ctx (va + (y.ia - x.ia / 64 * 64)) y data (byteMask (lo - y.ia) (hi - lo)) po
    match evp with
    | none => s
    | some e => s.updCore core (fun k => match k.viewFind y with
      | some (key, v) => k.setView key (some { v with evp := e })
      | none => k)) s

/-- R160, R166, R229: a store to the window: it is performed at once, or kept for the T slot of its bundle that checks markers. -/
def State.windowStore (s : State) (w : SpWrite) : State :=
  if s.issue.checks then { s with issue := { s.issue with spw := some w } } else s.spWrite s.issue.core s.cycle w

/-- R229: ST and STV, with n bytes of data and the poison of their words. -/
def State.storeOp (s : State) (f : MF) (d p : Nat) : State :=
  let n := sizeBytes f.size
  let a := s.effAddr f.base f.index f.off n
  let i := s.issue
  if a.2 then s.slotKill 1
  else match s.place a.1.toNat n needW true with
    | .trap t => s.slotTrap t
    | .window b =>
      let k := s.core i.core
      (match k.meets s.cycle b n true with
        | .wait => s.slotStall
        | .own a => s.slotTrap (tTileOwn a)
        | .ok => s.windowStore ⟨b, n, d, p⟩)
    | .shared x =>
      let c := s.ctx i.core i.ctx
      if x.host && p != 0 then s.slotKill 3
      else if !(s.core i.core).logRoom (c.opens (lineXls x n)) then
        (if s.start.det then s.logFull i.core i.ctx x.ia else s.slotBlock (.logRoom (c.opens (lineXls x n))))
      else s.sharedStore i.core i.ctx a.1.toNat x n d (fun w => p.testBit w) (some f.evp.toNat)

/-- R229: ST stores the low n bytes of a scalar. -/
def execSt (f : MF) (s : State) : Out :=
  let d := s.readS f.data .i64
  .next (s.storeOp f (d.1.toNat % 256 ^ sizeBytes f.size) (if d.2 then 1 else 0))

/-- R229: STV stores the low n bytes of a vector. -/
def execStv (f : MF) (s : State) : Out :=
  let d := s.readV f.data .i64
  let n := sizeBytes f.size
  .next (s.storeOp f (d.1.toNat % 256 ^ n) (d.2.toNat % 2 ^ (n / 8)))

/-! ## Load-blocks and discards (R210, R211, R230, R231) -/

/-- R230: LDB claims a load-block of n lines. (DEDUCED, log entry 20). -/
def execLdb (f : MF) (s : State) : Out :=
  let a := s.effAddr f.base f.index f.off 64
  let d := s.readS f.data .i64
  let n := d.1.toNat
  let i := s.issue
  if a.2 || d.2 then .next (s.slotKill 1)
  else if n = 0 || 64 < n then .next (s.slotTrap (tOpnd i.slot))
  else match s.place a.1.toNat (64 * n) needR false with
    | .window _ => .next s
    | .trap t => .next (s.slotTrap t)
    | .shared x =>
      if x.host then .next (s.slotTrap (tRange 3 a.1.toNat))
      else
        let k := (s.core i.core).freeBlocks
        match (List.range 32).find? (fun t => !k.blocks.any (·.tag == t)) with
        | none => .next (s.slotBlock .blockTag)
        | some tag =>
          let r := s.reserveFor false (s.dst f.dst)
          let s := r.2
          let xls := lineXls x (64 * n)
          let join (k : Core) (y : Xl) : Core := match k.viewFind y with
            | some (key, v) => k.touchView key { v with block := some tag } f.evp.toNat
            | none => k
          let missing := xls.filter (fun y => isCtl y.ia || (k.viewFind y).isNone)
          let c := s.ctx i.core i.ctx
          let port := anyPort [f.base, f.index, f.data]
          let b : Block := { tag, ctx := i.ctx, epoch := c.epoch, id := r.1, dst := s.dst f.dst, missing := missing.length, port }
          let k := xls.foldl join { s.core i.core with blocks := k.blocks ++ [b] }
          let m := (s.setCore i.core k).next
          let pl : PendLoad := { num := m.1, id := r.1, dst := s.dst f.dst, vec := false, va := a.1.toNat, size := 64 * n, xls := missing,
                                 evp := f.evp.toNat, lines := .empty, asked := .empty, view := k.viewGen, overlay := [], held := false,
                                 block := some tag, spawn := none, since := s.cycle, pc := i.pc, port }
          let pl := pl.join k i.ctx
          let s := m.2
          if missing.isEmpty then
            let time := 14 + if port then 3 else 0
            ((s.updCtx i.core i.ctx (·.noteRead xls)).sink i.core time).produceAt time i.core i.ctx c.epoch r.1 (.scalar 1 false) (s.dst f.dst) |>.out
          else
            ((s.updCtx i.core i.ctx (fun c => { c with loads := c.loads ++ [pl] }.noteRead xls)).askLines pl).out

/-- R211, R231: DISC of n lines: they leave the core's view; .home also stores zeros to them. -/
def State.discOp (s : State) (f : MF) (home : Bool) : State :=
  let a := s.effAddr f.base f.index f.off 64
  let d := s.readS f.data .i64
  let n := d.1.toNat
  let i := s.issue
  if a.2 || d.2 then s.slotKill 1
  else if n = 0 || 64 < n then s.slotTrap (tOpnd i.slot)
  else match s.place a.1.toNat (64 * n) (if home then needW else needNone) false with
    | .window _ => s
    | .trap t => s.slotTrap t
    | .shared x =>
      let xls := lineXls x (64 * n)
      let c := s.ctx i.core i.ctx
      if home && !(s.core i.core).logRoom (c.opens xls) then
        (if s.start.det then s.logFull i.core i.ctx x.ia else s.slotBlock (.logRoom (c.opens xls)))
      else
        let s := xls.foldl (fun s y => s.dropLine i.core y) s
        if home then s.sharedStore i.core i.ctx a.1.toNat x (64 * n) 0 (fun _ => false) none else s

/-- R231: DISC, view only. -/
def execDisc (f : MF) (s : State) : Out := .next (s.discOp f false)
/-- R231: DISC.HOME. -/
def execDiscHome (f : MF) (s : State) : Out := .next (s.discOp f true)

/-! ## Drain, publish and acquire (R232, R233) -/

/-- R57, R233: a memory operation that makes its context count as blocked until it completes. -/
def State.blockingOp (s : State) (k : OpKind) : State :=
  (s.updCtx s.issue.core s.issue.ctx (fun x => { x with wait := .mem })).startOp k

/-- R233: DRAIN. In deterministic mode it completes in the cycle after issue and has no effect (R330). -/
def execDrain (s : State) : Out :=
  if s.start.det then .next s else .next (s.blockingOp .drain)

/-- R233: LPUB. In deterministic mode the word is written at the merge (R330). -/
def execLpub (f : MF) (s : State) : Out :=
  let a := s.effAddr f.base f.index f.off 8
  let i := s.issue
  if a.2 then .next (s.slotKill 1)
  else match s.place a.1.toNat 8 needW false with
    | .window _ => .next s
    | .trap t => .next (s.slotTrap t)
    | .shared x =>
      if s.start.det then
        let s := s.updCtx i.core i.ctx (fun c => c.publish s.cycle)
        .next (s.updCtx i.core i.ctx (fun c => { c with detWords := c.detWords ++ [(0, x, s.pubWord i.core i.ctx)] }))
      else .next (s.blockingOp (.lpub f.scope.toNat x))

/-- R203, R232: the requests of n words from an address, or the trap of the first that fails. -/
def State.wordXls (s : State) (a : Nat) : Nat → Except TrapInfo (List Xl)
  | 0 => .ok []
  | n + 1 => match s.place a 8 needR false with
    | .window _ => .error (tRange 1 a)
    | .trap t => .error t
    | .shared x => match s.wordXls ((a + 8) % 2 ^ 64) n with
      | .error t => .error t
      | .ok l => .ok (x :: l)

/-- R233: LACQ of n words. -/
def execLacq (f : MF) (s : State) : Out :=
  let a := s.effAddr f.base f.index f.off 8
  let d := s.readS f.data .i64
  let n := d.1.toNat
  if a.2 || d.2 then .next (s.slotKill 1)
  else if n = 0 || 8 < n then .next (s.slotTrap (tOpnd s.issue.slot))
  else match s.wordXls a.1.toNat n with
    | .error t => .next (s.slotTrap t)
    | .ok xls => .next (s.blockingOp (.lacq xls 0))

/-! ## Atomics and reductions (R234 to R236) -/

/-- R236: a deterministic atomic or reduction stands in its task's interval from its issue, in program order. -/
def Ctx.buffer (x : Ctx) (r : AtomReq) : Ctx := { x with detAtoms := x.detAtoms ++ [r], detFlying := x.detFlying ++ [r.num] }

/-- R234, R235, R236: ATOM and RED. The view line that holds the word is dropped; with acquire order the context issues no later
bundle until the ATOM has returned. (DESIGN CHOICE, log entry 25). -/
def State.atomOp (s : State) (f : MF) (op : AtomOp) (atom : Bool) : State :=
  let wide := f.size = 3
  let n := if wide then 8 else 4
  let b := s.readS f.base .i64
  let x := s.readS f.index .i64
  let d := s.readS f.data .i64
  let cas := op = .cas
  let a := ((if cas then b.1 else b.1 + x.1).toNat / n) * n
  let i := s.issue
  if b.2 || (!cas && x.2) then s.slotKill 1
  else match s.place a n (if atom then needRW else needW) false with
    | .window _ => s
    | .trap t => s.slotTrap t
    | .shared xl =>
      if xl.host then s.slotTrap (tRange 3 a)
      else
        let r := if atom then s.reserveFor false (s.dst f.dst) else (0, s)
        let s := r.2.dropLine i.core xl
        let c := s.ctx i.core i.ctx
        let det := s.start.det
        let q : AtomReq := { core := i.core, ctx := i.ctx, epoch := c.epoch, id := if atom then some r.1 else none, op, wide, d := d.1,
                             e := x.1, poison := d.2 || (cas && x.2), xl, va := a, dst := s.dst f.dst,
                             acquire := atom && f.ord.getLsbD 0 && !det, det, replay := false, num := s.fresh, seq := 0,
                             taskid := c.sr.taskId.toNat, path := [], port := anyPort [f.base, f.index, f.data] }
        let s := if atom && f.ord.getLsbD 0 then s.updCtx i.core i.ctx (fun c => { c with wait := .acquire r.1 }) else s
        let s := if det && !xl.rmt && !isCtl xl.ia then s.next.2.updCtx i.core i.ctx (·.buffer q) else s.next.2
        s.startOp (.atom (f.ord.getLsbD 1 && !det) f.scope.toNat q)

/-- R234: ATOM add. -/
def execAtomAdd (f : MF) (s : State) : Out := .next (s.atomOp f .add true)
/-- R234: ATOM fadd. -/
def execAtomFadd (f : MF) (s : State) : Out := .next (s.atomOp f .fadd true)
/-- R234: ATOM min, signed. -/
def execAtomMin (f : MF) (s : State) : Out := .next (s.atomOp f .min true)
/-- R234: ATOM max, signed. -/
def execAtomMax (f : MF) (s : State) : Out := .next (s.atomOp f .max true)
/-- R234: ATOM and. -/
def execAtomAnd (f : MF) (s : State) : Out := .next (s.atomOp f .and true)
/-- R234: ATOM or. -/
def execAtomOr (f : MF) (s : State) : Out := .next (s.atomOp f .or true)
/-- R234: ATOM xor. -/
def execAtomXor (f : MF) (s : State) : Out := .next (s.atomOp f .xor true)
/-- R234: ATOM xchg. -/
def execAtomXchg (f : MF) (s : State) : Out := .next (s.atomOp f .xchg true)
/-- R234: ATOM cas: INDEX is the expected value, and the address is BASE alone. -/
def execAtomCas (f : MF) (s : State) : Out := .next (s.atomOp f .cas true)
/-- R234: RED add. -/
def execRedAdd (f : MF) (s : State) : Out := .next (s.atomOp f .add false)
/-- R234: RED fadd. -/
def execRedFadd (f : MF) (s : State) : Out := .next (s.atomOp f .fadd false)
/-- R234: RED min, signed. -/
def execRedMin (f : MF) (s : State) : Out := .next (s.atomOp f .min false)
/-- R234: RED max, signed. -/
def execRedMax (f : MF) (s : State) : Out := .next (s.atomOp f .max false)

end Sys2Proof.Machine
end

