-- ==== Sys2Proof/Machine/Fetch.lean ====
section
/-! DEFINITION. Reads made in one cycle: instruction fetches, with the reads that follow a fetch's rules (R67, R181, R186), and
the record read of SPAWN (R122). -/

namespace Sys2Proof.Machine

open Sys2Proof

/-- A line read at its home in this cycle, or the subcode of its fault. -/
def State.lineNow (s : State) (core : Nat) (x : Xl) (nd : Need) (fetch : Bool) (priv : Nat) : Except Nat (Line × BitVec 8) × State :=
  match s.routeOf core x with
  | (.error f, s) => (.error f, s)
  | (.ok (p, _), s) => match s.homeRead (pathBay p) x nd fetch priv with
    | (.error f, s) => (.error f, s)
    | (.ok (v, _), s) => (.ok v, s)

/-- Some lines read in this cycle: their bytes from the first on, and the poison bits of their words. -/
def State.linesNow (s : State) (core : Nat) (nd : Need) (fetch : Bool) : List Xl → Except Nat (Nat × Nat) × State
  | [] => (.ok (0, 0), s)
  | x :: rest => match s.lineNow core x nd fetch 0 with
    | (.error f, s) => (.error f, s)
    | (.ok v, s) => match s.linesNow core nd fetch rest with
      | (.error f, s) => (.error f, s)
      | (.ok r, s) => (.ok (v.1.toNat + 2 ^ 512 * r.1, v.2.toNat + 256 * r.2), s)

/-- R67, R181: n bytes read as an instruction fetch through a context's range registers: the bytes with a bit that is set when
a word of them is poisoned, or the trap. -/
def State.fetchRun (s : State) (core : Nat) (rng : Tbl Word) (a n : Nat) : Except TrapInfo (Nat × Bool) × State :=
  if a < 0x100000 then (.error (tRange 1 a), s)
  else match rangeXl rng a n needX with
    | .error f => (.error (tRange f a), s)
    | .ok x => match s.linesNow core needX true (lineXls x n) with
      | (.error f, s) => (.error ⟨8, f, BitVec.ofNat 64 a⟩, s)
      | (.ok v, s) =>
        let o := x.ia % 64
        let words := (o + n + 7) / 8 - o / 8
        (.ok (v.1 / 256 ^ o % 256 ^ n, v.2 / 2 ^ (o / 8) % 2 ^ words != 0), s)

/-- What the record read of a SPAWN finds (R122). -/
inductive Peek where
  | ok (v : Nat)
  | stall
  | trap (t : TrapInfo)
  /-- a fault at home -/
  | held (sub : Nat) (x : Xl)
  deriving DecidableEq, Repr

/-- R122, R209, R229: n bytes as a load of the context would read them now: the window, or the log over the view over home.
(DEDUCED, log entry 75). -/
def State.peekLoad (s : State) (core ctx a n : Nat) : Peek × State :=
  match s.place a n needR true with
  | .trap t => (.trap t, s)
  | .window b =>
    let k := s.core core
    (match k.meets s.cycle b n false with
      | .wait => .stall
      | .own a => .trap (tTileOwn a)
      | .ok => .ok (k.spRead b n).1, s)
  | .shared x =>
    let k := s.core core
    let overlay := logOverlay (k.seenLog ctx) x (x.ia % 64) n 0
    let y := xlAt x (x.ia / 64 * 64)
    let line : Except Nat Line × State := match (if x.host || isCtl x.ia then none else k.viewFind x) with
      | some (_, v) => (.ok v.data, s)
      | none => match s.lineNow core y needR false (s.ctx core ctx).sr.priv.toNat with
        | (.error f, s) => (.error f, s)
        | (.ok v, s) => (.ok v.1, s)
    match line with
    | (.error f, s) => (.held f y, s)
    | (.ok d, s) =>
      let byte (i : Nat) : Nat := match overlay.find? (fun e => e.1 == i) with
        | some e => e.2.1.toNat
        | none => d.toNat / 256 ^ (x.ia % 64 + i) % 256
      (.ok ((List.range n).foldr (fun i acc => byte i + 256 * acc) 0), s)

end Sys2Proof.Machine
end

