-- ==== Sys2Proof/Machine/Tradewind.lean ====
section
/-! DEFINITION. Tradewind (R302 to R307, R251, R252): the snapshot and the check of a phase's tables, the passage of bits from
router to router, XMIT, IMUX and PHEND. -/

namespace Sys2Proof.Machine

open Sys2Proof

/-- R302: the window address of entry i of a phase. -/
def twAddr (ph i : Nat) : Nat := 0xFE000 + 1024 * ph + 4 * i

/-- R302: some entries of a phase in a core's tiles, from entry i up to the one that carries LAST. -/
def twEntriesFrom (k : Core) (ph : Nat) : Nat → Nat → List (BitVec 32)
  | 0, _ => []
  | n + 1, i =>
    let e := BitVec.ofNat 32 (bytesAt k.sp (twAddr ph i) 4)
    if e.getLsbD 31 then [e] else e :: twEntriesFrom k ph n (i + 1)

/-- R302: the entries of a phase in a core's tiles. -/
def twEntries (k : Core) (ph : Nat) : List (BitVec 32) := twEntriesFrom k ph 256 0

/-- R302: the outputs that an entry feeds from an input: 0 north, 1 east, 2 south, 3 west, 4 local. -/
def twMask (e : BitVec 32) (input : Nat) : Nat := e.toNat / 16 ^ input % 16

/-- The core that lies in a direction of a core of a group, if the group holds it. -/
def Group.neighbour (g : Group) (core dir : Nat) : Option Nat :=
  let x := coreX core
  let y := coreY core
  if dir = 0 then (if g.y < y then some (core - 16) else none)
  else if dir = 1 then (if x + 1 < g.x + g.desc.w then some (core + 1) else none)
  else if dir = 2 then (if y + 1 < g.y + g.desc.h then some (core + 16) else none)
  else if g.x < x then some (core - 1) else none

/-- R303: the subcode of the first check that an entry fails. -/
def Group.twFault (g : Group) (core : Nat) (e : BitVec 32) : Option Nat :=
  let feeds (o : Nat) : Nat := ((List.range 5).filter (fun i => (twMask e i).testBit o)).length
  if e.toNat / 2 ^ 20 % 2 ^ 11 ≠ 0 then some 3
  else if (List.range 4).any (fun o => 1 < feeds o) then some 1
  else if (List.range 4).any (fun o => 0 < feeds o && (g.neighbour core o).isNone) then some 2
  else none

/-- R303: the snapshot of a phase's tables at every router of a group, in the order of its cores. -/
def State.twSnapshot (s : State) (g : Group) (ph : Nat) : List (List (BitVec 32)) := g.coreList.map (fun n => twEntries (s.core n) ph)

/-- R303: the first failing entry of a group's snapshots: the core, the entry, and the subcode. -/
def Group.twBad (g : Group) (snap : List (List (BitVec 32))) : Option (Nat × Nat × Nat) :=
  (g.coreList.zip snap).findSome? (fun k => k.2.zipIdx.findSome? (fun e => (g.twFault k.1 e.1).map (fun f => (k.1, e.2, f))))

/-- R303: every router of a group switches to the phase, whose cycle 0 is this cycle. -/
def State.twStart (s : State) (g : Group) (snap : List (List (BitVec 32))) : State :=
  (g.coreList.zip snap).foldl (fun s n => s.updCore n.1 (fun k => { k with tw := ⟨true, n.2, s.cycle, .empty, []⟩ })) s

/-- R303: what the completion of a PHASE's barrier does: the routers switch and the members that wait in PHASE enter transfer
mode, or each takes PHASECONF, with the address of the bundle after its PHASE's. -/
def State.twPhase (s : State) (g : Group) (ph : Nat) (snap : List (List (BitVec 32))) (waiting : List (Nat × Nat)) : State :=
  match g.twBad snap with
  | none =>
    waiting.foldl (fun s m => s.updCtx m.1 m.2 (fun x =>
      { x with wait := .none, phaseOf := none, transfer := true, readyAt := max x.readyAt (s.cycle + 1) })) (s.twStart g snap)
  | some (n, i, f) =>
    waiting.foldl (fun s m =>
      let x := { s.ctx m.1 m.2 with wait := .none, phaseOf := none }
      s.takeTrap m.1 m.2 x ⟨0xC, f, BitVec.ofNat 64 (n * 2 ^ 32 + twAddr ph i)⟩ x.phaseAt) s

/-- R304: the bits at an input of a router in this cycle. -/
def TwRouter.at (t : TwRouter) (input : Nat) : BitVec 256 × BitVec 4 := tget t.inputs (0, 0) input

/-- R304: one cycle of a running router: what it sends, by target core and facing input. -/
def State.twSends (s : State) (g : Group) (n : Nat) : List (Nat × Nat × BitVec 256 × BitVec 4) :=
  let t := (s.core n).tw
  let len := max 1 t.entries.length
  let e := t.entries.getD ((s.cycle - t.cycle0) % len) 0
  (List.range 5).flatMap (fun i =>
    if t.at i = (0, 0) then []
    else (List.range 4).filterMap (fun o =>
      if (twMask e i).testBit o then (g.neighbour n o).map (fun m => (m, (o + 2) % 4, (t.at i).1, (t.at i).2)) else none))

/-- R304, R306: one cycle of Tradewind for a group: bits move one router on, and the routers stop when no member is in
transfer mode. -/
def State.twGroup (s : State) (g : Group) : State :=
  let on := g.coreList.filter (fun n => (s.core n).tw.on)
  if on.isEmpty then s
  else
    let live := (s.members g).any (fun m => (s.ctx m.1 m.2).transfer)
    if !live then on.foldl (fun s n => s.updCore n (fun k => { k with tw := .off })) s
    else
      let sends := on.flatMap (s.twSends g)
      on.foldl (fun s n => s.updCore n (fun k =>
        let local_ := (k.tw.coming.filter (fun c => c.1 == s.cycle + 1)).map (fun c => (4, c.2.1, c.2.2))
        let mine := (sends.filter (fun x => x.1 == n)).map (fun x => (x.2.1, x.2.2.1, x.2.2.2))
        { k with tw := { k.tw with inputs := (mine ++ local_).foldl (fun t x => tset t (0, 0) x.1 (x.2.1, x.2.2)) .empty
                                   coming := k.tw.coming.filter (fun c => s.cycle + 1 < c.1) } })) s

/-- One cycle of Tradewind. -/
def State.twTick (s : State) : State :=
  s.groups.entries.foldl (fun s e => match e.2 with | some g => s.twGroup g | none => s) s

/-- R305, R307: PHASECONF MODE. -/
def tMode : TrapInfo := ⟨0xC, 0x10, 0⟩

/-- R251: XMIT hands 256 bits of a vector to the router's local input, two cycles from now (R304). -/
def execXmit (f : EF) (s : State) : Out :=
  if !s.start.transfer then .next (s.slotTrap tMode)
  else
    let a := s.readV f.a .i64
    let p := f.cmd.toNat % 8
    let bits : BitVec 256 := a.1.extractLsb' (256 * p) 256
    let po : BitVec 4 := a.2.extractLsb' (4 * p) 4
    .next (s.updCore s.issue.core (fun k => { k with tw := { k.tw with coming := k.tw.coming ++ [(s.cycle + 2, bits, po)] } }))

/-- R252: IMUX yields a vector with one part replaced by the bits at a router input. -/
def execImux (f : EF) (s : State) : Out :=
  if !s.start.transfer then .next (s.slotTrap tMode)
  else
    let a := s.readV f.a .i64
    let p := f.cmd.toNat / 8 % 8
    let b := (s.core s.issue.core).tw.at (f.cmd.toNat % 8)
    let ones : BitVec 2048 := BitVec.ofNat 2048 ((2 ^ 256 - 1) * 2 ^ (256 * p))
    let pones : BitVec 32 := BitVec.ofNat 32 (15 * 2 ^ (4 * p))
    .next (s.push 2 (isPort f.a) ⟨true, (a.1 &&& ~~~ones) ||| BitVec.ofNat 2048 (b.1.toNat * 2 ^ (256 * p)),
      (a.2 &&& ~~~pones) ||| BitVec.ofNat 32 (b.2.toNat * 2 ^ (4 * p))⟩ (s.dst f.dst) .none)

/-- R306: PHEND ends the context's part in the phase. -/
def execPhend (s : State) : Out := .next (s.updCtx s.issue.core s.issue.ctx (fun x => { x with transfer := false }))

end Sys2Proof.Machine
end

