-- ==== Sys2Proof/Machine/Control.lean ====
section
/-! DEFINITION. The C class (R116 to R127) but for the routine calls: branches and calls, REP, SPAWN and JOIN, the ends of
tasks, barriers and PHASE, TRAP and ERET; and the completion of a barrier's phase (R125, R177, R222, R303). -/

namespace Sys2Proof.Machine

open Sys2Proof

/-! ## Branches and calls (R117, R119) -/

/-- The slot that acts starts a delayed transfer. -/
def State.setXfer (s : State) (x : Xfer) : State := s.updCtx s.issue.core s.issue.ctx (fun c => { c with xfer := x })

/-- R117: the target of a transfer by displacement. -/
def State.dispTarget (s : State) (f : CF) : Word := s.issue.pc + BitVec.ofInt 64 (64 * f.imm.toInt)

/-- R67, R117: an indirect target, with bits 5:0 cleared. -/
def alignPc (a : Word) : Word := BitVec.ofNat 64 (a.toNat / 64 * 64)

/-- R87, R119: the earliest cycle for an indirect transfer's target: three cycles later when A comes through a port. -/
def State.indirectReady (s : State) (f : CF) : Nat := if isPort f.a then s.cycle + 5 else 0

/-- R119: the link pushed by CALL and CALLI. -/
def State.pushLink (s : State) (f : CF) (port : Bool) : State :=
  s.push 1 port (.scalar (s.issue.pc + 128) false) (s.dst f.dst) .none

/-- R118, R119: a transfer to the address in A; poison kills the task. -/
def State.indirect (s : State) (f : CF) (link : Bool) : State :=
  let a := s.readS f.a .i64
  if a.2 then s.slotKill 2
  else
    let s := if link then s.pushLink f (isPort f.a) else s
    s.setXfer (.goto (alignPc a.1) (s.indirectReady f))

/-- R119: BR. -/
def execBr (f : CF) (s : State) : Out := .next (s.setXfer (.goto (s.dispTarget f) 0))

/-- R118, R119: BRC, on a predicate as at bundle start. -/
def execBrc (f : CF) (s : State) : Out :=
  let p := tget s.start.c .zero f.cond.toNat
  if p.poison then .next (s.slotKill 2)
  else .next (s.setXfer (.goto (if p.v ^^ (f.cinv == 1) then s.dispTarget f else s.issue.pc + 128) 0))

/-- R119: BRI. -/
def execBri (f : CF) (s : State) : Out := .next (s.indirect f false)
/-- R119: CALL. -/
def execCall (f : CF) (s : State) : Out := .next ((s.pushLink f false).setXfer (.goto (s.dispTarget f) 0))
/-- R119: CALLI. -/
def execCalli (f : CF) (s : State) : Out := .next (s.indirect f true)
/-- R119: RET behaves exactly as BRI. -/
def execRet (f : CF) (s : State) : Out := .next (s.indirect f false)

/-! ## REP (R49, R121) -/

/-- R121: the count of a REP. -/
def State.repCount (s : State) (f : CF) : Nat :=
  let n := f.imm.toNat % 128
  if n ≠ 0 then n else min (s.readS f.a .i64).1.toNat 65536

/-- R49, R121: REP sets the repeat of its bundle going: REPCNT and REPSTEP show the first repetition. -/
def execRep (f : CF) (s : State) : Out :=
  if f.imm.toNat % 128 = 0 && (s.readS f.a .i64).2 then .next (s.slotKill 2)
  else
    let n := s.repCount f
    .next (s.updCtx s.issue.core s.issue.ctx (fun x =>
      { x with rep := { x.rep with on := true, held := true, j := 1, left := n }
               sr := { x.sr with repCnt := BitVec.ofNat 64 n, repStep := if n = 0 then 0 else 1 } }))

/-! ## SPAWN and JOIN (R122, R123, R417) -/

/-- R122: SPAWN reads a record and pushes it to its queue no earlier than six cycles later; a poisoned address kills the task as a BRANCH does.
(DEDUCED, log entries 72, 80). -/
def execSpawn (f : CF) (s : State) : Out :=
  let a := s.readS f.a .i64
  let q := f.imm.toNat % 4
  let i := s.issue
  let va := a.1.toNat / 32 * 32
  if a.2 then .next (s.slotKill 2)
  else match s.peekLoad i.core i.ctx va 32 with
    | (.stall, s) => .next s.slotStall
    | (.trap t, s) => .next (s.slotTrap t)
    | (.held f x, s) => .next (s.slotBlock (.record f x va))
    | (.ok v, s) =>
      let r : RecP := ⟨BitVec.ofNat 256 v, va, s.start.record.job, false⟩
      if malformedRecord r.bits then .next (s.slotTrap (tIllfmt 4 va))
      else if s.start.sr.priv = 0 && recPrio r < s.start.sr.prio.toNat then .next (s.slotTrap ⟨6, 0, 0⟩)
      else if q = 2 && dieLimit ≤ s.waiting (coreDie i.core) then .next (s.slotTrap (tOpnd i.slot))
      else if q < 2 && s.queueFull i.core q then .next (s.slotBlock (.queue q))
      else match s.place va 32 needR true with
        | .shared x => (s.sharedLoad x va 32 0 none false (isPort f.a) 4 (some (q, r))).out
        | _ =>
          let g := (s.core i.core).serve s.cycle s.cycle [tileOf va]
          ((s.setCore i.core g.2).at (6 + (g.1 - s.cycle)) rkDecide i.core
            (.spawnRecordPush i.core i.ctx s.start.epoch q r)).out

/-- R417: a join block at an address: its request, or the trap. -/
def State.joinBlock (s : State) (a : Nat) : Except TrapInfo Xl :=
  match s.place a 64 needRW false with
  | .window _ => .error (tRange 1 a)
  | .trap t => .error t
  | .shared x => if x.host then .error (tRange 3 a) else .ok x

/-- R123: JOIN drains as a release and decrements a join counter at its home. -/
def execJoin (f : CF) (s : State) : Out :=
  let a := s.readS f.a .i64
  let va := a.1.toNat / 64 * 64
  if a.2 then .next (s.slotKill 2)
  else match s.joinBlock va with
    | .error t => .next (s.slotTrap t)
    | .ok x =>
      let r := s.reserveFor false (s.dst f.dst)
      let s := r.2
      let i := s.issue
      let c := s.ctx i.core i.ctx
      .next (s.startOp (.join { core := i.core, ctx := i.ctx, epoch := c.epoch, id := some r.1, dst := s.dst f.dst, xl := x, va, pc := i.pc,
                                taskid := c.sr.taskId.toNat, jobid := c.record.job, seq := 0, path := [], port := anyPort [f.a] }))

/-! ## Ends of tasks (R124) -/

/-- A slot that keeps the program counter where it is. -/
def State.keepPc (s : State) : State := { s with issue := { s.issue with jump := true } }

/-- R124, R417: RETIRE drains, joins on JOINADDR, and pops the next record. -/
def execRetire (s : State) : Out :=
  let a := s.start.sr.joinAddr.toNat / 64 * 64
  if s.start.sr.joinAddr ≠ 0 then
    match s.joinBlock a with
    | .error t => .next (s.slotTrap t)
    | .ok _ => .next (s.keepPc.blockingOp .retire)
  else .next (s.keepPc.blockingOp .retire)

/-- R124: HALT drains, and ends the context's part in the launch. -/
def execHalt (s : State) : Out := .next (s.keepPc.blockingOp .halt)

/-- R124: the records that a YIELD looks at. -/
def State.yieldQueues (s : State) (core : Nat) : List RecP :=
  (s.core core).queue ++ (match (s.core core).group.bind s.group with | some g => g.queue | none => [])

/-- R124, R290: the context saved as for pre-emption and its resume record put at the tail of the core's queue; its place at
its group's barriers is kept with it. (DEDUCED, log entry 40). -/
def State.saveYield (s : State) (core ctx : Nat) (pc : Word) : State :=
  let x := { s.ctx core ctx with pc := pc }
  let x := if x.inRoutine then x.rollback else x
  let n := s.next
  let k := n.2.core core
  let bits : BitVec 256 := BitVec.ofNat 256 (x.record.bits.toNat % 2 ^ 250 + 2 ^ 250)
  let r : RecP := { bits, va := n.1, job := x.record.job, joined := false }
  let s := n.2.setCore core { k with queue := k.queue ++ [r], yielded := k.yielded ++ [(n.1, x)] }
  let e := s.next
  let s := e.2.setCtx core ctx { x.toIdle with epoch := e.1, pend := [], loads := [], log := [] }
  (s.leaveBarriers core ctx false).at 0 rkDecide (core * 4 + ctx) (.recordPop core ctx)

/-- R124: YIELD acts when a record of equal or higher priority waits: once everything that the context has issued is done, it is saved
as for pre-emption. (DEDUCED, log entry 40). -/
def execYield (s : State) : Out :=
  let i := s.issue
  if (s.yieldQueues i.core).any (fun r => recPrio r ≤ s.start.sr.prio.toNat) then
    .next (s.updCtx i.core i.ctx (fun x => { x with wait := .yield }))
  else .next s

/-- R54, R290: whether every f entry that has been bound has its value. -/
def Ctx.bindsIn (x : Ctx) : Bool := x.f.entries.all (fun e => !e.2.bound || e.2.arrived)

/-- R124, R290: whether a context that yields has nothing under way. (DEDUCED, log entry 40). -/
def Ctx.drained (x : Ctx) : Bool :=
  x.loads.isEmpty && x.ops.isEmpty && x.atoms == 0 && x.log.all (!·.sent) && x.q.all (·.produced) && x.bindsIn

/-! ## Barriers (R125, R222) -/

/-- R125: whether a barrier index lies within the grant of a core's group. -/
def State.granted (s : State) (core bix : Nat) : Bool :=
  match (s.core core).group.bind s.group with
  | some g => bix < g.bars.length
  | none => false

/-- R303: the tables of a phase are taken at each arrival, and so stand as they were in the cycle of the last. -/
def State.snapWhenIn (s : State) (gid bix : Nat) : State :=
  match s.group gid with
  | none => s
  | some g =>
    match (g.barrier bix).tw with
    | some ph => s.updGroup gid (fun g => g.setBarrier bix { g.barrier bix with snap := s.twSnapshot g ph })
    | none => s

/-- R125, R221, R328: a context's arrival at a barrier of its group: its interval ends, its core's windows close, and the
phase may become ready. -/
def State.arrive (s : State) (core ctx bix : Nat) (tw : Option Nat) : State :=
  let gid := s.gidOf core
  let now := match s.group gid with | some g => (g.barrier bix).phase | none => 0
  let s := s.closeInterval core ctx (some (bix, now)) none
  let r := s.closeWindows core bix
  let s := r.2.updGroup gid (fun g =>
    let b := g.barrier bix
    g.setBarrier bix { b with begun := true, arrived := b.arrived ++ [(core, ctx)], updates := b.updates + r.1, since := r.2.cycle
                              tw := if b.tw.isNone then tw else b.tw })
  let phase := match s.group gid with | some g => (g.barrier bix).phase | none => 0
  let s := s.updCtx core ctx (fun x => { x with arrived := x.arrived ++ [(bix, phase)] })
  (s.snapWhenIn gid bix).checkBarriers gid

/-- R125: the phase of a context's outstanding arrival at a barrier. -/
def Ctx.outstanding (x : Ctx) (bix : Nat) : Option Nat := (x.arrived.find? (fun a => a.1 == bix)).map (·.2)

/-- R125: an arrival that waits for the phase or does not; one that comes before the earlier arrival's phase has completed
makes the context wait for that first. -/
def State.arriveOp (s : State) (bix : Nat) (tw : Option Nat) (wait : Bool) : State :=
  let i := s.issue
  let x := s.ctx i.core i.ctx
  match x.outstanding bix with
  | some p => s.updCtx i.core i.ctx (fun x => { x with wait := .barrier bix p, again := some (bix, wait) })
  | none =>
    let s := s.arrive i.core i.ctx bix tw
    let p := ((s.ctx i.core i.ctx).outstanding bix).getD 0
    if wait then s.updCtx i.core i.ctx (fun x => { x with wait := .barrier bix p }) else s

/-- R125: BARR arrives, waits, and yields the status word. -/
def execBarr (f : CF) (s : State) : Out :=
  let bix := f.imm.toNat % 64
  if !s.granted s.issue.core bix then .next (s.slotTrap (tOpnd s.issue.slot))
  else
    let r := s.reserveFor false (s.dst f.dst)
    let s := r.2.updCtx s.issue.core s.issue.ctx (fun x => { x with barRes := some (r.1, r.2.dst f.dst) })
    .next (s.arriveOp bix none true)

/-- R125: BARRA arrives. -/
def execBarra (f : CF) (s : State) : Out :=
  let bix := f.imm.toNat % 64
  if !s.granted s.issue.core bix then .next (s.slotTrap (tOpnd s.issue.slot)) else .next (s.arriveOp bix none false)

/-- R125: BARRW waits for the phase of the outstanding arrival; with none, it yields the last phase's status at once.
(DESIGN CHOICE, log entry 26). -/
def execBarrw (f : CF) (s : State) : Out :=
  let bix := f.imm.toNat % 64
  let i := s.issue
  if !s.granted i.core bix then .next (s.slotTrap (tOpnd i.slot))
  else match (s.ctx i.core i.ctx).outstanding bix with
    | some p =>
      let r := s.reserveFor false (s.dst f.dst)
      .next (r.2.updCtx i.core i.ctx (fun x => { x with barRes := some (r.1, r.2.dst f.dst), wait := .barrier bix p }))
    | none =>
      let v := match (s.core i.core).group.bind s.group with | some g => (g.barrier bix).prev | none => 0
      .next (s.push 1 false (.scalar v false) (s.dst f.dst) .none)

/-- R125, R303: PHASE arrives as BARR does and asks for a Tradewind phase. -/
def execPhase (f : CF) (s : State) : Out :=
  let bix := f.imm.toNat / 8 % 64
  let ph := f.imm.toNat % 8
  let i := s.issue
  if s.start.transfer then .next (s.slotTrap tMode)
  else if !s.granted i.core bix then .next (s.slotTrap (tOpnd i.slot))
  else .next ((s.updCtx i.core i.ctx (fun x => { x with phaseOf := some ph, phaseAt := i.pc + 64 })).arriveOp bix (some ph) true)

/-- R125: a context whose barrier phase has completed: the status word it waits for is produced, and an arrival that waited
behind it is made. -/
def State.wakeMember (s : State) (bix phase : Nat) (status : Word) (m : Nat × Nat) : State :=
  let x := s.ctx m.1 m.2
  let x := { x with arrived := x.arrived.filter (fun a => a != (bix, phase)) }
  if x.wait != .barrier bix phase then s.setCtx m.1 m.2 x
  else match x.again with
    | some (b, stay) =>
      let s := (s.setCtx m.1 m.2 { x with again := none, wait := .none, readyAt := max x.readyAt (s.cycle + 1) }).arrive m.1 m.2 b x.phaseOf
      if stay then
        let p := ((s.ctx m.1 m.2).outstanding b).getD 0
        s.updCtx m.1 m.2 (fun x => { x with wait := .barrier b p })
      else s
    | none =>
      let s := s.setCtx m.1 m.2 { x with wait := .none, barRes := none, readyAt := max x.readyAt (s.cycle + 1) }
      match x.barRes with
      | some (id, dst) => s.produceAt 0 m.1 m.2 x.epoch id (.scalar status false) dst
      | none => s

/-- R125: the status word of a phase. -/
def statusWord (b : Barrier) : Word := BitVec.ofNat 64 ((if b.died then 2 ^ 63 else 0) + b.mcstat.toNat)

/-- R328: whether a merge set is merged before a phase of a group completes: the phase's own, or that of the group's tasks that ended
since its last merge. -/
def MergeSet.ofPhase (m : MergeSet) (gid bix phase : Nat) : Bool := m.gid == some gid && (m.phase.isNone || m.phase == some (bix, phase))

/-- R328: the sets that a phase's completion waits for, made one, whose merge begins; none where there is none. -/
def State.mergePhase (s : State) (gid bix phase : Nat) : Option State :=
  match s.merges.filter (fun m => m.ofPhase gid bix phase) with
  | [] => none
  | m :: rest =>
    if (m :: rest).any (·.thenEv.isSome) then some s
    else
      let one : MergeSet := { m with phase := some (bix, phase), tasks := (m :: rest).flatMap (·.tasks), thenEv := some (.barrierPhaseComplete gid bix phase) }
      some ({ s with merges := s.merges.filter (fun (e : MergeSet) => !e.ofPhase gid bix phase) ++ [one] }.at 0 rkHome gid (.merge m.id))

/-- R125, R177, R222, R303, R328: BARRIER_PHASE_COMPLETE: unless the phase waits for something again, its merge is made first;
then every member that arrived goes on, and the next phase begins. -/
def execBarrierPhaseComplete (gid bix phase : Nat) (s : State) : Out :=
  match s.group gid with
  | none => .next s
  | some g =>
    let b := g.barrier bix
    if b.phase ≠ phase || !b.due then .next s
    else if b.gangs ≠ 0 || b.updates ≠ 0 then .next (s.setGroup gid (some (g.setBarrier bix { b with due := false })))
    else match s.mergePhase gid bix phase with
      | some s => .next s
      | none =>
        let st := statusWord b
        let fresh : Barrier := { Barrier.fresh with phase := phase + 1, since := b.since, prev := st }
        let s := s.setGroup gid (some (g.setBarrier bix fresh))
        let waiting := b.arrived.filter (fun m => (s.ctx m.1 m.2).wait == .barrier bix phase && (s.ctx m.1 m.2).phaseOf.isSome
          && (s.ctx m.1 m.2).again.isNone)
        let s := (b.arrived.filter (fun m => !waiting.contains m)).foldl (fun s m => s.wakeMember bix phase st m) s
        let s := waiting.foldl (fun s m => s.updCtx m.1 m.2 (fun x => { x with arrived := x.arrived.filter (fun a => a != (bix, phase)) })) s
        match b.tw with
        | some ph => .next (s.twPhase g ph b.snap waiting)
        | none => .next s

/-! ## TRAP and ERET (R127) -/

/-- R127: TRAP delivers class TRAP with its code as subcode, and TRAPPC past its bundle. -/
def execTrap (f : CF) (s : State) : Out :=
  let i := s.issue
  let s := s.keepPc
  .next (s.takeTrap i.core i.ctx (s.ctx i.core i.ctx) ⟨0xF, f.imm.toNat % 65536, 0⟩ (i.pc + 64))

/-- R127: ERET returns from the trap. -/
def execEret (s : State) : Out := .next (s.keepPc.updCtx s.issue.core s.issue.ctx (fun x => x.eret s.cycle))

end Sys2Proof.Machine
end

