-- ==== Sys2Proof/Machine/Routine.lean ====
section
/-! DEFINITION. Routines and the vitrine (R180 to R193): CALLR, RETR and CKPT, the checkpoint image, the routine cache and its
digests, the dispatch decision, and VITQ. The vitrine's table is what firmware loaded at bring-up, which nothing changes. -/

namespace Sys2Proof.Machine

open Sys2Proof

/-! ## The vitrine's table (R188, R193) -/

/-- R193: the loaded entries. -/
def vitLoaded : Nat := 13

/-- R188, R193: an entry's native unit: 1 dot, 2 elementary, 3 row, 4 epilogue. -/
def vitUnit (e : Nat) : Nat := if e = 0 then 1 else if e < 9 then 2 else if e < 12 then 3 else 4

/-- R193: an entry's catalogue number. -/
def vitCat (e : Nat) : Nat := [100, 110, 111, 113, 114, 115, 116, 119, 120, 132, 134, 135, 140].getD e 0

/-- R193: an entry's cycles from entry to return; k is the count that a row routine takes in q0. -/
def vitCycles (e k : Nat) : Nat :=
  if e = 9 then 24 + 6 * k else if e = 10 then 30 + 6 * k else if e = 11 then 24 + 4 * k
  else [8, 10, 8, 10, 12, 12, 14, 8, 8, 0, 0, 0, 6].getD e 0

/-- R189: the reset value of the vitrine controls at a core: EN, and each loaded entry enabled. -/
def vitDefault (i : Nat) : Word := if i = 0 then 1 else if i = 1 then BitVec.ofNat 64 (2 ^ vitLoaded - 1) else 0

/-- R189: control i in force at a core. -/
def Core.vitControl (k : Core) (i : Nat) : Word := tget k.vit (vitDefault i) i

/-- R189: whether an entry is enabled at a core. -/
def Core.vitEnabled (k : Core) (e : Nat) : Bool := (k.vitControl (e / 64 + 1)).getLsbD (e % 64)

/-- R188: an entry as VITQ delivers it. -/
def Core.vitEntry (k : Core) (e : Nat) : Line :=
  if vitLoaded ≤ e then 0
  else BitVec.ofNat 512 ((vitDigest e).toNat + 2 ^ 128 * ((vitClobber e).toNat + 2 ^ 64 * ((vitVclob e).toNat
    + 2 ^ 32 * (vitCat e + 2 ^ 16 * (vitCkpts e + 2 ^ 16 * (vitUnit e + 2 ^ 8 * (2 + if k.vitEnabled e then 1 else 0)))))))

/-! ## VITQ (R189, R254) -/

/-- R254: VITQ.entry. -/
def execVitqEntry (f : EF) (s : State) : Out :=
  let a := (s.readS f.a .i64).1.toNat
  if 256 ≤ a then .next (s.slotTrap (tOpnd s.issue.slot))
  else .next (s.push 4 (isPort f.a) ⟨true, ((s.core s.issue.core).vitEntry a).zeroExtend 2048, 0⟩ (s.dst f.dst) .none)

/-- R189: VITCTL's read-only fields: COUNT and TBLVER. -/
def vitFixed : Nat := vitLoaded * 2 ^ 32 + Config.tableVersion.toNat * 2 ^ 16

/-- R254: VITQ.rd. -/
def execVitqRd (f : EF) (s : State) : Out :=
  let a := (s.readS f.a .i64).1.toNat
  if 4 < a then .next (s.slotTrap (tOpnd s.issue.slot))
  else
    let w := (s.core s.issue.core).vitControl a
    .next (s.push 4 (isPort f.a) (.scalar (if a = 0 then BitVec.ofNat 64 (vitFixed + w.toNat) else w) false) (s.dst f.dst) .none)

/-- R189: the cycles until the last changeover that is due at a core. (DESIGN CHOICE, log entry 14). -/
def State.changeoverDue (s : State) (core : Nat) : Nat :=
  s.agenda.foldl (fun m d => match d.ev with | .vitrineChangeover n _ _ => if n = core then max m (d.cycle - s.cycle) else m | _ => m) 0

/-- R189, R254: VITQ.wr: each core takes the control into force at a cycle of its own within 64, before the calls decided in that cycle, and
not before an earlier write. (DESIGN CHOICE, log entry 14). -/
def execVitqWr (f : EF) (s : State) : Out :=
  let a := (s.readS f.a .i64).1.toNat
  let b := (s.readS f.b .i64).1
  if 4 < a then .next (s.slotTrap (tOpnd s.issue.slot))
  else .next ((List.range Config.cores).foldl (fun s n =>
    let r := s.free
    r.2.at (max (s.changeoverDue n) (1 + Config.changeover r.1 % 64)) rkResult n (.vitrineChangeover n a b)) s)

/-- R8, R189: VITRINE_CHANGEOVER: a control comes into force; VITCTL's sets every mask to its reset value. -/
def execVitrineChangeover (core index : Nat) (value : Word) (s : State) : Out :=
  let live := if index = 0 then 1 else if index = 1 then 2 ^ vitLoaded - 1 else 0
  let v := BitVec.ofNat 64 (value.toNat &&& live)
  .next (s.updCore core (fun k =>
    { k with vit := tset (if index = 0 then .empty else k.vit) (vitDefault index) index v }))

/-! ## Checkpoints (R120, R182) -/

/-- A table of the registers that a clobber set names, as an image keeps them. -/
def imageRegs (t : Tbl Val) (d : Val) (l : List Nat) : Tbl (Option Val) :=
  l.foldl (fun im n => tset im none n (some (tget t d n))) .empty

/-- R182: a checkpoint image taken of a context as it stands, which seals its log segment. -/
def Ctx.takeImage (x : Ctx) (sregs vregs : List Nat) (resume : Word) : Ctx :=
  { x with ckpt := { valid := true, q := x.q, c := x.c, m := x.m, s := imageRegs x.s .zero sregs, v := imageRegs x.v .vzero vregs,
                     resume, mark := x.sr.logTail.toNat, upto := x.nextId }
           sr := { x.sr with ckptMark := x.sr.logTail }
           log := x.log.map (fun e => if e.epoch == x.epoch then { e with sealed := true } else e) }

/-- The bits that are set in a number below a bound. -/
def bitsOf (n x : Nat) : List Nat := (List.range n).filter (fun i => x.testBit i)

/-- R38: fields of a routine-table entry. -/
def rtBody (e : BitVec 256) : Nat := e.toNat % 2 ^ 64
def rtBundles (e : BitVec 256) : Nat := e.toNat / 2 ^ 64 % 2 ^ 32
def rtClobber (e : BitVec 256) : Nat := e.toNat / 2 ^ 128 % 2 ^ 64
def rtRelmask (e : BitVec 256) : Nat := e.toNat / 2 ^ 192 % 2 ^ 64

/-- R120, R182: CKPT takes a new image when its bundle has acted; outside a routine it has no effect. The next bundle issues two
cycles later. -/
def execCkpt (s : State) : Out :=
  if s.start.inRoutine then
    .next { s.updCtx s.issue.core s.issue.ctx (fun x => { x with readyAt := max x.readyAt (s.cycle + 2) }) with
            issue := { s.issue with ckpt := true } }
  else .next (s.updCtx s.issue.core s.issue.ctx (fun x => { x with readyAt := max x.readyAt (s.cycle + 2) }))

/-- R182: the image of a CKPT whose bundle has acted: its registers are those of the image before it. -/
def Ctx.ckptNow (x : Ctx) (resume : Word) : Ctx :=
  x.takeImage (x.ckpt.s.entries.map (·.1)) (x.ckpt.v.entries.map (·.1)) resume

/-! ## CALLR and RETR (R120, R181) -/

/-- R187: a core's cache entry for a routine of an image. -/
def Core.rtFind (k : Core) (base : Word) (ridx : Nat) : Option RtEnt := k.rtCache.find? (fun e => e.imgBase == base && e.ridx == ridx)

/-- R38: the vector clobber set that stands in the 4 bytes before a body. (DESIGN CHOICE, log entry 42). -/
def State.readVclob (s : State) (core : Nat) (rng : Tbl Word) (body : Word) : Except TrapInfo (Nat × Bool) × State :=
  s.fetchRun core rng (body - 4).toNat 4

/-- R120: CALLR, checked at decode: its routine-table entry is read as an instruction fetch (R181). The vector clobber set is
the cached one, or is read with the body (R186, R187): what keeps it from being read is reported there, and the entry image then holds every
vector register. (DESIGN CHOICE, log entry 42). -/
def execCallr (f : CF) (s : State) : Out :=
  let i := s.issue
  let x := s.start
  let base := x.sr.imgBase
  let n := if base = 0 then 0 else x.sr.imgRt.toNat / 2 ^ 48 % 2048
  let ridx := f.imm.toNat % 65536
  if n ≤ ridx || x.inRoutine then .next (s.slotTrap (tOpnd i.slot))
  else
    let a := (base + BitVec.ofNat 64 (x.sr.imgRt.toNat % 2 ^ 48 + 32 * ridx)).toNat
    match s.fetchRun i.core x.sr.rng a 32 with
    | (.error t, s) => (s.slotTrap t).out
    | (.ok (v, po), s) =>
      let e : BitVec 256 := BitVec.ofNat 256 v
      let body := base + BitVec.ofNat 64 (rtBody e)
      if po then (s.slotKill 4).out
      else match (s.core i.core).rtFind base ridx with
        | some r => (s.setXfer (.callr ridx e r.vclob body)).out
        | none => match s.readVclob i.core x.sr.rng body with
          | (.error _, s) => (s.setXfer (.callr ridx e (BitVec.allOnes 32) body)).out
          | (.ok (w, _), s) => (s.setXfer (.callr ridx e (BitVec.ofNat 32 w) body)).out

/-- R120: RETR returns after its delay bundle. -/
def execRetr (s : State) : Out :=
  if s.start.inRoutine then .next (s.setXfer .retr) else .next (s.slotTrap (tOpnd s.issue.slot))

/-- R120: a context back from a routine. -/
def Ctx.leaveRoutine (x : Ctx) : Ctx :=
  { x with pc := x.link, ckpt := .none, sr := { x.sr with routIdx := BitVec.allOnes 64 } }

/-- R120, R182, R190: what follows a CALLR's delay bundle: the entry image, and the dispatch decision in the next cycle, or
later by the time that a digest takes. (DESIGN CHOICE, log entry 42). -/
def State.enterRoutine (s : State) (core ctx ridx : Nat) (entry : BitVec 256) (vclob : BitVec 32) (body link : Word) : State :=
  let x := s.ctx core ctx
  let x := { x with link, pc := body, sr := { x.sr with routIdx := BitVec.ofNat 64 ridx } }
  let x := x.takeImage (bitsOf 32 (rtClobber entry)) (bitsOf 32 vclob.toNat) body
  let s := s.setCtx core ctx { x with wait := .routine }
  let s := s.updCore core (fun k => { k with calls := tset k.calls .none ctx ⟨true, ridx, entry, none, 0⟩ })
  let miss := ((s.core core).rtFind x.sr.imgBase ridx).isNone
  s.at (1 + if miss then 64 + 8 * rtBundles entry else 0) rkCore core (.routineDispatchDecision core ctx x.epoch)

/-! ## The digest (R186) -/

/-- R186: the canonical bundles of a body, from bundle i on: each slot that the relocation mask names is zeroed. -/
def State.canonical (s : State) (core : Nat) (rng : Tbl Word) (body mask : Word) : Nat → Nat → List (BitVec 8) →
    Except TrapInfo (List (BitVec 8) × Bool) × State
  | 0, _, acc => (.ok (acc, false), s)
  | n + 1, i, acc =>
    match s.fetchRun core rng (body + BitVec.ofNat 64 (64 * i)).toNat 64 with
    | (.error t, s) => (.error t, s)
    | (.ok (v, po), s) => match s.fetchRun core rng (mask + BitVec.ofNat 64 i).toNat 1 with
      | (.error t, s) => (.error t, s)
      | (.ok (m, po'), s) =>
        if po || po' then (.ok (acc, true), s)
        else
          let b : BitVec 512 := BitVec.ofNat 512 v
          let z := (bitsOf 8 m).foldl (fun (z : BitVec 512) k => z ||| BitVec.ofNat 512 ((2 ^ 56 - 1) * 2 ^ (64 + 56 * k))) 0
          let bytes := (List.range 64).map (fun j => (b &&& ~~~z).extractLsb' (8 * j) 8)
          s.canonical core rng body mask n (i + 1) (acc ++ bytes)

/-- R187: the vitrine entry that matches a digest and its clobber sets. -/
def vitMatch (d : BitVec 128) (clobber : BitVec 64) (vclob : BitVec 32) : Option Nat :=
  (List.range vitLoaded).find? (fun e => vitDigest e == d && vitClobber e == clobber && vitVclob e == vclob)

/-- R120, R187: a routine entered in the cache; of 64, the least recently called goes. -/
def Core.rtInsert (k : Core) (e : RtEnt) : Core :=
  let l := if k.rtCache.length < 64 then k.rtCache else
    let low := k.rtCache.foldl (fun m e => min m e.used) k.rtUse
    k.rtCache.filter (fun e => e.used != low)
  { k with rtCache := l ++ [{ e with used := k.rtUse }], rtUse := k.rtUse + 1 }

/-- R187: a call of a cached routine. -/
def Core.rtTouch (k : Core) (base : Word) (ridx : Nat) : Core :=
  { k with rtCache := k.rtCache.map (fun e => if e.imgBase == base && e.ridx == ridx then { e with used := k.rtUse } else e), rtUse := k.rtUse + 1 }

/-! ## The dispatch decision (R190, R193) -/

/-- The context runs its routine's body on the core. -/
def State.runBody (s : State) (core ctx : Nat) : State :=
  (s.updCore core (fun k => { k with calls := tset k.calls .none ctx .none })).updCtx core ctx (fun x => { x with wait := .none })

/-- R191: the most cycles between two points of a native call. -/
def pointSpan : Nat := 4096

/-- R193: a call decided for the native unit of a vitrine entry: it takes the unit for its cycles, or waits for it as on a full
engine queue; the core's other contexts issue. It holds the unit while a result or a load that stands before the call is still to come (R47).
(DESIGN CHOICE, log entry 41). -/
def State.runNative (s : State) (core ctx e : Nat) : State :=
  let k := s.core core
  let x := k.ctx ctx
  let old := tget k.calls .none ctx
  let c := { old with native := some e }
  let free := tget k.natFree 0 (vitUnit e)
  let hold (until_ : Nat) (take : Bool) : State :=
    (s.setCore core { k with calls := tset k.calls .none ctx { c with until_ }
                             natFree := if take then tset k.natFree 0 (vitUnit e) until_ else k.natFree }).updCtx core ctx
      (fun x => { x with wait := .engine (16 + vitUnit e) })
  if s.cycle < free && !(old.native == some e && old.until_ == free) then
    (hold 0 false).at (free - s.cycle) rkCore core (.routineDispatchDecision core ctx x.epoch)
  else if x.q.any (fun q => !q.produced) || !x.loads.isEmpty then
    (hold (s.cycle + 2) true).at 1 rkCore core (.routineDispatchDecision core ctx x.epoch)
  else
    let n := vitCycles e (x.q.getD 0 .fresh).val.word.toNat
    (hold (s.cycle + n) true).at (min n pointSpan) rkCore core (.nativeCallReturn core ctx x.epoch)

/-- R190: the choice between a native unit and the body, by the controls in force at the core in this cycle. (DESIGN CHOICE, log entry 41). -/
def State.chooseUnit (s : State) (core ctx : Nat) (entry : Option Nat) : State :=
  let k := s.core core
  match entry with
  | some e => if (k.vitControl 0).getLsbD 0 && k.vitEnabled e then s.runNative core ctx e else s.runBody core ctx
  | none => s.runBody core ctx

/-- R120, R186, R190: ROUTINE_DISPATCH_DECISION: a routine that the cache does not hold is digested first; a fault of that is a
fetch trap of the body's first bundle, and poison kills the task. -/
def execRoutineDispatchDecision (core ctx epoch : Nat) (s : State) : Out :=
  let k := s.core core
  let x := k.ctx ctx
  let c := tget k.calls .none ctx
  if x.epoch != epoch || !c.on || s.stoppedCore core then .next s
  else match c.native with
  | some e => .next (s.runNative core ctx e)
  | none => match k.rtFind x.sr.imgBase c.ridx with
    | some r => .next ((s.updCore core (·.rtTouch x.sr.imgBase c.ridx)).chooseUnit core ctx r.entry)
    | none =>
      let body := x.sr.imgBase + BitVec.ofNat 64 (rtBody c.entry)
      let mask := x.sr.imgBase + BitVec.ofNat 64 (rtRelmask c.entry)
      let r := match s.readVclob core x.sr.rng body with
        | (.error t, s) => (.error t, s)
        | (.ok (w, po), s) => match s.canonical core x.sr.rng body mask (rtBundles c.entry) 0 [] with
          | (.error t, s) => (.error t, s)
          | (.ok (bytes, po'), s) => (.ok (bytes, w, po || po'), s)
      match (r : Except TrapInfo (List (BitVec 8) × Nat × Bool) × State) with
      | (.error t, s) =>
        let s := s.runBody core ctx
        (s.takeTrap core ctx (s.ctx core ctx) t body).out
      | (.ok (bytes, w, po), s) =>
        if po then ((s.runBody core ctx).kill core ctx 0 (tPoison 4) body 0x11).out
        else
          let d := digestOf bytes
          let v := BitVec.ofNat 32 w
          let e := vitMatch d (BitVec.ofNat 64 (rtClobber c.entry)) v
          ((s.updCore core (·.rtInsert ⟨x.sr.imgBase, c.ridx, d, v, e, 0⟩)).chooseUnit core ctx e).out

end Sys2Proof.Machine
end

