-- ==== Sys2Proof/Machine/Tile.lean ====
section
/-! DEFINITION. The T class (R157 to R179, R394, R395): descriptors, units and hazards, the accesses of a tile instruction, what it
writes, and ganged issue. -/

namespace Sys2Proof.Machine

open Sys2Proof

/-! ## Shapes (R14, R157 to R159) -/

/-- R14: the elements of a row of A, by format. -/
def stepK (t : Ty) : Nat :=
  match t with | .f64 => 4 | .f32 => 8 | .f16 | .bf16 => 32 | .e4m3 | .e5m2 => 64 | _ => 128

/-- R158: the rows of an instruction's operand, and the bytes of each. -/
def tileShape (k : TileKind) (t : Ty) : Nat × Nat :=
  match k with
  | .ttrn => (stepK t, 4 * tyWidth t)
  | .trda | .twra => (32, 4 * tyWidth t)
  | _ => (32, if stepK t ≤ 8 then 32 else 64)

/-- R159: the number of accesses. -/
def accesses (k : TileKind) (t : Ty) : Nat := (tileShape k t).1 * (tileShape k t).2 / 256

/-- R159: the rows of access j, under a rotation. -/
def accessRows (k : TileKind) (t : Ty) (rot j : Nat) : List Nat :=
  let a := 256 / (tileShape k t).2
  let g := (j + rot) % accesses k t
  (List.range a).map (fun i => a * g + i)

/-- R162, R174: the cycle of access j from the start. -/
def accessCycle (k : TileKind) (c j : Nat) : Nat :=
  match k with | .trda => 4 + j | .twra => j | _ => 8 * j / c

/-- R162, R174: how long the unit is busy, and when the result is readable, from the start. -/
def tileTimes (k : TileKind) (c : Nat) : Nat × Nat :=
  match k with
  | .tlatch => (8, 8) | .ttrn => (8, 12) | .tzero => (2, 2) | .tmac | .share => (8, 20) | .trda => (4 + c, 4 + c) | .twra => (c + 4, c + 4)

/-- R162: the unit of an instruction: 0 array, 1 latch loader, 2 accumulator mover. -/
def tileUnit (k : TileKind) : Nat := match k with | .tmac | .share => 0 | .tlatch | .ttrn => 1 | _ => 2

/-- R162: the accumulator and the latch that a slot names. (DEDUCED, log entry 47). -/
def tAcc (f : AvtF) : Nat := f.ext.toNat % 8
def tLatch (f : AvtF) : Nat := f.ext.toNat / 8 % 4

/-- R157: the bank rotation of a tile descriptor. -/
def descRot (d2 : Word) : Nat := d2.toNat / 512 % 8

/-- The tile of each row of an operand. -/
def rowTiles (k : TileKind) (t : Ty) (d1 d2 : Word) : List Nat := (List.range (tileShape k t).1).map (fun r => tileOf (rowAddr d1 d2 r))

/-- R165, check 2: a descriptor out of range. -/
def descBad (k : TileKind) (t : Ty) (d1 d2 : Word) : Bool :=
  d1.toNat / 4096 != 0 || d2.toNat / 4096 != 0 || d1.toNat / 512 == 7 || 32 * 2 ^ (d1.toNat / 512) < (tileShape k t).2
    || (rowTiles k t d1 d2).any (fun x => 511 < x)

/-! ## Accumulators and latches (R58, R161) -/

/-- Accumulator a of a core, and latch k. -/
def Core.acc (k : Core) (a : Nat) : Acc := tget k.accs .zero a
def Core.latch (k : Core) (l : Nat) : Latch := tget k.latches .zero l

/-- R161: the accumulators that an instruction on accumulator a concerns: its pair in an FP64 form. -/
def accSet (k : Core) (t : Ty) (a : Nat) : List Nat :=
  if t = .f64 || (k.acc a).fp64 then [a / 2 * 2, a / 2 * 2 + 1] else [a]

/-- R58, R161: where the poison bit of element (i, j) stands. -/
def accBit (fp64 : Bool) (i j : Nat) : Nat := if fp64 then 32 * i + j else (32 * i + j) / 2

/-- The poison bit of an element. -/
def Acc.poisonAt (a : Acc) (i j : Nat) : Bool := tget a.poison false (accBit a.fp64 i j)

/-- R56, R58: columns of an accumulator written: a pair's poison bit joins what stays of it. -/
def Acc.write (a : Acc) (cols : BitVec 32) (v : Nat → Nat → Nat × Bool) : Acc :=
  (List.range 32).foldl (fun (acc : Acc) i =>
    (List.range 32).foldl (fun (acc : Acc) j =>
      if !cols.getLsbD j then acc
      else
        let x := v i j
        let other := if a.fp64 then false else if j % 2 = 1 && cols.getLsbD (j - 1) then acc.poisonAt i j
          else if j % 2 = 0 && cols.getLsbD (j + 1) then false else a.poisonAt i j
        { acc with elems := tset acc.elems 0 (32 * i + j) x.1, poison := tset acc.poison false (accBit a.fp64 i j) (x.2 || other) }) acc) a

/-- R161: an accumulator written in a form, with its tag: a change of tag writes every column and clears the other member of a
pair that leaves FP64. -/
def Core.writeAcc (k : Core) (t : Ty) (a : Nat) (cols : BitVec 32) (v : Nat → Nat → Nat × Bool) : Core :=
  let wide := t = .f64
  let old := k.acc a
  if wide then
    let e := a / 2 * 2
    let change := !(k.acc e).fp64
    let base : Acc := if change then ⟨true, .empty, .empty⟩ else k.acc e
    let cols := if change then BitVec.allOnes 32 else cols
    { k with accs := tset (tset k.accs .zero e (base.write cols v)) .zero (e + 1) ⟨true, .empty, .empty⟩ }
  else if old.fp64 then
    let o := if a % 2 = 0 then a + 1 else a - 1
    { k with accs := tset (tset k.accs .zero o .zero) .zero a (Acc.zero.write (BitVec.allOnes 32) v) }
  else { k with accs := tset k.accs .zero a (old.write cols v) }

/-! ## Rows -/

/-- R98: the slots of an I4X block as a latch keeps them: a 4-bit integer, 256 plus the code of an outlier, or 0 in a slot given
up to one; each with the slots whose words hold it. -/
def i4xCodes : List Nat → Nat → Nat → List (Nat × Nat)
  | [], _, _ => []
  | _ :: rest, g + 1, _ => (0, 0) :: i4xCodes rest g 0
  | c :: rest, 0, _ => if c = 8 then (256 + rest.getD 0 0 * 16 + rest.getD 1 0, 2) :: i4xCodes rest 2 0 else (c, 0) :: i4xCodes rest 0 0

/-- R93, R98: the element codes of a row with the poison of the words that hold them. -/
def rowCodes (t : Ty) (n : Nat) (r : Nat × Nat) : List (Nat × Bool) :=
  if t = .i4x then
    (i4xCodes (nibbles 128 r.1) 0 0).zipIdx.map (fun e =>
      (e.1.1, (List.range (e.1.2 + 1)).any (fun d => r.2.testBit ((e.2 + d) / 16))))
  else
    let w := tyWidth t
    (List.range n).map (fun k => (r.1 / 2 ^ (w * k) % 2 ^ w, r.2.testBit (k * w / 64)))

/-- R98, R103: the value of an element code of a row or a latch. -/
def codeVal (t : Ty) (ftzi : Bool) (c : Nat) : Fp :=
  if t = .i4x then (if 256 ≤ c then fpRead .e4m3 ftzi (c - 256) else .ofInt (intOf true 4 c)) else fpRead t ftzi c

/-- The rows of a tile operation as it has read them. -/
def TileOp.row (o : TileOp) (r : Nat) : Nat × Nat := tget o.rows (0, 0) r

/-! ## What tile instructions write (R168 to R173) -/

/-- R168: the latch that TLATCH or TTRN leaves. -/
def TileOp.newLatch (o : TileOp) : Latch :=
  let t := o.f.type
  let shape := tileShape o.kind t
  let codes := (List.range shape.1).map (fun r => (r, rowCodes t (if o.kind = .ttrn then 32 else stepK t) (o.row r)))
  let put (l : Latch) (key : Nat) (e : Nat × Bool) : Latch := { l with elems := tset l.elems 0 key e.1, poison := tset l.poison false key e.2 }
  codes.foldl (fun l r => r.2.zipIdx.foldl (fun l e =>
    put l (if o.kind = .ttrn then 128 * e.2 + r.1 else 128 * r.1 + e.2) e.1) l) { Latch.zero with ty := t }

/-- R170, R171: one step into an accumulator: the codes and poison of its elements. -/
def TileOp.step (o : TileOp) (old : Acc) : Nat → Nat → Nat × Bool :=
  let t := o.f.type
  let n := stepK t
  let d : Ty := if t = .f64 then .f64 else .f32
  let md := fmodOf o.f o.fmode.toNat
  let a := (List.range 32).map (fun i => ((rowCodes t n (o.row i)).map (fun e => codeVal t md.ftzi e.1), (o.row i).2 != 0))
  let b := (List.range 32).map (fun j =>
    ((List.range n).map (fun k => codeVal o.latch.ty md.ftzi (tget o.latch.elems 0 (128 * j + k))),
      (List.range n).any (fun k => tget o.latch.poison false (128 * j + k))))
  fun i j =>
    let x := a.getD i ([], false)
    let y := b.getD j ([], false)
    let prods := (x.1.zip y.1).map (fun e => e.1.mul e.2)
    (fpRound d md (fpSum md.rm (fpRead d md.ftzi (tget old.elems 0 (32 * i + j)) :: prods)),
      x.2 || y.2 || old.poisonAt i j || o.colPoison)

/-- R173: what TWRA writes. -/
def TileOp.widen (o : TileOp) : Nat → Nat → Nat × Bool :=
  let t := o.f.type
  let d : Ty := if t = .f64 then .f64 else .f32
  let md := fmodOf o.f o.fmode.toNat
  let md : FMod := { md with rm := .rne, sat := false }
  let rows := (List.range 32).map (fun i => (rowCodes t 32 (o.row i)).map (fun e => (cvtElem d md (elemOf t md.ftzi e.1), e.2 || o.colPoison)))
  fun i j => (rows.getD i []).getD j (0, false)

/-- R172: row i of what TRDA writes: its bytes and the poison of its words, of the enabled columns alone. -/
def TileOp.narrow (o : TileOp) (i : Nat) : Nat × Nat :=
  let t := o.f.type
  let w := tyWidth t
  let src : Ty := if o.acc.fp64 then .f64 else .f32
  let md := fmodOf o.f o.fmode.toNat
  let md : FMod := if tyIsFloat t then md else { md with ftzo := false }
  (List.range 32).foldl (fun (r : Nat × Nat) j =>
    if !o.cols.getLsbD j then r
    else
      let p := o.acc.poisonAt i j || o.colPoison
      (r.1 + cvtCanon t md (elemOf src md.ftzi (tget o.acc.elems 0 (32 * i + j))) % 2 ^ w * 2 ^ (w * j),
        if p then r.2 ||| 2 ^ (j * w / 64) else r.2)) (0, 0)

/-- Runs of neighbouring columns that are enabled: the first column of each and their number, the last run first. (DEDUCED, log entry 47). -/
def colRuns (cols : BitVec 32) : List (Nat × Nat) :=
  (List.range 32).foldl (fun (l : List (Nat × Nat)) j =>
    if !cols.getLsbD j then l
    else match l with
      | (a, n) :: rest => if a + n = j then (a, n + 1) :: rest else (j, 1) :: l
      | [] => [(j, 1)]) []

/-- R172, R221: one row of a TRDA stored: its enabled columns, in runs of neighbours from the left. (DEDUCED, log entry 47). -/
def State.storeRow (s : State) (core a w : Nat) (cols : BitVec 32) (r : Nat × Nat) : State :=
  let n := w / 8
  (colRuns cols).reverse.foldl (fun s c =>
    s.spStore core (a + n * c.1) (n * c.2) (r.1 / 2 ^ (w * c.1) % 2 ^ (w * c.2)) (r.2 / 2 ^ (c.1 * w / 64))) s

/-! ## Units and hazards (R162 to R164, R406) -/

/-- R406: the least distance between array starts. -/
def State.arraySpacing (s : State) : Nat := 8 + 4 * (s.ctl.pwrstat.toNat / 2 ^ 16 % 8)

/-- R162, R406: whether a unit is free for a start. -/
def State.unitFree (s : State) (core unit start : Nat) : Bool :=
  let k := s.core core
  tget k.units 0 unit ≤ start && (unit != 0 || k.lastArray = 0 || k.lastArray - 1 + s.arraySpacing ≤ start)

/-- R163: whether an instruction in flight on latch l or accumulators as holds a new one back from starting. (DEDUCED, log entry 46). -/
def Core.hazard (k : Core) (kind : TileKind) (t : Ty) (a l start : Nat) : Bool :=
  let on (o : TileOp) : Bool := (accSet k o.f.type (tAcc o.f)).any (accSet k t a).contains
  k.tileOps.any (fun o =>
    let late := decide (start < o.done)
    match kind, o.kind with
    | .tmac, .tlatch | .tmac, .ttrn | .share, .tlatch | .share, .ttrn => late && tLatch o.f == l
    | .tmac, .tzero | .tmac, .twra | .share, .tzero | .share, .twra => late && on o
    | .tzero, .trda | .twra, .trda => decide (start < o.start) && on o
    | .tzero, .tlatch | .tzero, .ttrn | .twra, .tlatch | .twra, .ttrn | .trda, .tlatch | .trda, .ttrn | .trda, .trda => false
    | .tzero, _ | .twra, _ | .trda, _ => late && on o
    | _, _ => false)

/-- R164, R394: whether an operand's tiles hold an access back: one is still to be written, a flip of one is pending, or, for a
target, one is still to be read. -/
def Core.tilesHeld (k : Core) (now : Nat) (tiles : List Nat) (write : Bool) : Bool :=
  tiles.any (fun t => k.flipPending t || k.tileWriting now t || (write && k.tileReading t))

/-- R394: whether an OWN of a tile takes effect in this cycle, so that only what starts later sees its bits. -/
def Core.flippedNow (k : Core) (now t : Nat) : Bool := k.flipped.any (fun f => f.1 == now && f.2.1 ≤ t && t < f.2.1 + f.2.2)

/-- R165, check 4: the address of the lowest-numbered row that lies in an engine-owned tile. -/
def Core.ownedRow (k : Core) (kind : TileKind) (t : Ty) (d1 d2 : Word) : Option Nat :=
  ((List.range (tileShape kind t).1).find? (fun r => k.engOwned (tileOf (rowAddr d1 d2 r)))).map (rowAddr d1 d2)

/-- R99, R166: whether a row that a core's scratchpad holds is a malformed I4X block. (DEDUCED, log entry 62). -/
def Core.badRow (k : Core) (d1 d2 : Word) (r : Nat) : Bool := i4xBad (nibbles 128 (k.spRead (rowAddr d1 d2 r) 64).1) 0

/-- R115, R166: the lowest-addressed malformed block of an operand, and its row. (DEDUCED, log entry 62). -/
def Core.markerRow (k : Core) (d1 d2 : Word) : Option Nat :=
  ((List.range 32).filter (k.badRow d1 d2)).foldl (fun (m : Option Nat) r => match m with
    | none => some r
    | some q => if rowAddr d1 d2 r < rowAddr d1 d2 q then some r else some q) none

/-- R159, R160: the requests of an access, one for each tile that its rows touch, each served in the first cycle in which its bank is
free: their cycles and rows, and the core with the grants. -/
def Core.requests (k : Core) (now want : Nat) (d1 d2 : Word) (rows : List Nat) : List (Nat × List Nat) × Core :=
  let tile (r : Nat) : Nat := tileOf (rowAddr d1 d2 r)
  (rows.map tile).eraseDups.foldl (fun (acc : List (Nat × List Nat) × Core) t =>
    let c := acc.2.firstFree want [t]
    (acc.1 ++ [(c, rows.filter (fun r => tile r == t))], acc.2.grant now c [t])) ([], k)

/-- R159, R160: the first n accesses of an instruction granted in turn from its start: their requests, the cycles by which refusals have
moved the last, and the core with the grants. -/
def Core.schedule (k : Core) (now start : Nat) (kind : TileKind) (t : Ty) (d1 d2 : Word) (n : Nat) : List (Nat × List Nat) × Nat × Core :=
  (List.range n).foldl (fun (acc : List (Nat × List Nat) × Nat × Core) j =>
    let want := start + accessCycle kind (accesses kind t) j + acc.2.1
    let r := acc.2.2.requests now want d1 d2 (accessRows kind t (descRot d2) j)
    (acc.1 ++ r.1, acc.2.1 + (r.1.foldl (fun m e => max m e.1) want - want), r.2)) ([], 0, k)

/-- R164: the rows of an operand as they stand, with the bytes of a store that precedes the accesses. -/
def Core.readRows (k : Core) (kind : TileKind) (t : Ty) (d1 d2 : Word) : Tbl (Nat × Nat) :=
  let shape := tileShape kind t
  (List.range shape.1).foldl (fun l r => tset l (0, 0) r (k.spRead (rowAddr d1 d2 r) shape.2)) .empty

/-- R166: a core's window with a store that is still to be performed. -/
def Core.withStore (k : Core) (w : Option SpWrite) : Core := match w with | some w => k.spPut w.addr w.size w.data w.poison | none => k

/-- R166: the accesses made up to the one that reads a row. -/
def accessesTo (kind : TileKind) (t : Ty) (d2 : Word) (row : Option Nat) : Nat :=
  let c := accesses kind t
  match row.bind (fun r => (List.range c).find? (fun j => (accessRows kind t (descRot d2) j).contains r)) with
  | some j => j + 1
  | none => c

/-- A tile instruction or share set going on a core: it takes the rows that it reads, as if it moved them at issue (R164), its accesses are
granted, up to that of a malformed row, its unit taken, and its events put down. (DEDUCED, log entries 46, 62). -/
def State.launchTile (s : State) (core : Nat) (kind : TileKind) (f : AvtF) (d1 d2 : Word) (cols : BitVec 32) (colPoison : Bool)
    (fmode : BitVec 4) (start : Nat) (gang : Option GangEntry) : TileOp × State :=
  let t := f.type
  let n := s.next
  let k := n.2.core core
  let store := if gang.isNone && t = .i4x then s.issue.spw else none
  let seen := k.withStore store
  let bad := if t = .i4x then seen.markerRow d1 d2 else none
  let r := if kind = .tzero then ([], 0, k) else k.schedule s.cycle start kind t d1 d2 (accessesTo kind t d2 bad)
  let c := accesses kind t
  let times := tileTimes kind c
  let tiles := if kind = .tzero then [] else (rowTiles kind t d1 d2).eraseDups
  let o : TileOp := { id := n.1, kind, f, d1, d2, cols, colPoison, fmode, start, free := start + times.1 + r.2.1,
                      done := start + times.2 + r.2.1, reads := if kind = .trda then [] else tiles,
                      writes := if kind = .trda then tiles else [], sched := r.1,
                      rows := if kind = .trda || kind = .tzero then .empty else seen.readRows kind t d1 d2, bad, store,
                      acc := .zero, latch := .zero, gang }
  let u := tileUnit kind
  let k := r.2.2
  let k := { k with units := tset k.units 0 u o.free, tileOps := k.tileOps ++ [o], lastArray := if u = 0 then start + 1 else k.lastArray }
  let n : Nat × State := (n.1, if store.isSome then { n.2 with issue := { n.2.issue with spw := none } } else n.2)
  let s := (n.2.setCore core k).at (start - s.cycle) rkCore core (.tileInstructionStart core n.1)
  (o, if kind = .share then s.at (o.done - s.cycle) rkResult core (.gangShareDone core n.1)
    else s.at (o.done - s.cycle) rkResult core (.tileInstructionComplete core n.1))

/-! ## The instructions (R165 to R173) -/

/-- R162, R164: the format that a latch will have when every load of it issued so far has written it. -/
def Core.latchTy (k : Core) (l : Nat) : Ty :=
  k.tileOps.foldl (fun t o => if (o.kind == .tlatch || o.kind == .ttrn) && tLatch o.f == l then o.f.type else t) (k.latch l).ty

/-- R162, R164: whether an accumulator will be tagged FP64 when every TZERO and TWRA issued so far has written its accumulator. -/
def Core.accFp64 (k : Core) (a : Nat) : Bool :=
  k.tileOps.foldl (fun t o => if (o.kind == .tzero || o.kind == .twra) && (accSet k o.f.type (tAcc o.f)).contains a then o.f.type == .f64 else t)
    (k.acc a).fp64

/-- R165, check 3: whether an accumulator's tag or a latch's format refuses an instruction, with the subcode. (DEDUCED, log entry 46). -/
def Core.formatBad (k : Core) (kind : TileKind) (f : AvtF) : Option Nat :=
  let t := f.type
  let a := tAcc f
  let e8 (x : Ty) : Bool := x = .e4m3 || x = .e5m2
  match kind with
  | .tmac | .share =>
    let l := k.latchTy (tLatch f)
    if !(l = t || (e8 l && e8 t)) || k.accFp64 a != (t = .f64) then some 4 else none
  | .trda => if k.accFp64 a && a % 2 = 1 then some 0xA else none
  | _ => none

/-- R165: a T slot that moves rows: its conditions, then its checks in order, then its start. A bundle with an .i4x step or
load goes on only after its last access (R166). (DEDUCED, log entry 46). -/
def State.tileOp (s : State) (kind : TileKind) (f : AvtF) : State :=
  let i := s.issue
  let t := f.type
  let d1 := s.readS f.a .i64
  let d2 := s.readS f.b .i64
  let start := s.cycle + if anyPort [f.a, f.b] then 3 else 0
  let k := s.core i.core
  if !s.unitFree i.core (tileUnit kind) start || k.hazard kind t (tAcc f) (tLatch f) start then s.slotStall
  else if d1.2 || d2.2 then s.slotKill 1
  else if descBad kind t d1.1 d2.1 then s.slotTrap (tOpnd i.slot)
  else match k.formatBad kind f with
  | some sub => s.slotTrap (tIllfmt sub i.slot)
  | none =>
    if k.tilesHeld s.cycle (rowTiles kind t d1.1 d2.1).eraseDups (kind = .trda) then s.slotStall
    else match k.ownedRow kind t d1.1 d2.1 with
    | some a => s.slotTrap (tTileOwn a)
    | none =>
      let g := s.govern f
      let cols : BitVec 32 := (if f.pinv = 1 then ~~~g.v else g.v).truncate 32
      let r := s.launchTile i.core kind f d1.1 d2.1 cols (g.poison && (kind = .tmac || kind = .trda || kind = .twra)) (s.start.sr.fmode.truncate 4) start none
      let last := r.1.sched.foldl (fun m e => max m e.1) start
      match r.1.bad with
      | some row =>
        let s := r.2.updCore i.core (fun k => { k with units := tset k.units 0 (tileUnit kind) (last + 1) })
        ({ s with issue := { s.issue with late := some (last - s.cycle) } } : State).slotTrap ⟨3, 2, BitVec.ofNat 64 (rowAddr d1.1 d2.1 row)⟩
      | none => if t = .i4x then r.2.updCtx i.core i.ctx (fun x => { x with readyAt := max x.readyAt (last + 1) }) else r.2

/-- R168: TLATCH loads a latch with 32 rows of K elements. -/
def execTlatch (f : AvtF) (s : State) : Out := .next (s.tileOp .tlatch f)
/-- R168: TTRN loads a latch transposed from K rows of 32 elements. -/
def execTtrn (f : AvtF) (s : State) : Out := .next (s.tileOp .ttrn f)
/-- R170: TMAC performs one matrix step into an accumulator. -/
def execTmac (f : AvtF) (s : State) : Out := .next (s.tileOp .tmac f)
/-- R172: TRDA writes an accumulator to the scratchpad converted to a type. -/
def execTrda (f : AvtF) (s : State) : Out := .next (s.tileOp .trda f)
/-- R173: TWRA reads 32 rows from the scratchpad into an accumulator. -/
def execTwra (f : AvtF) (s : State) : Out := .next (s.tileOp .twra f)

/-- R169: TZERO sets an accumulator's enabled columns to +0, and its tag. -/
def execTzero (f : AvtF) (s : State) : Out :=
  let i := s.issue
  let k := s.core i.core
  if !s.unitFree i.core 2 s.cycle || k.hazard .tzero f.type (tAcc f) 0 s.cycle then .next s.slotStall
  else
    let g := s.govern f
    let cols : BitVec 32 := (if f.pinv = 1 then ~~~g.v else g.v).truncate 32
    .next (s.launchTile i.core .tzero f 0 0 cols g.poison 0 s.cycle none).2

/-- R162, R163, R170: TILE_INSTRUCTION_START: a step takes its latch, and a TRDA its accumulator, as they stand. -/
def execTileInstructionStart (core id : Nat) (s : State) : Out :=
  .next (s.updCore core (fun k => { k with tileOps := k.tileOps.map (fun o =>
    if o.id == id then { o with latch := if o.kind = .tmac || o.kind = .share then k.latch (tLatch o.f) else o.latch
                                acc := if o.kind = .trda then k.acc (tAcc o.f) else o.acc }
    else o) }))

/-- R168 to R174: what a completed tile instruction leaves at its core. -/
def Core.finishTile (k : Core) (o : TileOp) : Core :=
  let k := { k with tileOps := k.tileOps.filter (fun e => e.id != o.id) }
  let t := o.f.type
  let a := tAcc o.f
  match o.kind with
  | .tlatch | .ttrn => { k with latches := tset k.latches .zero (tLatch o.f) o.newLatch }
  | .tzero => k.writeAcc t a o.cols (fun _ _ => (0, o.colPoison))
  | .twra => k.writeAcc t a o.cols o.widen
  | .tmac | .share => k.writeAcc (if t = .f64 then .f64 else .f32) a o.cols (o.step (k.acc a))
  | .trda => k

/-- R174: TILE_INSTRUCTION_COMPLETE. -/
def execTileInstructionComplete (core id : Nat) (s : State) : Out :=
  match (s.core core).tileOps.find? (fun o => o.id == id) with
  | none => .next s
  | some o => .next (s.updCore core (fun k => k.finishTile o))

/-! ## Gangs (R175 to R178, R394, R395) -/

/-- R175: fields of a gang word. (DEDUCED, log entry 16). -/
def gangFirst (w : Word) : Nat := w.toNat % 128
def gangCount (w : Word) : Nat := w.toNat / 128 % 64
def gangBix (w : Word) : Nat := w.toNat / 8192 % 64

/-- R176, R178: TGANG sends one step to the gang queues of its partners, and holds its barrier's phase. -/
def execTgang (f : AvtF) (s : State) : Out :=
  let i := s.issue
  let t := f.type
  let d1 := s.readS f.a .i64
  let d2 := s.readS f.b .i64
  let w := s.readS f.c .i64
  let g := (s.core i.core).group.bind s.group
  let size := s.groupSize i.core
  let grant := match g with | some g => g.bars.length | none => 0
  let n := gangCount w.1
  let k := s.core i.core
  if k.lastTgang != 0 && s.cycle < k.lastTgang + 7 then .next s.slotStall
  else if d1.2 || d2.2 || w.2 then .next (s.slotKill 1)
  else if descBad .share t d1.1 d2.1 || w.1.toNat / 2 ^ 19 != 0 || n = 0 || 32 < n || size < gangFirst w.1 + n || grant ≤ gangBix w.1 then
    .next (s.slotTrap (tOpnd i.slot))
  else
    let partners := (List.range n).map (fun p => s.relCore i.core (gangFirst w.1 + p))
    if partners.any (fun p => 4 ≤ (s.core p).gangDue) then .next (s.slotBlock (.gang partners))
    else match g with
    | none => .next s
    | some g =>
      let gid := ((s.core i.core).group).getD noGroup
      let b := g.barrier (gangBix w.1)
      let m := s.next
      let s := (m.2.updGroup gid (fun g => g.setBarrier (gangBix w.1) { g.barrier (gangBix w.1) with gangs := (g.barrier (gangBix w.1)).gangs + 1 }))
      let x : Gang := ⟨m.1, gid, i.core, gangBix w.1, b.phase, gangFirst w.1, n, n, 0⟩
      let s : State := { s with gangs := s.gangs ++ [x] }
      let gm := s.govern f
      let e : GangEntry := { leader := i.core, gid, gang := m.1, partner := 0, f, d1 := d1.1, d2 := d2.1, word := w.1, bix := gangBix w.1,
                             phase := b.phase, cols := (if f.pinv = 1 then ~~~gm.v else gm.v).truncate 32, colPoison := gm.poison,
                             fmode := s.start.sr.fmode.truncate 4 }
      let delay := 12 + if anyPort [f.a, f.b, f.c] then 3 else 0
      let s := partners.zipIdx.foldl (fun s p =>
        (s.updCore p.1 (fun k => { k with gangDue := k.gangDue + 1 })).at delay rkCore i.core (.gangEntryArrival p.1 { e with partner := p.2 })) s
      .next (s.updCore i.core (fun k => { k with lastTgang := s.cycle + 1 }))

/-- R176: GANG_ENTRY_ARRIVAL: an entry enters its partner's gang queue. -/
def execGangEntryArrival (core : Nat) (g : GangEntry) (s : State) : Out :=
  let s := s.sink core 0
  let k := s.core core
  let s := s.setCore core { k with gangQueue := k.gangQueue ++ [g] }
  .next (if k.gangQueue.isEmpty then s.at 0 rkRing core .gangShareStart else s)

/-- R176, R177: a share that has ended, with its fail bit; the last one's status is deposited twelve cycles later. -/
def State.shareEnd (s : State) (e : GangEntry) (fail : Bool) : State :=
  let up (g : Gang) : Gang := if g.id == e.gang then { g with left := g.left - 1, fails := if fail then g.fails ||| BitVec.ofNat 32 (2 ^ e.partner) else g.fails } else g
  let s := { s with gangs := s.gangs.map up }
  if s.gangs.any (fun g => g.id == e.gang && g.left == 0) then s.at 12 rkCore e.leader (.gangStatusDeposit e.gid e.gang) else s

/-- R176, R395: a share aborted, with its record. (DEDUCED, log entry 62). -/
def State.shareAbort (s : State) (core : Nat) (e : GangEntry) (cls sub addr : Nat) : State :=
  (s.shareEnd e true).record ⟨ringWord0 0 s.pkgId core 0 7 3 sub cls, BitVec.ofNat 64 e.leader, BitVec.ofNat 64 e.partner, BitVec.ofNat 64 addr, e.word, 0, 0, none⟩
    (recOrder core 0 0)

/-- The head of a gang queue taken out; the next entry tries to start in its turn. -/
def State.popGang (s : State) (core : Nat) : State :=
  let k := s.core core
  let s := s.setCore core { k with gangQueue := k.gangQueue.drop 1, gangDue := k.gangDue - 1 }
  if 1 < k.gangQueue.length then s.at 0 rkRing core .gangShareStart else s

/-- R176, R394: GANG_SHARE_START: the head of a core's gang queue starts when its array is free and its hazards allow and no flip
of its tiles is pending; a failed check aborts it. -/
def execGangShareStart (s : State) : Out :=
  let core := s.unit
  let k := s.core core
  match k.gangQueue with
  | [] => .next s
  | e :: _ =>
    let t := e.f.type
    if !s.unitFree core 0 s.cycle || k.hazard .share t (tAcc e.f) (tLatch e.f) s.cycle
        || k.tilesHeld s.cycle (rowTiles .share t e.d1 e.d2).eraseDups false
        || (rowTiles .share t e.d1 e.d2).any (k.flippedNow s.cycle) then .next (s.at 1 rkRing core .gangShareStart)
    else
      let s := s.popGang core
      match k.formatBad .share e.f with
      | some sub => .next (s.shareAbort core e 2 sub 0)
      | none => match k.ownedRow .share t e.d1 e.d2 with
        | some a => .next (s.shareAbort core e 4 0 a)
        | none => match s.upset core 14 with
        | some sub => .next (((s.takeUpset core 14).shareAbort core e 0xE sub 0).countPipe core)
        | none => .next (s.launchTile core .share e.f e.d1 e.d2 e.cols e.colPoison e.fmode s.cycle (some e)).2

/-- R176: GANG_SHARE_DONE: a share writes its accumulator. -/
def execGangShareDone (core id : Nat) (s : State) : Out :=
  match (s.core core).tileOps.find? (fun o => o.id == id) with
  | none => .next s
  | some o =>
    let s := s.updCore core (fun k => k.finishTile o)
    .next (match o.gang with | some e => s.shareEnd e false | none => s)

/-- R177: GANG_STATUS_DEPOSIT: the fail bits of a gang, and those of partners whose task died, join the phase's status, and the
phase no longer waits for the gang. -/
def execGangStatusDeposit (gid gang : Nat) (s : State) : Out :=
  match s.gangs.find? (fun g => g.id == gang) with
  | none => .next s
  | some x =>
    let first (g : Group) : List Nat := (g.barrier x.bix).dead
    let s := { s with gangs := s.gangs.filter (fun g => g.id != gang) }
    .next (((s.sinkOf gid 0).updGroup gid (fun g =>
      let b := g.barrier x.bix
      let dead := (first g).foldl (fun (m : BitVec 32) n =>
        (List.range 32).foldl (fun (m : BitVec 32) p => if p < x.count && g.coreAt (x.first + p) == n then m ||| BitVec.ofNat 32 (2 ^ p) else m) m) 0
      g.setBarrier x.bix { b with mcstat := b.mcstat ||| x.fails ||| dead, gangs := b.gangs - 1 })).checkBarriers gid)

/-! ## One cycle of the tile units -/

/-- R158, R172: rows of a TRDA written, where `rest` are the rows still to be written after them. The tiles hold what ascending order
leaves: a row goes after the lower rows at its address, and not after a higher one there. -/
def State.writeRows (s : State) (core : Nat) (o : TileOp) (rest : List Nat) : List Nat → State
  | [] => s
  | r :: rows =>
    let same := (List.range 32).filter (fun q => rowAddr o.d1 o.d2 q == rowAddr o.d1 o.d2 r)
    let left (q : Nat) : Bool := rows.contains q || rest.contains q
    let put (s : State) (q : Nat) : State := s.storeRow core (rowAddr o.d1 o.d2 q) (tyWidth o.f.type) o.cols (o.narrow q)
    let s := if same.any (fun q => decide (r < q) && !left q) then s
      else put ((same.filter (fun q => decide (q < r) && left q)).foldl put s) r
    s.writeRows core o rest rows

/-- R159, R166, R172, R176: what a tile operation's requests of a cycle do: rows of a TRDA are written, a malformed block aborts a share and
releases its array, and after the last access the store that waits for it is performed. -/
def State.tileAccess (s : State) (core : Nat) (o : TileOp) : State :=
  let rows := (o.sched.filter (fun a => a.1 == s.cycle)).flatMap (·.2)
  let e := { o with sched := o.sched.filter (fun a => a.1 != s.cycle) }
  let k := s.core core
  match o.gang, o.bad.filter rows.contains with
  | some g, some r =>
    let s := s.setCore core { k with tileOps := k.tileOps.filter (fun x => x.id != o.id), units := tset k.units 0 0 (s.cycle + 1) }
    s.shareAbort core g 3 2 (rowAddr o.d1 o.d2 r)
  | _, _ =>
    let last := e.sched.isEmpty
    let e := if last then { e with store := none } else e
    let s := s.setCore core { k with tileOps := k.tileOps.map (fun x => if x.id == o.id then e else x) }
    let s := match o.store with
      | some w => if last then s.spWrite core (s.cycle + 1) w else s
      | none => s
    if o.kind = .trda then s.writeRows core o (e.sched.flatMap (·.2)) rows else s

/-- The requests of the tile operations of a core served in this cycle, in issue order. -/
def State.tileCore (s : State) (core : Nat) : State :=
  (s.core core).tileOps.foldl (fun s o => if o.sched.any (fun a => a.1 == s.cycle) then s.tileAccess core o else s) s

/-- One cycle of the tile units of every core. -/
def State.tileTick (s : State) : State :=
  (s.cores.entries.filter (fun e => !e.2.tileOps.isEmpty)).foldl (fun s e => s.tileCore e.1) s

end Sys2Proof.Machine
end

