-- ==== Sys2Proof/Machine/Described.lean ====
section
/-! DEFINITION. Described blocks (R109 to R114): the formats and their codes, what a block decodes to, and how elements are
encoded into one. -/

namespace Sys2Proof.Machine

open Sys2Proof

/-- R109: the format of a code; untyped is none inside. -/
def blockFormat (code : Nat) : Option (Option Ty) :=
  match code with
  | 0x00 => some none
  | 0x08 => some (some .f64) | 0x10 => some (some .f32) | 0x11 => some (some .bf16) | 0x12 => some (some .f16)
  | 0x20 => some (some .e4m3) | 0x21 => some (some .e5m2) | 0x30 => some (some .i8) | 0x40 => some (some .i4x)
  | 0x41 => some (some .int4) | _ => none

/-- R109: the code of a format, if it has one. -/
def blockCode (t : Ty) : Option Nat :=
  match t with
  | .f64 => some 0x08 | .f32 => some 0x10 | .bf16 => some 0x11 | .f16 => some 0x12 | .e4m3 => some 0x20 | .e5m2 => some 0x21
  | .i8 => some 0x30 | .i4x => some 0x40 | .int4 => some 0x41
  | .i64 | .i32 | .i16 | .u64 | .u32 | .u16 | .u8 => none

/-- R109: the elements of a block. -/
def blockElems (t : Ty) : Nat :=
  match t with | .f64 => 7 | .f32 => 15 | .bf16 | .f16 => 31 | .i4x | .int4 => 124 | _ => 62

/-- R110: the nibble position of element j of a 4-bit block. -/
def nibblePos (j : Nat) : Nat := 31 * (j % 4) + j / 4

/-- R109, R110: the element codes of a block's payload. -/
def blockCodes (t : Ty) (b : Nat) : List Nat :=
  let p := b / 65536
  let w := tyWidth t
  (List.range (blockElems t)).map (fun k => if w = 4 then p / 16 ^ nibblePos k % 16 else p / 2 ^ (w * k) % 2 ^ w)

/-- R112: the FMTERR subcode of a malformed block. -/
def blockFault (b : Nat) : Option Nat :=
  match blockFormat (b % 256) with
  | none => some 1
  | some none => none
  | some (some t) =>
    if b / 65536 / 2 ^ (tyWidth t * blockElems t) != 0 then some 3
    else if t = .i4x && i4xBad (blockCodes t b) 0 then some 2 else none

/-- The nibbles of a code of a width, low first. -/
def codeNibbles (w c : Nat) : List Nat := nibbles (w / 4) c

/-- R111: an element's value times a power of two. -/
def scaleElem (x : Elem) (e : Int) : Elem :=
  match x with
  | .int n => match Fp.ofInt n with
    | .fin s m q => .fp (.fin s m (q + e))
    | v => .fp v
  | .fp (.fin s m q) | .outlier (.fin s m q) => .fp (.fin s m (q + e))
  | x => x

/-- R98: an I4X code, an outlier being 256 and more, as an element. -/
def i4xElem (c : Nat) : Elem :=
  if 256 ≤ c then (if fpIsNan .e4m3 (c - 256) then .nanOf .e4m3 (c - 256) else .fp (fpDecode .e4m3 (c - 256))) else .int (intOf true 4 c)

/-- The elements of a format's codes (R98 for I4X). -/
def codesElems (t : Ty) (codes : List Nat) : List Elem :=
  if t = .i4x then (i4xCodes codes 0 0).map (fun e => i4xElem e.1) else codes.map (elemOf t false)


/-- R111: the 4-bit slots that a block gives in a bare format. -/
def decodeBlock (fmt : Ty) (b : Nat) : List Nat :=
  match blockFormat (b % 256) with
  | none => []
  | some none => nibbles 124 (b / 65536)
  | some (some t) =>
    let scale := b / 256 % 256
    let codes := blockCodes t b
    let w := tyWidth fmt
    if t = fmt && scale = 0x7F then codes.flatMap (codeNibbles w)
    else
      let els := if scale = 0xFF then codes.map (fun _ => Elem.fp .nan) else (codesElems t codes).map (fun x => scaleElem x ((scale : Int) - 127))
      els.flatMap (fun x => codeNibbles w (cvtCanon fmt .engine x))

/-- R113: the largest finite value of a format. -/
def blockMax (t : Ty) : Fp :=
  match t with
  | .i8 => .ofInt 127
  | .i4x | .int4 => .ofInt 7
  | t => fpDecode t (fpMaxFinite t false)

/-- The magnitude of a finite element. -/
def elemMag (x : Elem) : Option Fp :=
  match x.val with | .fin _ m q => some (.fin false m q) | _ => none

/-- R113: the exponent of max-abs. -/
def maxAbsExp (t : Ty) (els : List Elem) : Int :=
  let a := (els.filterMap elemMag).foldl (fun m x => if fpMagLt m x then x else m) (.fin false 0 0)
  match a with
  | .fin _ 0 _ => 0
  | _ =>
    let fits (e : Int) : Bool := match blockMax t with | .fin _ m q => !fpMagLt (.fin false m (q + e)) a | _ => true
    match (List.range 255).find? (fun (i : Nat) => fits ((i : Int) - 127)) with
    | some i => (i : Int) - 127
    | none => 127

/-- R113: a block encoded from elements of a format, with a given exponent or by max-abs. -/
def encodeBlock (t : Ty) (given : Option Int) (els : List Elem) : Nat :=
  let code := (blockCode t).getD 0
  let e := given.getD (maxAbsExp t els)
  let isNan (x : Elem) : Bool := match x with | .nanOf _ _ | .fp .nan | .outlier .nan => true | _ => false
  if !tyIsFloat t && els.any isNan then code + 256 * 0xFF
  else
    let w := tyWidth t
    let put (x : Elem) : Nat := if isNan x then fpCanonNan t else cvtElem t .engine (scaleElem x (-e))
    let payload := els.zipIdx.foldl (fun acc p =>
      acc + put p.1 % 2 ^ w * (if w = 4 then 16 ^ nibblePos p.2 else 2 ^ (w * p.2))) 0
    code + 256 * (e + 127).toNat + 65536 * payload

end Sys2Proof.Machine
end

