-- ==== Sys2Proof/Machine/Engines.lean ====
section
/-! DEFINITION. The engines of a core (R204, R206, R240 to R250, R361): semaphores, queues, the accesses that a command makes, the
copy and index engines, ownership flips, and completion words. -/

namespace Sys2Proof.Machine

open Sys2Proof

/-! ## Semaphores (R59, R248, R249) -/

/-- Semaphore n of a core. -/
def Core.sem (k : Core) (n : Nat) : Nat := tget k.sems 0 n

/-- R59: an increment of a semaphore; past 65,535 it stays there and its saturation bit is set. -/
def Core.semAdd (k : Core) (n x : Nat) : Core :=
  if k.sem n + x ≤ 65535 then { k with sems := tset k.sems 0 n (k.sem n + x) }
  else { k with sems := tset k.sems 0 n 65535, semSat := k.semSat ||| BitVec.ofNat 256 (2 ^ n) }

/-- R59: an amount subtracted by a wait. -/
def Core.semSub (k : Core) (n x : Nat) : Core := { k with sems := tset k.sems 0 n (k.sem n - x) }

/-- R248: an increment sent by a core: at once to its own semaphore, or over Gust to a core of its group. -/
def State.semSend (s : State) (core order : Nat) (remote : Option Nat) (sem inc : Nat) (delay : Nat) : State :=
  match remote with
  | none => s.updCore core (fun k => k.semAdd sem inc)
  | some i =>
    let target := s.relCore core i
    s.send delay order (pathToCore s.ctl core target) 1 2 rkSem target (.remoteSemsArrival target sem inc)

/-- R248, R298: REMOTE_SEMS_ARRIVAL: a remote increment joins its cycle's increments at the target, and is a sink of its group. A
core's own increment that came through a port is no sink: it names its semaphore with 256 added. -/
def execRemoteSemsArrival (core sem inc : Nat) (s : State) : Out :=
  .next ((if sem < 256 then s.sink core 0 else s).updCore core (fun k => k.semAdd (sem % 256) inc))

/-- R248: whether the operands of a SEMS are refused. -/
def State.semsBad (s : State) (core : Nat) (remote : Bool) (a b c : Nat) : Bool :=
  255 < a || 65535 < b || (if remote then s.groupSize core ≤ c else c != 0)

/-- R248: SEMS adds to a semaphore of its core at retirement. (DEDUCED, log entries 16, 72). -/
def execSems (f : EF) (s : State) : Out :=
  let a := (s.readS f.a .i64).1.toNat
  let b := (s.readS f.b .i64).1.toNat
  let i := s.issue
  if s.semsBad i.core false a b 0 then .next (s.slotTrap (tOpnd i.slot))
  else if anyPort [f.a, f.b] then .next (s.at 3 rkSem i.core (.remoteSemsArrival i.core (256 + a) b))
  else .next (s.semSend i.core i.ctx none a b 0)

/-- R248: SEMS.rem sends an increment to another core of the group. -/
def execSemsRem (f : EF) (s : State) : Out :=
  let a := (s.readS f.a .i64).1.toNat
  let b := (s.readS f.b .i64).1.toNat
  let c := (s.readS f.c .i64).1.toNat
  let i := s.issue
  if s.semsBad i.core true a b c then .next (s.slotTrap (tOpnd i.slot))
  else .next (s.semSend i.core i.ctx (some c) a b (if anyPort [f.a, f.b, f.c] then 3 else 0))

/-- R249: SEMW waits until a semaphore reaches a threshold, and subtracts it; the header's wait of the bundle has been
subtracted before. (DEDUCED, log entry 72). -/
def execSemw (f : EF) (s : State) : Out :=
  let a := (s.readS f.a .i64).1.toNat
  let b := (s.readS f.b .i64).1.toNat
  let i := s.issue
  if 255 < a || 65535 < b || b = 0 then .next (s.slotTrap (tOpnd i.slot))
  else if (s.core i.core).sem a < b then .next (s.slotBlock (.sem a b))
  else .next (s.updCore i.core (fun k => k.semSub a b))

/-! ## Commands (R240, R244, R245) -/

/-- R240: the engine of a kind of command, and its queue's entries. -/
def engineOf (k : CmdKind) : Nat := match k with | .cpy => 0 | .gath | .scat => 1 | .coll => 2 | .cmpl | .migr => 3
def engineCap (e : Nat) : Nat := if e < 2 then 16 else if e = 2 then 4 else 8

/-- Engine e of a core. -/
def Core.engine (k : Core) (e : Nat) : Engine := tget k.engines .idle e
def Core.setEngine (k : Core) (e : Nat) (x : Engine) : Core := { k with engines := tset k.engines .idle e x }

/-- R240: whether an engine's queue is full; a command that has started has left it. (DEDUCED, log entry 74). -/
def Core.engineFull (k : Core) (e : Nat) : Bool := engineCap e ≤ ((k.engine e).queue.filter (fun c => !c.started)).length

/-- R244: fields of a copy descriptor. -/
def cpyByte (d : Line) (i : Nat) : Nat := d.toNat / 256 ^ i % 256
def cpyRun (d : Line) : Nat := d.toNat % 2 ^ 32
def cpyDims (d : Line) : Nat := cpyByte d 4
def cpyFmt (d : Line) : Ty := .ofBits (BitVec.ofNat 4 (cpyByte d 5))
def cpyCount (d : Line) (k : Nat) : Nat := d.toNat / 256 ^ (8 + 10 * k) % 2 ^ 16 + 1
def cpyStride (d : Line) (k : Nat) (target : Bool) : Int :=
  intOf true 32 (d.toNat / 256 ^ (8 + 10 * k + if target then 6 else 2) % 2 ^ 32)

/-- R244: a descriptor that traps. (DEDUCED, log entries 21, 22). -/
def cpyBad (d : Line) : Bool :=
  cpyRun d == 0 || 2 ^ 20 < cpyRun d || 5 < cpyDims d || d.toNat / 256 ^ 58 != 0
    || (d.toNat / 256 ^ (8 + 10 * cpyDims d) != 0 && cpyDims d < 5) || 15 < cpyByte d 5 || 1 < cpyByte d 6 || cpyByte d 7 == 128

/-- R244: the number of runs of a copy, and the addresses of a run, the innermost dimension fastest. -/
def cpyRuns (d : Line) : Nat := (List.range (cpyDims d)).foldl (fun n k => n * cpyCount d k) 1
def cpyAddr (d : Line) (base : Word) (run : Nat) (target : Bool) : Nat :=
  ((List.range (cpyDims d)).foldl (fun (p : Int × Nat) k =>
    (p.1 + ((p.2 % cpyCount d k : Nat) : Int) * cpyStride d k target, p.2 / cpyCount d k)) ((base.toNat : Int), run)).1.emod (2 ^ 64) |>.toNat

/-- R245: whether an address lies in a described range. -/
def describedAt (rng : Tbl Word) (a : Nat) : Bool :=
  0x100000 ≤ a && (match rangeXl rng a 1 needNone with | .ok x => x.desc | .error _ => false)

/-- R245: the described sides of a copy: source, target. -/
def Cmd.sides (c : Cmd) : Bool × Bool := (describedAt c.rng c.b.toNat, describedAt c.rng c.c.toNat)

/-- R245: whether a copy converts, and which side is described. -/
def Cmd.decodes (c : Cmd) : Bool := c.sides.1 && !c.sides.2
def Cmd.encodes (c : Cmd) : Bool := c.sides.2 && !c.sides.1

/-- R245: a copy with a described side that traps at issue: its base, or a stride of either side, off its blocks, or a format without a code. (DEDUCED, log entries 21, 22). -/
def Cmd.descBad (c : Cmd) : Bool :=
  let strides : Bool := (List.range (cpyDims c.desc)).any (fun k => cpyStride c.desc k false % 64 != 0 || cpyStride c.desc k true % 64 != 0)
  (c.decodes && (c.b.toNat % 64 != 0 || strides || (blockCode (cpyFmt c.desc)).isNone))
    || (c.encodes && (c.c.toNat % 64 != 0 || strides || (blockCode (cpyFmt c.desc)).isNone))

/-- R245: SZ and COUNT of a GATH or SCAT. -/
def gathSize (f : EF) : Nat := 2 ^ (f.cmd.toNat / 2 ^ 13)
def gathCount (f : EF) : Nat := f.cmd.toNat % 2 ^ 13 + 1

/-- R246: the count and the type of a COLL. -/
def collCount (c : Word) : Nat := c.toNat % 2 ^ 32
def collTy (f : EF) : Ty := .ofBits (BitVec.ofNat 4 (f.cmd.toNat / 32))

/-- The spans of addresses that a command can touch, from its lowest byte to past its highest: source and target. -/
def Cmd.spans (c : Cmd) : List (Nat × Nat) :=
  match c.kind with
  | .cpy =>
    let side (base : Word) (t described : Bool) : Nat × Nat :=
      let ext := (List.range (cpyDims c.desc)).foldl (fun (p : Int × Int) k =>
        let m := ((cpyCount c.desc k - 1 : Nat) : Int) * cpyStride c.desc k t
        if m < 0 then (p.1 + m, p.2) else (p.1, p.2 + m)) (0, 0)
      let len := if described then 64 * (cpyRun c.desc * 8 / tyWidth (cpyFmt c.desc) + 1) else cpyRun c.desc
      (((base.toNat : Int) + ext.1).toNat, ((base.toNat : Int) + ext.2).toNat + len)
    [side c.b false c.decodes, side c.c true c.encodes]
  | .gath | .scat => [(c.b.toNat, c.b.toNat + 2 ^ 32 * gathSize c.f), (c.c.toNat, c.c.toNat + gathCount c.f * gathSize c.f)]
  | .coll =>
    let n := collCount c.c * tyWidth (collTy c.f) / 8
    [(c.a.toNat, c.a.toNat + n), (c.b.toNat, c.b.toNat + 1024 * n)]
  | .cmpl => [(c.a.toNat, c.a.toNat + 8)]
  | .migr => []

/-- The IAs of this package that a span of addresses reaches through a range set. -/
def iaSpan (rng : Tbl Word) (p : Nat × Nat) : Option (Nat × Nat) :=
  if p.1 < 0x100000 then none
  else match rangeXl rng p.1 1 needNone with
    | .error _ => none
    | .ok x => if x.rmt || x.host then none else some (x.ia, x.ia + (p.2 - p.1))

/-- R361: the registered buffers that a command touches. -/
def State.cmdBuffers (s : State) (c : Cmd) : List Nat :=
  let l := c.spans.filterMap (iaSpan c.rng)
  (s.ctl.buffers.entries.filter (fun e =>
    let lo := e.2.1.toNat / 64 % 2 ^ 51 * 64
    let hi := lo + 64 * (e.2.2.toNat % 2 ^ 38)
    e.2.2.getLsbD 63 && l.any (fun p => p.1 < hi && lo < p.2))).map (·.1)

/-- Word 1 of a registered buffer with BUSY changed. -/
def State.addBusy (s : State) (k : Nat) (up : Bool) : State :=
  let b := tget s.ctl.buffers (0, 0) k
  let n := bufBusy b.2
  let m := if up then n + 1 else n - 1
  let w := BitVec.ofNat 64 (b.2.toNat - n * 2 ^ 47 + m * 2 ^ 47)
  { s with ctl := { s.ctl with buffers := tset s.ctl.buffers (0, 0) k (b.1, w) } }

/-- R361: whether a command must wait at entry for a registered buffer. -/
def State.bufferHeld (s : State) (l : List Nat) : Bool :=
  l.any (fun k => let w := (tget s.ctl.buffers (0, 0) k).2; w.getLsbD 62 || bufBusy w == 32767)

/-- R240, R361: a command enters its queue. (DEDUCED, log entry 74). -/
def State.enqueue (s : State) (core : Nat) (c : Cmd) : State :=
  let e := engineOf c.kind
  let l := s.cmdBuffers c
  let k := s.core core
  let s := s.setCore core { k.setEngine e { k.engine e with queue := (k.engine e).queue ++ [{ c with num := k.num + 1, bufs := l }] } with num := k.num + 1 }
  let s := l.foldl (fun s b => s.addBusy b true) s
  if (k.engine e).queue.isEmpty then s.at (max (c.entered + 4) ((k.engine e).lastAccess + 1) - s.cycle) rkEngine (core * 8 + e) (.engineCommandStart core e) else s

/-- A command as its slot makes it (R204). (DEDUCED, log entry 16). -/
def State.slotCmd (s : State) (kind : CmdKind) (f : EF) (delay : Nat) : Cmd :=
  let x := s.start
  let i := s.issue
  let b := s.readS f.b .i64
  { num := 0, kind, ctx := i.ctx, epoch := x.epoch, id := 0, dst := s.dst f.dst, walker := false, f, a := (s.readS f.a .i64).1, b := b.1,
    c := (s.readS f.c .i64).1, bPoison := b.2, desc := 0, rng := x.sr.rng, asid := x.sr.asid, detmode := x.sr.detmode, taskId := x.sr.taskId,
    jobId := x.sr.jobId, entered := s.cycle + delay, started := false, status := 0, run := 0, off := 0, blk := 0, outRun := 0, outOff := 0, outBlk := 0,
    raw := [], buf := [], idx := [], reads := [], flights := [], acks := [], heldReqs := [], badTag := none, finish := 0, bufs := [],
    held := false, bundle := i.bundle, pc := i.pc }

/-- R92, R240, R361: a command issued by a slot: its context blocks while its queue is full or a buffer holds it back; its token is
reserved, and its bundle counts it. (DEDUCED, log entry 16). -/
def State.issueCmd (s : State) (c : Cmd) (token : Bool) : State :=
  let i := s.issue
  let e := engineOf c.kind
  if (s.core i.core).engineFull e then s.slotBlock (.engine e)
  else if s.bufferHeld (s.cmdBuffers c) then s.slotBlock (.engine 32)
  else
    let r := if token then s.reserveFor false c.dst else (0, s)
    let s : State := { r.2 with issue := { i with cmds := i.cmds + 1 } }
    s.enqueue i.core { c with id := r.1 }

/-- R244: CPY reads its descriptor in its issue cycle, or in the next in which its bank serves it, and enters the copy queue in
the cycle after. -/
def execCpy (f : EF) (s : State) : Out :=
  let i := s.issue
  let a := s.readS f.a .i64
  let b := s.readS f.b .i64
  let c := s.readS f.c .i64
  let va := a.1.toNat
  if a.2 || b.2 || c.2 then .next (s.slotKill 1)
  else if va % 64 ≠ 0 || 0x100000 < va + 64 then .next (s.slotTrap (tOpnd i.slot))
  else
    let k := s.core i.core
    match k.meets s.cycle va 64 false with
    | .wait => .next s.slotStall
    | .own a => .next (s.slotTrap (tTileOwn a))
    | .ok =>
      let v := k.spRead va 64
      let g := k.serve s.cycle s.cycle [tileOf va]
      let cyc := g.1
      let d : Line := BitVec.ofNat 512 v.1
      let c := { s.slotCmd .cpy f (cyc + 1 - s.cycle + if anyPort [f.a, f.b, f.c] then 3 else 0) with desc := d }
      if v.2 != 0 then .next (s.slotKill 1)
      else if cpyBad d || c.descBad then .next (s.slotTrap (tOpnd i.slot))
      else
        let s := (s.setCore i.core g.2).updCtx i.core i.ctx (fun x => { x with readyAt := max x.readyAt (cyc + 1) })
        .next (s.issueCmd c true)

/-- R245: GATH and SCAT, whose index list lies in the window. -/
def State.indexOp (s : State) (kind : CmdKind) (f : EF) : State :=
  let i := s.issue
  let a := s.readS f.a .i64
  let b := s.readS f.b .i64
  let c := s.readS f.c .i64
  let va := a.1.toNat
  if a.2 || b.2 || c.2 then s.slotKill 1
  else if va % 4 ≠ 0 || 0x100000 < va + 4 * gathCount f then s.slotTrap (tOpnd i.slot)
  else s.issueCmd (s.slotCmd kind f (if anyPort [f.a, f.b, f.c] then 3 else 0)) true

/-- R245: GATH. -/
def execGath (f : EF) (s : State) : Out := .next (s.indexOp .gath f)
/-- R245: SCAT. -/
def execScat (f : EF) (s : State) : Out := .next (s.indexOp .scat f)

/-- R250: CMPL enqueues the write of a completion word. -/
def execCmpl (f : EF) (s : State) : Out :=
  let i := s.issue
  let a := s.readS f.a .i64
  let b := s.readS f.b .i64
  let va := a.1.toNat
  if a.2 then .next (s.slotKill 1)
  else if b.2 then .next (s.slotKill 3)
  else if va % 8 ≠ 0 then .next (s.slotTrap (tOpnd i.slot))
  else match s.place va 8 needW false with
    | .trap t => .next (s.slotTrap t)
    | _ => .next (s.issueCmd (s.slotCmd .cmpl f (if anyPort [f.a, f.b] then 3 else 0)) false)

/-! ## The accesses of engines (R241, R242) -/

/-- What an engine access meets. -/
inductive EAns where
  /-- made, or sent to its home -/
  | ok
  | wait
  | fail (cls sub : Nat)
  | hold (sub : Nat) (x : Xl)
  deriving DecidableEq, Repr

/-- R241, R247: what a window access of a command meets: a flip issued before the command is waited for, the tile must be
engine-owned, and the bank free. -/
def Core.engMeets (k : Core) (now num a n : Nat) : EAns :=
  let t := tileOf a
  if k.flips.any (fun f => f.first ≤ t && t < f.first + f.count && f.num < num) then .wait
  else if !k.engOwned t then .fail 5 0
  else if !k.banksFree now (tilesOf a n) then .wait
  else .ok

/-- R241: n bytes of the window read by a command, if it may. -/
def State.winRead (s : State) (core : Nat) (c : Cmd) (va n : Nat) : (EAns × List (Byte × Bool)) × State :=
  let k := s.core core
  match k.engMeets s.cycle c.num va n with
  | .ok =>
    let v := k.spRead va n
    ((.ok, bytesOf n va v.1 v.2), s.setCore core (k.grant s.cycle s.cycle (tilesOf va n)))
  | r => ((r, []), s)

/-- The path of a shared access, what it pays beyond it, and the fault that it meets by the table as it stands: R242 leaves what follows a
failing access unmade, so the table is looked at before an access is sent. (DESIGN CHOICE, log entry 83). -/
def State.engRoute (s : State) (core : Nat) (x : Xl) (nd : Need) : Except Nat (Path × Nat) × State :=
  match s.routeOf core x with
  | (.error f, s) => (.error f, s)
  | (.ok (p, extra), s) => match s.homeFault (pathBay p) x nd with
    | some f => (.error f, s)
    | none => (.ok (p, extra), s)

/-- R353: what a fault of a shared access is to its engine. (DESIGN CHOICE, log entry 83). -/
def engStop (f : Nat) (x : Xl) : EAns := if holdsEngine f then .hold f x else .fail 8 f

/-- A command with a failure that it meets when what it has asked for before has come. -/
def Cmd.spoil (c : Cmd) (va cls sub : Nat) : Cmd := { c with reads := c.reads ++ [⟨0, va, 0, 0, 0, none, some (cls, sub)⟩] }

/-- R241: n bytes of one line asked for by a command, which go to an address. (DEDUCED, log entry 16). -/
def State.engAsk (s : State) (core e : Nat) (c : Cmd) (va n to_ : Nat) : EAns × Cmd × State :=
  if va + n ≤ 0x100000 then
    match s.winRead core c va n with
    | ((.ok, bytes), s) => (.ok, { c with reads := c.reads ++ [⟨0, va, n, to_, s.cycle + 1, some bytes, none⟩] }, s)
    | ((r, _), s) => (r, c, s)
  else match rangeXl c.rng va n needR with
    | .error f => (.fail 7 f, c, s)
    | .ok x => match s.engRoute core x needR with
      | (.error f, s) => (engStop f x, c, s)
      | (.ok (path, extra), s) =>
        let m := s.next
        let r : ReadReq := { core, ctx := c.ctx, epoch := c.epoch, load := m.1, xl := x, evp := 0, view := 0, path := path, replay := false
                             eng := some (e, c.num)
                             priv := (s.ctx core c.ctx).sr.priv.toNat }
        (.ok, { c with reads := c.reads ++ [⟨m.1, va, n, to_, 0, none, none⟩] }, m.2.toHome core (unitEng e) x.ia path extra (.bayReadRequest r))

/-- The bytes of a run within one line as a line, its mask and its words' poison. -/
def lineOfBytes (o : Nat) (bytes : List (Byte × Bool)) : Line × BitVec 64 × BitVec 8 :=
  (BitVec.ofNat 512 (bytes.foldr (fun b acc => b.1.toNat + 256 * acc) 0 * 256 ^ o), byteMask o bytes.length,
    BitVec.ofNat 8 ((List.range 8).foldr (fun k acc =>
      (if bytes.zipIdx.any (fun b => b.1.2 && (o + b.2) / 8 == k) then 1 else 0) + 2 * acc) 0))

/-- R330, R336: bytes of a line that a deterministic task's command writes, staged: in the interval that ended with the command still to come,
or in the task's segment, where no room is a CONFLICT LOGFULL. (DEDUCED, log entry 63). -/
def State.stage (s : State) (core : Nat) (c : Cmd) (va : Nat) (y : Xl) (l : Line × BitVec 64 × BitVec 8) : State :=
  let mine (t : MergeTask) : Bool := t.ident == 4 * core + c.ctx && t.cmds.contains c.detKey
  let x := s.ctx core c.ctx
  if s.merges.any (fun m => m.tasks.any mine) then
    let p : LogPkt := { core, ctx := c.ctx, epoch := c.epoch, pos := 2 ^ 64, w := ⟨y, l.1, l.2.1, l.2.2⟩, key := ⟨0, 0, 0, 0, 0⟩, va,
                        taskid := c.taskId.toNat, path := [], replay := false, host := false, priv := x.sr.priv.toNat }
    let put (t : MergeTask) : MergeTask := if mine t then { t with entries := t.entries ++ [p] } else t
    { s with merges := s.merges.map (fun m => { m with tasks := m.tasks.map put }) }
  else if x.epoch != c.epoch || x.status == .idle then s
  else if !(s.core core).logRoom (x.opens [y]) then s.logFull core c.ctx y.ia
  else s.logStore core c.ctx va y l.1 l.2.1 l.2.2

/-- R241, R330: bytes of one line written by a command: in the window, sent to their home, or, of a deterministic task, staged.
(DEDUCED, log entry 18). -/
def State.engWrite (s : State) (core e : Nat) (c : Cmd) (va : Nat) (bytes : List (Byte × Bool)) : EAns × Cmd × State :=
  let n := bytes.length
  if va + n ≤ 0x100000 then
    let k := s.core core
    match k.engMeets s.cycle c.num va n with
    | .ok =>
      let l := lineOfBytes (va % 64) bytes
      let s := s.setCore core (k.grant s.cycle s.cycle (tilesOf va n))
      (.ok, c, s.spStore core va n (l.1.toNat / 256 ^ (va % 64)) (l.2.2.toNat / 2 ^ (va % 64 / 8)))
    | r => (r, c, s)
  else match rangeXl c.rng va n needW with
    | .error f => (.fail 7 f, c, s)
    | .ok x =>
      let l := lineOfBytes (x.ia % 64) bytes
      if x.host && bytes.any (·.2) then (.fail 0x11 0, c, s)
      else if c.detmode.getLsbD 0 then (.ok, c, s.stage core c va (xlAt x (x.ia / 64 * 64)) l)
      else match s.engRoute core x needW with
      | (.error f, s) => (engStop f x, c, s)
      | (.ok (path, extra), s) =>
        let m := s.next
        let p : LogPkt := { core, ctx := c.ctx, epoch := c.epoch, pos := m.1, w := ⟨x, l.1, l.2.1, l.2.2⟩,
                            key := ⟨s.seqOf (coreDie core), 0, 0, 0, 0⟩, va,
                            taskid := c.taskId.toNat, path, replay := false, host := false, priv := (s.ctx core c.ctx).sr.priv.toNat,
                            eng := some (e, c.num) }
        (.ok, { c with acks := c.acks ++ [m.1] }, m.2.toHome core (unitEng e) x.ia path extra (.logEntryArrival p))

/-! ## Running a command (R240 to R243) -/

/-- The head of an engine's queue replaced. -/
def State.setHead (s : State) (core e : Nat) (c : Cmd) : State :=
  s.updCore core (fun k => k.setEngine e { k.engine e with queue := c :: (k.engine e).queue.drop 1 })

/-- The next cycle of an engine's command. -/
def State.again (s : State) (core e : Nat) : State := s.at 1 rkEngine (core * 8 + e) (.engineCommandStart core e)

/-- R115, R242: a command that fails: its later accesses are not made. A fault at home is recorded, and so is a malformed block of the copy
engine, by its IA; poison bound for a HOST range kills the issuing task. (DEDUCED, log entry 22). -/
def State.engFail (s : State) (core e : Nat) (c : Cmd) (cls sub va : Nat) : State :=
  let c := { c with status := failToken cls sub, reads := [] }
  let s := s.setHead core e c
  let s := if cls = 8 || (cls = 3 && c.kind = .cpy) then
      match rangeXl c.rng va 1 needNone with
      | .ok x =>
        let r := s.memRecord core c.ctx 2 e sub x va c.taskId.toNat 0 6 none
        s.record { r with word0 := ringWord0 e s.pkgId core c.ctx 2 0 sub cls } (recOrder core c.ctx e)
      | .error _ => s
    else s
  let x := s.ctx core c.ctx
  let s := if cls = 0x11 && x.epoch = c.epoch && x.status == .running then s.kill core c.ctx 2 (tPoison 3) x.pc 0x11 else s
  s.again core e

/-- R241: a held access holds its whole command, with a record. -/
def State.engHold (s : State) (core e : Nat) (c : Cmd) (sub : Nat) (x : Xl) (va : Nat) : State :=
  (s.setHead core e { c with held := true }).record
    (s.memRecord core c.ctx 2 e sub x va c.taskId.toNat 0 6 (some (.engine core e))) (recOrder core c.ctx e)

/-- R240, R243: a command that has made its last access leaves its engine, and completes when its last write has performed or been
acknowledged. -/
def State.endCmd (s : State) (core e : Nat) (c : Cmd) : State :=
  let finish := s.cycle + 1
  let k := s.core core
  let g := k.engine e
  let rest := g.queue.drop 1
  let s := s.setCore core (k.setEngine e { queue := rest, ending := g.ending ++ [{ c with finish }], lastAccess := s.cycle })
  let s := s.at 1 rkSem (core * 8 + e) (.engineCommandComplete core e)
  match rest with
  | [] => s
  | n :: _ => s.at (max (n.entered + 4) (s.cycle + 1) - s.cycle) rkEngine (core * 8 + e) (.engineCommandStart core e)

/-- A piece of at most 64 bytes within one line on each side. -/
def pieceLen (left s t : Nat) : Nat := min left (min (64 - s % 64) (64 - t % 64))

/-- Bytes cut at the lines of their target. -/
def cutLines : Nat → Nat → List (Byte × Bool) → List (Nat × List (Byte × Bool))
  | 0, _, _ => []
  | _, _, [] => []
  | n + 1, va, bytes =>
    let m := 64 - va % 64
    (va, bytes.take m) :: cutLines n (va + m) (bytes.drop m)

/-- 4-bit slots paired into bytes; an odd one is left. -/
def slotBytes : List (Nat × Bool) → List (Byte × Bool) × List (Nat × Bool)
  | a :: b :: rest => let r := slotBytes rest; ((BitVec.ofNat 8 (a.1 + 16 * b.1), a.2 || b.2) :: r.1, r.2)
  | l => ([], l)

/-- Bytes as 4-bit slots. -/
def bytesSlots (l : List (Byte × Bool)) : List (Nat × Bool) := l.flatMap (fun x => [(x.1.toNat % 16, x.2), (x.1.toNat / 16, x.2)])

/-! ### What comes (R111, R113, R245) -/

/-- R111, R245: a block of a described source that has come: it is checked, decoded, and its bytes follow those of the run's earlier blocks,
`outOff` of them. -/
def Cmd.takeBlock (c : Cmd) (now va : Nat) (bytes : List (Byte × Bool)) : Except (Nat × Nat × Nat) Cmd :=
  let b := bytes.foldr (fun x acc => x.1.toNat + 256 * acc) 0
  match blockFault b with
  | some f => .error (3, f, va)
  | none =>
    let po := bytes.any (·.2)
    let all := c.buf ++ (decodeBlock (cpyFmt c.desc) b).map (fun x => (x, po))
    let r := slotBytes (all.take (2 * (cpyRun c.desc - c.outOff)))
    let ta := cpyAddr c.desc c.c c.outRun true + c.outOff
    let fl := (cutLines 17 ta r.1).map (fun p => (⟨now, p.1, p.2⟩ : Flight))
    let off := c.outOff + r.1.length
    if cpyRun c.desc ≤ off then
      .ok { c with flights := c.flights ++ fl, run := c.run + 1, blk := 0, outRun := c.outRun + 1, outOff := 0, buf := [] }
    else .ok { c with flights := c.flights ++ fl, outOff := off, buf := r.2 }

/-- R98, R99, R113: the slots that have come of a copy to a described target made elements; those of a bare I4X run by 64-byte blocks counted
from the run's start, of which a shorter one ends the run: a marker in a block's last two slots fails. (DESIGN CHOICE, log entry 84). -/
def Cmd.takeSlots : Nat → Cmd → Except (Nat × Nat × Nat) Cmd
  | 0, c => .ok c
  | n + 1, c =>
    if cpyFmt c.desc ≠ .i4x then .ok { c with buf := c.buf ++ c.raw, raw := [] }
    else if c.raw.isEmpty || (c.raw.length < 128 && c.outOff < cpyRun c.desc) then .ok c
    else
      let nib := c.raw.take 128
      if i4xBad (nib.map (·.1)) 0 then .error (3, 2, cpyAddr c.desc c.b c.outRun false + c.outOff - c.raw.length / 2)
      else Cmd.takeSlots n { c with raw := c.raw.drop 128
                                    buf := c.buf ++ ((i4xCodes (nib.map (·.1)) 0 0).zip (nib.map (·.2))).map (fun e => (e.1.1, e.2)) }

/-- R113: the block of a described target that n elements make. (DESIGN CHOICE, log entry 84). -/
def Cmd.makeBlock (c : Cmd) (n : Nat) : List (Byte × Bool) :=
  let fmt := cpyFmt c.desc
  let per := tyWidth fmt / 4
  let codes := (List.range n).map (fun i => ((c.buf.drop (per * i)).take per).foldr (fun x acc => x.1 + 16 * acc) 0)
  let els := if fmt = .i4x then codes.map i4xElem else codes.map (elemOf fmt false)
  let po := (c.buf.take (per * n)).any (·.2)
  let given := if cpyByte c.desc 6 = 1 then some (intOf true 8 (cpyByte c.desc 7)) else none
  let b := encodeBlock fmt given els
  (List.range 64).map (fun i => (byteOf b i, po))

/-- R113, R245: the blocks that can be made of a run's elements: whole ones, and the run's last. -/
def Cmd.putBlocks (now : Nat) : Nat → Cmd → Cmd
  | 0, c => c
  | fuel + 1, c =>
    let per := tyWidth (cpyFmt c.desc) / 4
    let have_ := c.buf.length / per
    let whole := c.outOff = cpyRun c.desc
    if whole && have_ = 0 then { c with outRun := c.outRun + 1, outOff := 0, outBlk := 0, buf := [] }
    else if blockElems (cpyFmt c.desc) ≤ have_ || whole then
      let m := min (blockElems (cpyFmt c.desc)) have_
      let f : Flight := ⟨now, cpyAddr c.desc c.c c.outRun true + 64 * c.outBlk, c.makeBlock m⟩
      Cmd.putBlocks now fuel { c with flights := c.flights ++ [f], outBlk := c.outBlk + 1, buf := c.buf.drop (per * m) }
    else c

/-- R245: bytes of a run to be encoded that have come. -/
def Cmd.takeRun (c : Cmd) (now : Nat) (bytes : List (Byte × Bool)) : Except (Nat × Nat × Nat) Cmd :=
  match Cmd.takeSlots (c.raw.length + 2) { c with raw := c.raw ++ bytesSlots bytes, outOff := c.outOff + bytes.length } with
  | .error e => .error e
  | .ok c => .ok (Cmd.putBlocks now (c.buf.length + 2) c)

/-- R245, R246: a piece of a COLL's source that has come: a block decoded, or slots. -/
def Cmd.takeColl (c : Cmd) (va : Nat) (bytes : List (Byte × Bool)) : Except (Nat × Nat × Nat) Cmd :=
  if describedAt c.rng c.a.toNat then
    let b := bytes.foldr (fun x acc => x.1.toNat + 256 * acc) 0
    match blockFault b with
    | some f => .error (3, f, va)
    | none => .ok { c with buf := c.buf ++ (decodeBlock (collTy c.f) b).map (fun x => (x, bytes.any (·.2))) }
  else .ok { c with buf := c.buf ++ bytesSlots bytes }

/-- What a command does with a read that has come, or the failure that it meets there, with its address. -/
def Cmd.takeOne (c : Cmd) (now : Nat) (r : Fetch) (bytes : List (Byte × Bool)) : Except (Nat × Nat × Nat) Cmd :=
  match c.kind with
  | .cpy => if c.decodes then c.takeBlock now r.va bytes else if c.encodes then c.takeRun now bytes
    else .ok { c with flights := c.flights ++ [⟨now, r.to_, bytes⟩] }
  | .coll => c.takeColl r.va bytes
  | _ => .ok { c with flights := c.flights ++ [⟨now, r.to_, bytes⟩] }

/-- The reads of a command that have come taken in order, up to one that has not, or to the failure that it meets, with its address. -/
def Cmd.takeReads (now : Nat) : List Fetch → Cmd → Cmd × Option (Nat × Nat × Nat)
  | [], c => ({ c with reads := [] }, none)
  | r :: rest, c =>
    match r.bad, r.got with
    | some f, _ => (c, some (f.1, f.2, r.va))
    | none, none => ({ c with reads := r :: rest }, none)
    | none, some bytes =>
      if now < r.due then ({ c with reads := r :: rest }, none)
      else match c.takeOne now r bytes with
        | .ok c => Cmd.takeReads now rest c
        | .error f => (c, some f)

/-! ### What is asked for (R244, R245) -/

/-- What a command does next with its source. -/
inductive ERead where
  /-- nothing is left to ask for -/
  | done
  /-- an access made, or one that could not be made, with its address -/
  | asked (r : EAns) (va : Nat) (c : Cmd) (s : State)

/-- An access asked for, and where the command stands after it. -/
def State.askThen (s : State) (core e : Nat) (c : Cmd) (va n to_ : Nat) (next : Cmd → Cmd) : ERead :=
  let r := s.engAsk core e c va n to_
  match r.1 with
  | .ok => .asked .ok va (next r.2.1) r.2.2
  | a => .asked a va r.2.1 r.2.2

/-- R244: the next access of a plain copy. -/
def State.cpyRead (s : State) (core : Nat) (c : Cmd) : ERead :=
  if cpyRuns c.desc ≤ c.run then .done
  else
    let sa := cpyAddr c.desc c.b c.run false + c.off
    let ta := cpyAddr c.desc c.c c.run true + c.off
    let n := pieceLen (cpyRun c.desc - c.off) sa ta
    let last := c.off + n = cpyRun c.desc
    s.askThen core 0 c sa n ta (fun c => { c with run := if last then c.run + 1 else c.run, off := if last then 0 else c.off + n })

/-- R245: the most slots that the blocks of a described source on their way can bring. -/
def Cmd.coming (c : Cmd) (ty : Ty) : Nat := c.reads.length * 124 * (tyWidth ty / 4)

/-- R245: the next block of a copy from a described source: as many are asked for as the run needs for certain, since how many elements a
block holds its format says. -/
def State.cpyDecode (s : State) (core : Nat) (c : Cmd) : ERead :=
  if cpyRuns c.desc ≤ c.run then .done
  else if 0 < c.reads.length && 2 * cpyRun c.desc ≤ 2 * c.outOff + c.buf.length + c.coming (cpyFmt c.desc) then .asked .wait 0 c s
  else s.askThen core 0 c (cpyAddr c.desc c.b c.run false + 64 * c.blk) 64 0 (fun c => { c with blk := c.blk + 1 })

/-- R245: the next access of a copy to a described target. (DESIGN CHOICE, log entry 84). -/
def State.cpyEncode (s : State) (core : Nat) (c : Cmd) : ERead :=
  if cpyRuns c.desc ≤ c.run then .done
  else
    let sa := cpyAddr c.desc c.b c.run false + c.off
    let n := min (cpyRun c.desc - c.off) (64 - sa % 64)
    let last := c.off + n = cpyRun c.desc
    s.askThen core 0 c sa n 0 (fun c => { c with run := if last then c.run + 1 else c.run, off := if last then 0 else c.off + n })

/-- R245: the next access of a GATH or SCAT: a line of the index list, when every write named by earlier lines has performed, or a
piece of an element. -/
def State.indexRead (s : State) (core : Nat) (c : Cmd) : ERead :=
  let size := gathSize c.f
  if gathCount c.f ≤ c.run then .done
  else match c.idx with
  | [] =>
    if !c.flights.isEmpty || !c.reads.isEmpty then .asked .wait 0 c s
    else
      let la := c.a.toNat + 4 * c.run
      let n := min (64 - la % 64) (4 * (gathCount c.f - c.run))
      match s.winRead core c la n with
      | ((.ok, bytes), s) =>
        let idx := (List.range (n / 4)).map (fun i => ((bytes.drop (4 * i)).take 4).foldr (fun b acc => b.1.toNat + 256 * acc) 0)
        .asked .ok la { c with idx } s
      | ((r, _), s) => .asked r la c s
  | i :: rest =>
    let p := (c.b + BitVec.ofNat 64 (i * size)).toNat + c.off
    let q := (c.c + BitVec.ofNat 64 (c.run * size)).toNat + c.off
    let sa := if c.kind = .gath then p else q
    let ta := if c.kind = .gath then q else p
    let n := pieceLen (size - c.off) sa ta
    let last := c.off + n = size
    s.askThen core 1 c sa n ta (fun c => { c with run := if last then c.run + 1 else c.run, off := if last then 0 else c.off + n,
                                                  idx := if last then rest else c.idx })

/-- The next access of a copy, gather or scatter; none after one that fails. -/
def State.moveRead (s : State) (core : Nat) (c : Cmd) : ERead :=
  if c.reads.any (·.bad.isSome) then .asked .wait 0 c s
  else if c.kind = .cpy then (if c.decodes then s.cpyDecode core c else if c.encodes then s.cpyEncode core c else s.cpyRead core c)
  else s.indexRead core c

/-- R241: the oldest bytes on their way written, if they have come. -/
def State.moveWrite (s : State) (core e : Nat) (c : Cmd) : (EAns × Nat) × Cmd × State :=
  match c.flights with
  | [] => ((.ok, 0), c, s)
  | f :: rest =>
    if s.cycle < f.due then ((.ok, 0), c, s)
    else match s.engWrite core e c f.va f.bytes with
      | (.ok, c, s) => ((.ok, f.va), { c with flights := rest }, s)
      | (r, c, s) => ((r, f.va), c, s)

/-- A command after what it asked for. -/
def State.afterRead (s : State) (core e : Nat) (r : EAns) (va : Nat) (c : Cmd) : State :=
  match r with
  | .fail cls sub => (s.setHead core e (c.spoil va cls sub)).again core e
  | .hold f x => s.engHold core e c f x va
  | _ => (s.setHead core e c).again core e

/-- R240, R241, R242: one cycle of a copy, gather or scatter: what has come is taken, one write is made and one read asked for. A failure
leaves the accesses that precede it to be made. -/
def State.moveStep (s : State) (core e : Nat) (c : Cmd) : State :=
  match Cmd.takeReads s.cycle c.reads c with
  | (c, some (cls, sub, va)) => s.engFail core e c cls sub va
  | (c, none) =>
    match s.moveWrite core e c with
    | ((.fail cls sub, va), c, s) => s.engFail core e { c with flights := [] } cls sub va
    | ((.hold f x, va), c, s) => s.engHold core e c f x va
    | (_, c, s) =>
      if c.status != 0 then (if c.flights.isEmpty then s.endCmd core e c else (s.setHead core e c).again core e)
      else match s.moveRead core c with
        | .done => if c.flights.isEmpty && c.reads.isEmpty then s.endCmd core e c else (s.setHead core e c).again core e
        | .asked r va c s => s.afterRead core e r va c

/-! ## Completion words (R250) -/

/-- R250, R296: the commands that a CMPL waits for: the earlier ones of its context, or of the walker, on any engine. -/
def Core.earlier (k : Core) (c : Cmd) : Bool :=
  (List.range 4).any (fun e => ((k.engine e).queue ++ (k.engine e).ending).any (fun d =>
    d.num < c.num && d.walker == c.walker && (c.walker || (d.ctx == c.ctx && d.epoch == c.epoch))))

/-- R330, R331: a deterministic task's completion word deferred to the merge of the interval in which its CMPL issued. (DEDUCED, log
entry 63). -/
def State.deferWord (s : State) (core : Nat) (c : Cmd) (xl : Xl) : State :=
  let mine (t : MergeTask) : Bool := t.ident == 4 * core + c.ctx && t.cmds.contains c.detKey
  if s.merges.any (fun m => m.tasks.any mine) then
    let put (t : MergeTask) : MergeTask := if mine t then { t with words := t.words ++ [(1, xl, c.b)] } else t
    { s with merges := s.merges.map (fun m => { m with tasks := m.tasks.map put }) }
  else if (s.ctx core c.ctx).epoch = c.epoch then s.updCtx core c.ctx (fun x => { x with detWords := x.detWords ++ [(1, xl, c.b)] })
  else s

/-- R227, R250: the request of a completion word, or the subcode of RANGE; the window has none. -/
def Cmd.wordXl (c : Cmd) : Except Nat Xl := if c.a.toNat < 0x100000 then .error 1 else rangeXl c.rng c.a.toNat 8 needW

/-- R250, R330: one cycle of a CMPL: when the earlier commands have completed its context's segment drains as LPUB's does, and then
the word is written; a deterministic task's word waits for its merge. (DEDUCED, log entry 74). -/
def State.cmplStep (s : State) (core e : Nat) (c : Cmd) : State :=
  let k := s.core core
  let x := k.ctx c.ctx
  if k.earlier c then s.again core e
  else if c.detmode.getLsbD 0 then
    match c.wordXl with
    | .ok xl => (s.deferWord core c xl).endCmd core e c
    | .error f => s.engFail core e c 7 f c.a.toNat
  else if x.epoch = c.epoch && x.status == .running then
    let n := s.next
    let s := n.2.updCtx core c.ctx (fun x => { x with ops := x.ops ++ [⟨n.1, .cmpl c.f.scope.toNat, false, 0, false⟩] })
    (s.setHead core e { c with run := 1 }).pump core c.ctx
  else (s.setHead core e { c with run := 1 }).at 0 rkEngine (core * 8 + e) .cmplWrite

/-- R250, R264: CMPL_WRITE (the acting unit is eight times the core, and the engine): the word is sent to its home, or to host memory, where
it is written by one write with release order outside the log. (DEDUCED, log entry 13). -/
def execCmplWrite (s : State) : Out :=
  let core := s.unit / 8
  match ((s.core core).engine 3).queue with
  | [] => .next s
  | c :: _ =>
    let s := s.updCtx core c.ctx (fun x => { x with ops := x.ops.filter (fun o => match o.kind with | .cmpl _ => !o.sent | _ => true) })
    let word := (List.range 8).map (fun i => (byteOf c.b.toNat i, false))
    let made : EAns × Cmd × State := match c.wordXl with | .error f => (.fail 7 f, c, s) | .ok _ => s.engWrite core 3 c c.a.toNat word
    match made with
    | (.fail cls sub, c, s) => (s.engFail core 3 c cls sub c.a.toNat).out
    | (.hold f x, c, s) => (s.engHold core 3 c f x c.a.toNat).out
    | (_, c, s) => (s.endCmd core 3 c).out

/-! ## Completion (R243, R361) -/

/-- R59, R243: one command of a bundle fewer; with the last, the bundle's signal is added. -/
def Core.signalDone (k : Core) (bundle : Nat) : Core :=
  match k.sigs.find? (fun x => x.bundle == bundle) with
  | none => k
  | some x =>
    if x.cmds ≤ 1 then { k with sigs := k.sigs.filter (fun y => y.bundle != bundle) }.semAdd x.sem x.inc
    else { k with sigs := k.sigs.map (fun y => if y.bundle == bundle then { y with cmds := y.cmds - 1 } else y) }

/-- R243, R296, R361: one command completes: BUSY falls, its token is produced, its signal counts it, and the walker hears of its
own. -/
def State.completeCmd (s : State) (core : Nat) (c : Cmd) : State :=
  let s := c.bufs.foldl (fun s b => s.addBusy b false) s
  let s := s.sample core 3 (s.cycle - c.entered)
  if c.walker then
    s.updCore core (fun k =>
      if k.walker.ctx = c.ctx && k.walker.epoch = c.epoch && k.walker.id = c.id then
        { k with walker := { k.walker with out := k.walker.out - 1
                                           fail := if k.walker.fail = 0 then c.status else k.walker.fail } }
      else k)
  else
    let s := s.updCore core (fun k => k.signalDone c.bundle)
    if c.kind = .cmpl then s
    else (s.sink core 0).produceAt 0 core c.ctx c.epoch c.id (.scalar (if c.status = 0 then 1 else c.status) false) c.dst

/-- R243: ENGINE_COMMAND_COMPLETE: the commands of an engine whose last write has performed or been acknowledged complete. -/
def execEngineCommandComplete (core eng : Nat) (s : State) : Out :=
  let g := (s.core core).engine eng
  let ready (c : Cmd) : Bool := c.finish ≤ s.cycle && c.acks.isEmpty && !c.held
  let now := g.ending.filter ready
  let s := s.updCore core (fun k => k.setEngine eng { g with ending := g.ending.filter (fun c => !ready c) })
  .next (now.foldl (fun s c => s.completeCmd core c) s)

/-! ## Ownership flips (R206, R247) -/

/-- R245: the indices that a command has still to use, by its list as it stands. (DEDUCED, log entry 61). -/
def Core.indices (k : Core) (c : Cmd) : List Nat :=
  let first := c.run + c.idx.length
  c.idx ++ (List.range (gathCount c.f - first)).map (fun i => bytesAt k.sp (c.a.toNat + 4 * (first + i)) 4)

/-- Whether n bytes at a address meet those of the window from lo to hi. (DEDUCED, log entry 61). -/
def runMeets (lo hi a n : Nat) : Bool := a < hi && lo < a + n && a < 0x100000

/-- R241: whether what a command has read or asked for, piece by piece, goes to bytes of the window. -/
def Cmd.brings (c : Cmd) (lo hi : Nat) : Bool :=
  let pieces : Bool := match c.kind with
    | .cpy => !c.decodes && !c.encodes
    | .gath | .scat => true
    | .coll | .cmpl | .migr => false
  c.flights.any (fun f => runMeets lo hi f.va f.bytes.length) || (pieces && c.reads.any (fun r => runMeets lo hi r.to_ r.n))

/-- R245: whether a command's writes may yet reach bytes of the window. (DEDUCED, log entry 61). -/
def Cmd.mayWrite (c : Cmd) (lo hi : Nat) : Bool :=
  c.brings lo hi
    || (c.status == 0 && (match c.kind with
      | .gath => runMeets lo hi (c.c.toNat + c.run * gathSize c.f) ((gathCount c.f - c.run) * gathSize c.f)
      | .scat => runMeets lo hi c.b.toNat (0x100000 - c.b.toNat)
      | .cpy | .coll => c.spans.any (fun p => runMeets lo hi p.1 (p.2 - p.1))
      | .cmpl | .migr => false))

/-- R206, R244, R245: whether what a command has still to move touches bytes of the window. Beyond 4,096 runs a copy's whole span
counts, and so does all that an index could reach while the rest of its list may still be written. (DEDUCED, log entry 61). -/
def Core.touches (k : Core) (c : Cmd) (lo hi : Nat) : Bool :=
  c.brings lo hi
    || (c.status == 0 && (match c.kind with
      | .cpy =>
        let left := cpyRuns c.desc - c.run
        if 4096 < left then c.spans.any (fun p => runMeets lo hi p.1 (p.2 - p.1))
        else (List.range left).any (fun i =>
          let from_ := if i = 0 then c.off else 0
          let to_ := if i = 0 then (if c.decodes then c.outOff else c.off) else 0
          runMeets lo hi (cpyAddr c.desc c.b (c.run + i) false + from_) (cpyRun c.desc - from_)
            || runMeets lo hi (cpyAddr c.desc c.c (c.run + i) true + to_) (cpyRun c.desc - to_))
      | .gath | .scat =>
        let first := c.run + c.idx.length
        let list := c.a.toNat + 4 * first
        let rest := 4 * (gathCount c.f - first)
        let unsure := (List.range 4).any (fun e => ((k.engine e).queue ++ (k.engine e).ending).any (·.mayWrite list (list + rest)))
        decide (c.run < gathCount c.f) && (runMeets lo hi list rest
          || runMeets lo hi (c.c.toNat + c.run * gathSize c.f) ((gathCount c.f - c.run) * gathSize c.f)
          || (if unsure then runMeets lo hi c.b.toNat (0x100000 - c.b.toNat)
            else (k.indices c).any (fun i => runMeets lo hi (c.b.toNat + i * gathSize c.f) (gathSize c.f))))
      | .coll => c.spans.any (fun p => runMeets lo hi p.1 (p.2 - p.1))
      | .cmpl | .migr => false))

/-- R164: whether a tile-unit access to a range of tiles, issued already, has still to be made. (DEDUCED, log entry 61). -/
def Core.tileAccessing (k : Core) (first count : Nat) : Bool :=
  k.tileOps.any (fun o => o.sched.any (fun a => a.2.any (fun r =>
    let t := tileOf (rowAddr o.d1 o.d2 r)
    first ≤ t && t < first + count)))

/-- R164, R206: whether a context or tile-unit access to a range of tiles, issued already, has still to be made. -/
def Core.coreAccess (k : Core) (now first count : Nat) : Bool :=
  let inn (t : Nat) : Bool := first ≤ t && t < first + count
  k.banks.any (fun g => now ≤ g.1 && inn g.2) || k.tileAccessing first count
    || k.tileOps.any (fun o => (List.range count).any (fun i => o.stores (first + i)))

/-- R206: whether a flip may take effect: the accesses that it waits for have been made, and earlier flips of its tiles.
(DEDUCED, log entry 61). -/
def Core.flipReady (k : Core) (now : Nat) (f : Flip) : Bool :=
  !k.flips.any (fun g => g.num < f.num && g.first < f.first + f.count && f.first < g.first + g.count)
    && (if f.eng then !k.coreAccess now f.first f.count
      else !k.tileAccessing f.first f.count && !(List.range 4).any (fun e => (k.engine e).queue.any (fun c => c.num < f.num && k.touches c (2048 * f.first) (2048 * (f.first + f.count)))))

/-- R205: the owner bits of a flip's tiles set in a cycle. -/
def Core.applyFlip (k : Core) (now : Nat) (f : Flip) : Core :=
  { k with owner := (List.range f.count).foldl (fun t i => tset t false (f.first + i) f.eng) k.owner, flips := k.flips.filter (fun g => g.id != f.id)
           flipped := k.flipped.filter (·.1 == now) ++ [(now, f.first, f.count)] }

/-- R206, R247: a flip issued: it takes effect at once, or is pending. -/
def State.ownFlip (s : State) (core first count : Nat) (eng : Bool) (now : Bool) : State :=
  let n := s.next
  let k := n.2.core core
  let f : Flip := ⟨n.1, k.num + 1, first, count, eng⟩
  let k := { k with num := k.num + 1 }
  if now && k.flipReady s.cycle f then n.2.setCore core (k.applyFlip s.cycle f)
  else (n.2.setCore core { k with flips := k.flips ++ [f] }).at 1 rkSem core (.ownFlipEffect core n.1)

/-- R206: OWN_FLIP_EFFECT: a pending flip takes effect when what it waits for has been done. -/
def execOwnFlipEffect (core id : Nat) (s : State) : Out :=
  let k := s.core core
  match k.flips.find? (fun f => f.id == id) with
  | none => .next s
  | some f =>
    if k.flipReady s.cycle f then .next (s.setCore core (k.applyFlip s.cycle f))
    else .next (s.at 1 rkSem core (.ownFlipEffect core id))

/-- R247: OWN of a range of tiles. (DEDUCED, log entry 72). -/
def State.ownOp (s : State) (f : EF) (eng : Bool) : State :=
  let a := (s.readS f.a .i64).1.toNat
  let b := (s.readS f.b .i64).1.toNat
  let i := s.issue
  if b = 0 || 512 < a + b then s.slotTrap (tOpnd i.slot)
  else s.ownFlip i.core a b eng true

/-- R247: OWN.eng. -/
def execOwnEng (f : EF) (s : State) : Out := .next (s.ownOp f true)
/-- R247: OWN.thr. -/
def execOwnThr (f : EF) (s : State) : Out := .next (s.ownOp f false)

end Sys2Proof.Machine
end

