-- ==== Sys2Proof/Machine/Coll.lean ====
section
/-! DEFINITION. Collectives (R246, R322 to R325, R387, R388): COLL, its contributions and results, presence, and what makes a
collective fail. What other packages send comes in as events; what goes to them leaves the module. -/

namespace Sys2Proof.Machine

open Sys2Proof

/-- R322: the members of a set, in ascending package identifier. -/
def State.collMembers (s : State) (set : Nat) : List Nat :=
  let m := tget s.ctl.collMask 0 set
  (List.range 1024).filter (fun i => m.getLsbD i)

/-- R322: the valid set of a job. -/
def State.collSetOf (s : State) (jobId : Nat) : Option Nat :=
  (List.range 16).find? (fun k => let t := tget s.ctl.collTag collTagReset k; t.getLsbD 63 && t.toNat % 2 ^ 32 == jobId)

/-- R322: CTMO of a set: its waits last 2^CTMO cycles. -/
def State.collWait (s : State) (set : Nat) : Nat := 2 ^ min 40 (max 16 ((tget s.ctl.collTag collTagReset set).toNat / 2 ^ 40 % 256))

/-- R242, R322, R324, R388: a GANGFAIL token. -/
def gangFail (sub : Nat) : Word := failToken 0xD sub

/-- R323: the collective of a set and number, if it is known. -/
def State.collAt (s : State) (set index : Nat) : Option Coll := s.colls.find? (fun x => x.set == set && x.index == index)

/-- The same replaced, or added. -/
def State.putColl (s : State) (x : Coll) : State :=
  { s with colls := s.colls.filter (fun y => !(y.set == x.set && y.index == x.index)) ++ [x] }

/-- R322 to R324, R388: a COLL of a job takes its number, and its waits begin. (DEDUCED, log entry 85). -/
def State.collBegin (s : State) (core set index job : Nat) : State :=
  let s := { s with collNext := tset s.collNext 0 set (index + 1) }
  let x := (s.collAt set index).getD ⟨set, index, none, s.cycle, [], false⟩
  let s := (s.putColl { x with core := some core }).at (s.collWait set) rkLast set (.collAbsentTimeout set index)
  if s.presence.contains (job, 1024) then s
  else { s with presence := s.presence ++ [(job, 1024)] }.at (s.collWait set) rkLast job .presenceTimeout

/-- R245, R246: an address of a COLL that its issue refuses: described, and off its blocks or of a type without a code. -/
def collOff (rng : Tbl Word) (f : EF) (va : Nat) : Bool := describedAt rng va && (va % 64 != 0 || (blockCode (collTy f)).isNone)

/-- R245, R246, R322, R388: COLL of a kind: a described side that is off its blocks, or of a type without a code, traps; else it is numbered within its set, and enqueued on the core's collective port. -/
def State.collOp (s : State) (f : EF) : State :=
  let i := s.issue
  let a := s.readS f.a .i64
  let b := s.readS f.b .i64
  let c := s.readS f.c .i64
  let n := collCount c.1
  let job := s.start.sr.jobId.toNat
  let cmd := s.slotCmd .coll f (if anyPort [f.a, f.b, f.c] then 3 else 0)
  if c.2 || (n != 0 && (a.2 || b.2)) then s.slotKill 1
  else if c.1.toNat / 2 ^ 42 != 0
      || (n != 0 && (collOff cmd.rng f a.1.toNat || collOff cmd.rng f b.1.toNat)) then
    s.slotTrap (tOpnd i.slot)
  else match s.collSetOf job with
  | none =>
    let r := s.reserveFor false (s.dst f.dst)
    (r.2.sink i.core 1).produceAt (1 + if anyPort [f.a, f.b, f.c] then 3 else 0) i.core i.ctx s.start.epoch r.1 (.scalar (gangFail 2) false) (s.dst f.dst)
  | some set =>
    let index := tget s.collNext 0 set
    let s1 := s.issueCmd { cmd with idx := [set, index] } true
    if s1.issue.blocked.isSome then s1
    else
      s1.collBegin i.core set index job

/-- R246: COLL, all-reduce. -/
def execCollAllreduce (f : EF) (s : State) : Out := .next (s.collOp f)
/-- R246: COLL, reduce-scatter. -/
def execCollReduceScatter (f : EF) (s : State) : Out := .next (s.collOp f)
/-- R246: COLL, all-gather. -/
def execCollAllgather (f : EF) (s : State) : Out := .next (s.collOp f)
/-- R246: COLL, broadcast. -/
def execCollBroadcast (f : EF) (s : State) : Out := .next (s.collOp f)

/-! ## Contributions (R323) -/

/-- R246: the elements of what has been read of a source: codes, with their poison. A kind that folds takes I4X outliers as elements (256 and
more); one that only copies takes the slots as they stand. -/
def collElems (t : Ty) (folds : Bool) (n : Nat) (buf : List (Nat × Bool)) : List (Word × Bool) :=
  let per := tyWidth t / 4
  let slots : List (Nat × Bool) := if t = .i4x && folds then ((i4xCodes (buf.map (·.1)) 0 0).zip (buf.map (·.2))).map (fun e => (e.1.1, e.2)) else buf
  (List.range n).map (fun i =>
    let l := (slots.drop (per * i)).take per
    (BitVec.ofNat 64 (l.foldr (fun x acc => x.1 + 16 * acc) 0), l.any (·.2)))

/-- R323: a contribution: CMD and C, the codes, and the poison of each. -/
def contribution (cmd : BitVec 16) (c : Word) (l : List (Word × Bool)) : List Word :=
  cmd.zeroExtend 64 :: c :: (l.map (·.1) ++ l.map (fun e => if e.2 then 1 else 0))

/-- The elements of a contribution or a result, read back. -/
def dataElems (l : List Word) : List (Word × Bool) := (l.take (l.length / 2)).zip ((l.drop (l.length / 2)).map (· != 0))

/-- R104, R105, R246, R323: two elements folded, each sum rounded RNE, and integers wrapping. -/
def collFold (t : Ty) (op : Nat) (a b : Word × Bool) : Word × Bool :=
  let md : FMod := ⟨.rne, false, false, false⟩
  let w := tyWidth t
  let v : Nat :=
    if t = .i4x then
      let x := (i4xElem a.1.toNat).val
      let y := (i4xElem b.1.toNat).val
      cvtFp .i4x md (if op = 0 then fpSum .rne [x, y] else if x = .nan || y = .nan then .nan else if (op = 1) == fpLt x y then x else y)
    else if tyIsFloat t then
      (if op = 0 then fpAdd t md a.1.toNat b.1.toNat else fpMinMax t md (op = 2) a.1.toNat b.1.toNat)
    else
      let x := tyInt t a.1.toNat
      let y := tyInt t b.1.toNat
      intBits w (if op = 0 then x + y else if op = 1 then (if x ≤ y then x else y) else if x ≤ y then y else x)
  (BitVec.ofNat 64 v, a.2 || b.2)

/-- R246, R323: the result of a collective from its members' contributions, in ascending package. -/
def collResult (cmd : BitVec 16) (c : Word) (got : List (Nat × List (Word × Bool))) : List (Word × Bool) :=
  let kind := cmd.toNat % 8
  let t : Ty := .ofBits (BitVec.ofNat 4 (cmd.toNat / 32))
  if kind < 2 then match got with
    | [] => []
    | g :: rest => rest.foldl (fun acc h => (acc.zip h.2).map (fun p => collFold t (cmd.toNat / 8 % 4) p.1 p.2)) g.2
  else if kind = 2 then got.flatMap (·.2)
  else ((got.find? (fun g => g.1 == c.toNat / 2 ^ 32 % 1024)).map (·.2)).getD []

/-- R323: a collective of which every member has contributed: their CMD and C must agree; the result, or the failure, goes to the
member here. -/
def State.collDone (s : State) (x : Coll) : State :=
  let members := s.collMembers x.set
  if members.head? != some s.pkgId || !(members.all (fun m => x.got.any (fun g => g.1 == m))) then s
  else
    let got := members.filterMap (fun m => (x.got.find? (fun g => g.1 == m)))
    let head (g : Nat × List Word) : List Word := g.2.take 2
    let agree := match got with | [] => true | g :: rest => rest.all (fun h => head h == head g)
    match x.core, got with
    | some core, g :: _ =>
      let cmd : BitVec 16 := ((head g).getD 0 0).truncate 16
      let c := (head g).getD 1 0
      let r := collResult cmd c (got.map (fun h => (h.1, dataElems (h.2.drop 2))))
      let s := { s with colls := s.colls.filter (fun y => !(y.set == x.set && y.index == x.index)) }
      s.at 1 rkEngine (core * 8 + 2) (.collResultDelivery core (r.map (·.1) ++ r.map (fun e => if e.2 then 1 else 0)) (if agree then 0 else gangFail 3))
    | _, _ => s

/-- R323, R324: COLL_CONTRIBUTION: a member's contribution reaches the port of the lowest-numbered member; at another's it says that the
member has issued. (DEDUCED, log entry 85). -/
def execCollContribution (set index pkg : Nat) (data : List Word) (s : State) : Out :=
  let old := s.collAt set index
  let x := old.getD ⟨set, index, none, s.cycle, [], false⟩
  if x.dead || !s.enters pkg then .next s
  else
    let x := { x with got := x.got ++ [(pkg, data)] }
    let s := s.putColl x
    let s := if old.isNone then s.at (s.collWait set) rkLast set (.collAbsentTimeout set index) else s
    .next (s.collDone x)

/-! ## Running a COLL -/

/-- R388: whether every member of a job's set has sent its presence. -/
def State.allPresent (s : State) (job set : Nat) : Bool := (s.collMembers set).all (fun m => s.presence.contains (job, m))

/-- R246: whether a COLL folds elements. -/
def Cmd.folds (c : Cmd) : Bool := c.f.cmd.toNat % 8 < 2

/-- R246: the elements of a COLL's source at a member: none but the root's of a broadcast. -/
def State.collSize (s : State) (c : Cmd) : Nat :=
  if c.f.cmd.toNat % 8 = 3 && c.c.toNat / 2 ^ 32 % 1024 != s.pkgId then 0 else collCount c.c

/-- R245, R246: the next piece of a COLL's source, in bytes or in described blocks. -/
def State.collRead (s : State) (core : Nat) (c : Cmd) : ERead :=
  let t := collTy c.f
  let want := s.collSize c * (tyWidth t / 4)
  if c.reads.any (·.bad.isSome) then .asked .wait 0 c s
  else if describedAt c.rng c.a.toNat then
    if want ≤ c.buf.length then .done
    else if 0 < c.reads.length && want ≤ c.buf.length + c.coming t then .asked .wait 0 c s
    else s.askThen core 2 c (c.a.toNat + 64 * c.blk) 64 0 (fun c => { c with blk := c.blk + 1 })
  else if (want + 1) / 2 ≤ c.off then .done
  else
    let sa := c.a.toNat + c.off
    let n := min (64 - sa % 64) ((want + 1) / 2 - c.off)
    s.askThen core 2 c sa n 0 (fun c => { c with off := c.off + n })

/-- R99: the first 64-byte block of a bare I4X source with a marker in its last two slots, counted from the source's start. (DESIGN CHOICE,
log entry 84). -/
def Cmd.collBad (c : Cmd) : Option Nat :=
  if collTy c.f != .i4x || describedAt c.rng c.a.toNat then none
  else (List.range ((c.buf.length + 127) / 128)).find? (fun i => i4xBad (((c.buf.drop (128 * i)).take 128).map (·.1)) 0)

/-- R323: the source of a COLL has come: its contribution. -/
def State.contribute (s : State) (core e : Nat) (c : Cmd) : State :=
  let set := c.idx.getD 0 0
  match c.collBad with
  | some i => s.engFail core e c 3 2 (c.a.toNat + 64 * i)
  | none =>
    let data := contribution c.f.cmd c.c (collElems (collTy c.f) c.folds (s.collSize c) c.buf)
    let s := s.setHead core e { c with run := 1 }
    if (s.collMembers set).head? = some s.pkgId then s.at 1 rkCore core (.collContribution set (c.idx.getD 1 0) s.pkgId data) else s

/-- R323, R388: one cycle of a COLL: it waits for presence, reads its source, contributes, and waits; then it writes its result. -/
def State.collStep (s : State) (core e : Nat) (c : Cmd) : State :=
  let set := c.idx.getD 0 0
  let index := c.idx.getD 1 0
  let job := c.jobId.toNat
  let dead := (s.collAt set index).any (·.dead)
  if c.run = 2 then
    match s.moveWrite core e c with
    | ((.fail cls sub, va), c, s) => s.engFail core e { c with flights := [], run := 3 } cls sub va
    | ((.hold f x, va), c, s) => s.engHold core e c f x va
    | (_, c, s) => if c.flights.isEmpty then s.endCmd core e c else (s.setHead core e c).again core e
  else if c.status != 0 then s.endCmd core e c
  else if dead || s.presence.contains (job, 1025) then s.endCmd core e { c with status := if dead then gangFail 1 else gangFail 4 }
  else if !s.allPresent job set then s.again core e
  else match Cmd.takeReads s.cycle c.reads c with
  | (c, some (cls, sub, va)) => s.engFail core e c cls sub va
  | (c, none) => match s.collRead core c with
    | .done => if c.reads.isEmpty then s.contribute core e c else (s.setHead core e c).again core e
    | .asked r va c s => s.afterRead core e r va c

/-- R246: the part of a result that a member keeps: by its rank among p members. -/
def collPart (kind k p n : Nat) (l : List (Word × Bool)) : List (Word × Bool) :=
  if kind = 1 then (l.drop (k * n / p)).take ((k + 1) * n / p - k * n / p) else l

/-- R98, R104, R246: the elements of a result in a type: of I4X, those of slots as they stand, or of codes that were folded. -/
def resultElems (t : Ty) (folds : Bool) (codes : List Nat) : List Elem :=
  if t = .i4x then (if folds then codes else (i4xCodes codes 0 0).map (·.1)).map i4xElem else codes.map (elemOf t false)

/-- R104, R246: the code of a result's element, bare: an outlier that no fold has met becomes an I4X code. -/
def resultCode (t : Ty) (c : Nat) : Nat := if t = .i4x && 256 ≤ c then cvtFp .i4x ⟨.rne, false, false, false⟩ (i4xElem c).val else c

/-- R246: what a member writes at its target: elements packed, or encoded in described blocks with max-abs. -/
def collTarget (t : Ty) (folds described : Bool) (va now : Nat) (l : List (Word × Bool)) : List Flight :=
  let w := tyWidth t
  if described then
    let n := blockElems t
    let els := resultElems t folds (l.map (·.1.toNat))
    (List.range ((l.length + n - 1) / n)).map (fun i =>
      let b := encodeBlock t none ((els.drop (n * i)).take n)
      ⟨now, va + 64 * i, (List.range 64).map (fun j => (byteOf b j, ((l.drop (n * i)).take n).any (·.2)))⟩)
  else
    let slots := l.flatMap (fun e => (nibbles (w / 4) (resultCode t e.1.toNat % 2 ^ w)).map (fun x => (x, e.2)))
    let r := slotBytes slots
    let bytes := r.1 ++ r.2.map (fun e => (BitVec.ofNat 8 e.1, e.2))
    (cutLines (bytes.length + 1) va bytes).map (fun p => ⟨now, p.1, p.2⟩)

/-- R365: a collective that failed for a PIPEERR of another member's port kills the task that issued it here, which still runs. -/
def State.portErr (s : State) (core : Nat) (c : Cmd) (sub : Nat) : State :=
  let x := s.ctx core c.ctx
  if x.status == .running && x.epoch == c.epoch then s.pipeKill core c.ctx 2 ⟨0xE, sub, BitVec.ofNat 64 (15 + 16 * 2)⟩ c.pc else s

/-- R246, R323: COLL_RESULT_DELIVERY: a result reaches the member here, which places its part; or the collective fails. -/
def execCollResultDelivery (core : Nat) (data : List Word) (fail : Word) (s : State) : Out :=
  match ((s.core core).engine 2).queue with
  | [] => .next s
  | c :: _ =>
    if c.kind != .coll || c.run != 1 then .next s
    else if fail != 0 then
      let s := ({ s with colls := s.colls.filter (fun y => !(y.set == c.idx.getD 0 0 && y.index == c.idx.getD 1 0)) }).endCmd core 2 { c with status := fail }
      .next (if fail.toNat % 65536 = 0xE then s.portErr core c (fail.toNat / 65536 % 65536) else s)
    else
      let set := c.idx.getD 0 0
      let members := s.collMembers set
      let k := (members.takeWhile (· < s.pkgId)).length
      let part := collPart (c.f.cmd.toNat % 8) k (max 1 members.length) (collCount c.c) (dataElems data)
      let fl := collTarget (collTy c.f) c.folds (describedAt c.rng c.b.toNat) c.b.toNat (s.cycle + 1) part
      let s := { s with colls := s.colls.filter (fun y => !(y.set == set && y.index == c.idx.getD 1 0)) }
      .next ((s.setHead core 2 { c with run := 2, flights := fl }).again core 2)

/-- R324: whether every member of a collective is known to have issued it: here by its COLL, elsewhere by what came. -/
def State.collIssued (s : State) (x : Coll) : Bool :=
  (s.collMembers x.set).all (fun m => (m == s.pkgId && x.core.isSome) || x.got.any (fun g => g.1 == m))

/-- R324: COLL_ABSENT_TIMEOUT: a collective that a member has not issued is abandoned, and every member that issued it fails. (DEDUCED, log
entry 85). (DEDUCED, log entry 85). -/
def execCollAbsentTimeout (set index : Nat) (s : State) : Out :=
  match s.collAt set index with
  | none => .next s
  | some x =>
    if s.collIssued x then .next s
    else
      let s := s.putColl { x with dead := true, got := [] }
      match x.core with
      | none => .next s
      | some core => match ((s.core core).engine 2).queue with
        | c :: _ => if c.idx == [set, index] && c.run = 1 then .next (s.endCmd core 2 { c with status := gangFail 1 }) else .next s
        | [] => .next s

/-- R388: PRESENCE_MESSAGE: a package has placed its ensemble of a job. -/
def execPresenceMessage (jobid pkg : Nat) (s : State) : Out :=
  .next (if s.enters pkg then { s with presence := s.presence ++ [(jobid, pkg)] } else s)

/-- R388: PRESENCE_TIMEOUT (the acting unit is the job): a job whose members have not all come fails its first COLL with GANGFAIL
LAUNCH and is killed. -/
def execPresenceTimeout (s : State) : Out :=
  let job := s.unit
  match s.collSetOf job with
  | none => .next s
  | some set =>
    if s.allPresent job set then .next s
    else
      let s := { s with presence := s.presence ++ [(job, 1025)] }
      let s := s.failJob job 0xD
      let groups := s.groups.entries.filter (fun e => match e.2 with | some g => g.desc.jobId % 2 ^ 32 == job | none => false)
      .next (groups.foldl (fun s e =>
        let s := (match e.2 with
          | some g => (s.members g).foldl (fun (s : State) (m : Nat × Nat) => s.kill m.1 m.2 2 ⟨0xD, 4, 0⟩ (s.ctx m.1 m.2).pc 0xD) s
          | none => s)
        s.at 0 rkDecide 512 (.groupKill e.1)) s)

end Sys2Proof.Machine
end

