-- ==== Sys2Proof/Machine/Supervisor.lean ====
section
/-! DEFINITION. What a supervisor drives: the fault ring and what its acknowledgement resumes (R356, R357, R399), INVAL (R351), MIGR
(R362), and the Almanac's buffer and status word (R337, R338, R343). -/

namespace Sys2Proof.Machine

open Sys2Proof

/-! ## The fault ring (R356, R357, R399) -/

/-- A line of DRAM written by a unit outside the bays: their copies of the line take the bytes (R397). -/
def State.devWrite (s : State) (pa n x : Nat) : State :=
  let s := s.checkPa pa
  if inExtension pa || s.channelWidth (channelOf pa) = 0 then s
  else
    let d : Line := BitVec.ofNat 512 (x * 256 ^ (pa % 64))
    let mask := byteMask (pa % 64) n
    { s with dram := putLine s.dram (pa / 64 * 64) d mask
             dramPoison := putPoison s.dramPoison (pa / 64 * 64) mask 0
             bays := ⟨s.bays.entries.map (fun e => (e.1, e.2.patch pa d mask 0))⟩ }

/-- The 64 bytes of a record that reached the ring unit in a cycle (R358, R359). -/
def recBytes (r : RingRec) (cycle : Nat) : Nat :=
  [r.word0.toNat, cycle, r.word2.toNat, r.word3.toNat, r.word4.toNat, r.word5.toNat, r.word6.toNat, r.word7.toNat].foldr
    (fun w acc => w % 2 ^ 64 + 2 ^ 64 * acc) 0

/-- R356: whether the ring can take a record. -/
def FaultRing.room (f : FaultRing) : Bool := f.set && f.unacked.length < 2 ^ f.log2

/-- R356, R399: a record written at HEAD, which then moves past it. (DESIGN CHOICE, log entry 5). -/
def State.ringWrite (s : State) (cycle : Nat) (r : RingRec) : State :=
  let f := s.ring
  let s := s.devWrite (f.base + 64 * f.head) 64 (recBytes r cycle)
  { s with ring := { f with head := (f.head + 1) % 2 ^ f.log2, unacked := f.unacked ++ [⟨f.head, s.cycle, r⟩] } }

/-- R357: records that waited enter, oldest first, while there is room. (DESIGN CHOICE, log entry 5). -/
def State.ringDrain (s : State) : State :=
  s.ring.waiting.foldl (fun s w =>
    if s.ring.room then
      let s := { s with ring := { s.ring with waiting := s.ring.waiting.drop 1 } }
      s.ringWrite w.1 w.2
    else s) s

/-- R356, R357: FAULT_RECORD_WRITE: a record enters the ring behind those that wait; while the ring is full it waits, and the overflow
flag is set. -/
def execFaultRecordWrite (r : RingRec) (s : State) : Out :=
  let f := s.ring
  if f.room && f.waiting.isEmpty then (s.ringWrite s.cycle r).out
  else .next { s with ring := { f with waiting := f.waiting ++ [(s.cycle, r)], overflow := f.overflow || f.set } }

/-- The place that a memory-fault record names, if it is one (R359). -/
def recSegment (r : RingRec) : Option Nat :=
  if r.word0.toNat / 2 ^ 32 % 16 = 0 && r.word0.toNat % 65536 = 8 then
    some (r.word3.toNat + if r.word3.getLsbD 62 then 2 ^ 64 * (r.word6.toNat % 65536) else 0)
  else none

/-- R351: every bay's translations of a segment dropped. (DESIGN CHOICE, log entry 71). -/
def State.dropXlate (s : State) (hit : TlbEnt → Bool) : State :=
  { s with bays := ⟨s.bays.entries.map (fun e => (e.1, { e.2 with tlb := e.2.tlb.filter (fun t => !hit t) }))⟩ }

/-- R355: the side logs that hold an entry of a segment replay it. -/
def State.replaySegment (s : State) (ia : Nat) : State :=
  (s.cores.entries.filter (fun e => s.parksBehind e.1 ia)).foldl (fun s e => s.at 0 rkHome e.1 (.sideLogReplay e.1 ia)) s

/-- R357: what an acknowledgement of some records starts: translations dropped, parked entries replayed, and held accesses made again,
one each cycle in the order of their records. -/
def State.resume (s : State) (l : List RingEnt) : State :=
  let segs := l.filterMap (fun e => recSegment e.r)
  let s := segs.foldl (fun s ia =>
    let g := s.segment ia
    s.dropXlate (fun t => (t.base ≤ ia && ia < t.base + 2 ^ t.size) || (g.1 ≤ t.base && t.base < g.1 + 2 ^ g.2))) s
  let once := segs.foldl (fun acc ia => if acc.any (fun j => s.segment j == s.segment ia) then acc else acc ++ [ia]) ([] : List Nat)
  let s := once.foldl (fun s ia => s.replaySegment ia) s
  ((l.filterMap (fun e => e.r.held.map (fun a => (e, a)))).zipIdx).foldl (fun s p =>
    let s := match p.1.2 with
      | .ctx core _ _ => s.sample core 2 (s.cycle + p.2 - p.1.1.cycle)
      | _ => s
    s.at p.2 rkCore 0 (.heldAccessRemake p.1.2)) s

/-- R255, R357: FRING.ack acknowledges the records from the oldest through position A; where A holds none that is unacknowledged, it
has no effect. -/
def execFringAck (f : EF) (s : State) : Out :=
  let a := (s.readS f.a .i64).1.toNat
  let r := s.ring
  if r.unacked.any (fun e => e.pos == a) then
    let now := r.unacked.takeWhile (fun e => e.pos != a) ++ (r.unacked.find? (fun e => e.pos == a)).toList
    let s := { s with ring := { r with unacked := r.unacked.drop now.length } }
    ((s.resume now).ringDrain).out
  else .next s

/-- R255: FRING.base places the ring, whose records all lie in the DRAM of one die. (DESIGN CHOICE, log entry 5). -/
def execFringBase (f : EF) (s : State) : Out :=
  let a := s.readS f.a .i64
  let b := s.readS f.b .i64
  let base := a.1.toNat
  let n := b.1.toNat
  if a.2 then .next (s.slotKill 1)
  else if base % 64 ≠ 0 || n < 6 || 20 < n || Config.packageDram < base + 64 * 2 ^ n || base / Config.dieDram ≠ (base + 64 * 2 ^ n - 1) / Config.dieDram then
    .next (s.slotTrap (tOpnd s.issue.slot))
  else
    let r := s.ring
    let s := { s with ring := { r with base, log2 := n, set := true, head := 0, unacked := [], overflow := false } }
    s.ringDrain.out

/-- R255, R399: FRING.head yields HEAD and the overflow flag, which it clears when the ring is not full. -/
def execFringHead (f : EF) (s : State) : Out :=
  let r := s.ring
  let w := BitVec.ofNat 64 (r.head + if r.overflow then 2 ^ 63 else 0)
  let s := { s with ring := { r with overflow := r.overflow && !r.room } }
  .next (s.push 2 false (.scalar w false) (s.dst f.dst) .none)

/-! ## INVAL (R255, R351) -/

/-- View lines that a test picks dropped from every core; lines on their way to any of them are not kept. -/
def State.dropViews (s : State) (p : ViewLine → Bool) : State :=
  { s with cores := ⟨s.cores.entries.map (fun e =>
      (e.1, { e.2.dropWhere p with viewGen := e.2.viewGen + 1, viewAll := e.2.viewGen + 1 }))⟩ }

/-- R351: the context of an INVAL blocks until every bay and view cache has acknowledged it. (DESIGN CHOICE, log entries 14, 71). -/
def State.awaitInval (s : State) : State :=
  let i := s.issue
  let f := s.free
  (f.2.updCtx i.core i.ctx (fun x => { x with wait := .inval })).at (1 + Config.invalTime f.1) rkCore i.core
    (.invalComplete i.core i.ctx i.start.epoch)

/-- R351: INVAL.all drops every item of an ASID whose generation is not the one named. (DESIGN CHOICE, log entry 71). -/
def execInvalAll (f : EF) (s : State) : Out :=
  let a := (s.readS f.a .i64).1.toNat
  let asid := a % 4096
  let gen := a / 4096 % 16
  let s := s.dropXlate (fun t => t.asid == asid && t.gen != gen)
  let s := s.dropViews (fun l => l.x.asid == asid && l.x.gen != gen)
  .next s.awaitInval

/-- R351: INVAL.seg drops the translations of a segment, and its view lines in every core, pinned ones included. (DESIGN CHOICE, log entry 71). -/
def execInvalSeg (f : EF) (s : State) : Out :=
  let a := s.readS f.a .i64
  if a.2 then .next (s.slotKill 1)
  else
    let ia := a.1.toNat
    let g := s.segment ia
    let old := s.bays.entries.flatMap (fun e => (e.2.tlb.filter (fun t => t.base ≤ ia && ia < t.base + 2 ^ t.size)).map (fun t => (t.base, t.size)))
    let spans := g :: old
    let inn (x : Nat) : Bool := spans.any (fun p => p.1 ≤ x && x < p.1 + 2 ^ p.2)
    let s := s.dropXlate (fun t => (t.base ≤ ia && ia < t.base + 2 ^ t.size) || inn t.base)
    let s := s.dropViews (fun l => !l.x.rmt && !l.x.host && inn l.x.ia)
    .next s.awaitInval

/-- R212, R351: a region's record freed, with its place among its bay's Hall-placed regions. -/
def State.freeRegion (s : State) (ia : Nat) : State :=
  match s.region ia with
  | none => s
  | some r =>
    let b := tget s.bays .reset r.bay
    { s with regions := tset s.regions none (ia / 65536) none
             bays := tset s.bays .reset r.bay (if r.hall then { b with hallRegions := b.hallRegions - 1 } else b) }

/-- R351: INVAL.region frees the record of a 64 KiB region. (DESIGN CHOICE, log entry 71). -/
def execInvalRegion (f : EF) (s : State) : Out :=
  let a := s.readS f.a .i64
  if a.2 then .next (s.slotKill 1) else .next (s.freeRegion a.1.toNat).awaitInval

/-- R351: INVAL_COMPLETE: the context goes on. -/
def execInvalComplete (core ctx epoch : Nat) (s : State) : Out :=
  .next (s.updTask core ctx epoch (fun x =>
    if x.epoch = epoch && x.wait = .inval then { x with wait := .none, readyAt := max x.readyAt (s.cycle + 1) } else x))

/-! ## MIGR (R362) -/

/-- R255: the size that a MIGR names, as a power of two. -/
def migrShift (f : EF) : Nat := if f.cmd.toNat = 0 then 16 else if f.cmd.toNat = 1 then 21 else 30

/-- R255, R362: MIGR enqueues the migration of a segment on the completion engine. -/
def execMigr (f : EF) (s : State) : Out :=
  let a := s.readS f.a .i64
  let b := s.readS f.b .i64
  let size := 2 ^ migrShift f
  if a.2 || b.2 then .next (s.slotKill 1)
  else if a.1.toNat % size ≠ 0 || b.1.toNat % size ≠ 0 || Config.packageDram < b.1.toNat + size then .next (s.slotTrap (tOpnd s.issue.slot))
  else .next (s.issueCmd (s.slotCmd .migr f (if anyPort [f.a, f.b] then 3 else 0)) true)

/-- R346: the leaf that maps an IA: the physical address of its entry, the entry, and the size of its segment. -/
def State.leafOf (s : State) (ia : Nat) : List (Nat × Nat × Nat) → Nat → Option (Nat × Word × Nat)
  | [], _ => none
  | (level, shift, n) :: rest, table =>
    let pa := table + 8 * (ia / 2 ^ shift % n)
    let e : Word := BitVec.ofNat 64 (bytesAt s.dram pa 8)
    if s.channelWidth (channelOf pa) = 0 || e.toNat % 4 = 0 || malformedEntry e level shift then none
    else if e.toNat % 4 = 2 then some (pa, e, shift)
    else s.leafOf ia rest (e.toNat / 4096 % 2 ^ 36 * 4096)

/-- R362: the valid buffers that overlap a segment. -/
def State.buffersIn (s : State) (ia size : Nat) : List Nat :=
  (s.ctl.buffers.entries.filter (fun e =>
    let lo := e.2.1.toNat / 64 % 2 ^ 51 * 64
    let hi := lo + 64 * (e.2.2.toNat % 2 ^ 38)
    e.2.2.getLsbD 63 && decide (lo < ia + size) && decide (ia < hi))).map (·.1)

/-- R361: HOLD of some buffers set or cleared. -/
def State.holdBuffers (s : State) (l : List Nat) (hold : Bool) : State :=
  { s with ctl := { s.ctl with buffers := l.foldl (fun t k =>
      let b := tget t (0, 0) k
      let w := b.2 &&& ~~~(BitVec.ofNat 64 (2 ^ 62))
      tset t (0, 0) k (b.1, if hold then w ||| BitVec.ofNat 64 (2 ^ 62) else w)) s.ctl.buffers } }

/-- R362: one cycle of a MIGR: its entry is checked and marked, then the buffers' commands are waited for, then the copy runs, one
line each cycle. (DEDUCED, log entry 55). -/
def State.migrStep (s : State) (core e : Nat) (c : Cmd) : State :=
  let ia := c.a.toNat
  let shift := migrShift c.f
  if c.run = 0 then
    if s.migrs.any (fun m => m.ia < ia + 2 ^ shift && ia < m.ia + m.size) then s.again core e
    else match s.leafOf ia walkLevels s.root with
    | some (pa, w, sh) =>
      if sh != shift || w.getLsbD 5 || 2 ^ 57 ≤ ia then s.endCmd core e { c with status := failToken 8 9 }
      else
        let s := s.devWrite pa 8 (w ||| BitVec.ofNat 64 (2 ^ 7)).toNat
        let m : Migr := { core, ia, size := 2 ^ shift, from_ := w.toNat / 4096 % 2 ^ 36 * 4096, to_ := c.b.toNat, entry := pa, held := [] }
        let s := { s with migrs := s.migrs ++ [m] }
        let s := s.holdBuffers (s.buffersIn ia (2 ^ shift)) true
        (s.setHead core e { c with run := 1 }).again core e
    | none => s.endCmd core e { c with status := failToken 8 9 }
  else if (s.buffersIn ia (2 ^ shift)).all (fun k => bufBusy (tget s.ctl.buffers (0, 0) k).2 == 0) then
    (s.setHead core e { c with run := 2 }).at (2 ^ shift / 64) rkEngine core .migrationCopy
  else s.again core e

/-- The pairs of a table with keys in one run moved to another run. (DEDUCED, log entry 55). -/
def tmove {α : Type} [DecidableEq α] (t : Tbl α) (d : α) (from_ to_ n : Nat) : Tbl α :=
  tsetAll (tfilter t (fun k _ => k < to_ || to_ + n ≤ k)) d ((tslice t from_ n).map (fun e => (e.1 - from_ + to_, e.2)))

/-- R362, R374: the blocks of a segment, and what a copy finds in error: poison where two symbols are, with what the block's read
logs. A tag that does not hold fails at the new place as well (R411). (DEDUCED, log entry 55). -/
def State.copyErrors (s : State) (from_ to_ n : Nat) (enc : Bool) : State :=
  let bad := tslice s.rel.cells (from_ / 64) (n / 64)
  let s : State := { s with encAt := tmove s.encAt 0 (from_ / 64) (to_ / 64) (n / 64)
                            rel := { s.rel with cells := tfilter s.rel.cells (fun k c => k < to_ / 64 || (to_ + n) / 64 ≤ k || c.any (·.hard)) } }
  bad.foldl (fun s e =>
    match e.2 with
    | none => s
    | some c =>
      let s := s.at 0 rkLast e.1 (.dramBlockRead (64 * e.1) c.outcome c.symbol enc (c.outcome < 3))
      if c.outcome = 2 || (enc && 3 ≤ c.outcome) then
        { s with dramPoison := (List.range 8).foldl (fun t i => tset t false ((64 * e.1 - from_ + to_) / 8 + i) true) s.dramPoison }
      else s) s

/-- R362: the bytes of a segment, their poison and their keys copied to its new place, where no bay keeps a copy. A failed channel
reads as poisoned zeros, and discards what is written to it (R376). (DEDUCED, log entry 55). -/
def State.copySegment (s : State) (from_ to_ n : Nat) : State :=
  if s.channelWidth (channelOf to_) = 0 then s
  else
    let dead := s.channelWidth (channelOf from_) = 0
    let inn (k : Nat) : Bool := k % 2 == 1 && 2 * to_ ≤ k && k < 2 * (to_ + n)
    let moved := (s.keys.entries.filter (fun e => e.1 % 2 == 1 && 2 * from_ ≤ e.1 && e.1 < 2 * (from_ + n))).map
      (fun (e : Nat × Option Key) => (e.1 - 2 * from_ + 2 * to_, e.2))
    { s with dram := if dead then tfilter s.dram (fun k _ => k < to_ || to_ + n ≤ k) else tmove s.dram 0 from_ to_ n
             dramPoison := if dead then (List.range (n / 8)).foldl (fun t i => tset t false (to_ / 8 + i) true) s.dramPoison
               else tmove s.dramPoison false (from_ / 8) (to_ / 8) (n / 8)
             keys := tsetAll (tfilter s.keys (fun k _ => !inn k)) none moved
             bays := ⟨s.bays.entries.map (fun e => (e.1, { e.2 with lines := tfilter e.2.lines (fun k _ => k < to_ / 64 || (to_ + n) / 64 ≤ k) }))⟩ }

/-- The IA that a held write goes to. -/
def State.heldIa (s : State) (ev : Instr) : Option Nat :=
  match ev with
  | .logEntryArrival p => some p.w.xl.ia
  | .bayAtomic r => some r.xl.ia
  | .joinCounterDecrement j => some j.xl.ia
  | .publicationWrite c x _ => (s.ctx c x).lpubOp.map (·.ia)
  | _ => none

/-- R362: MIGRATION_COPY (the acting unit is the core): the segment stands at its new place, its entry names it, held writes are applied
in arrival order with their keys, parked entries replay, and the command completes. -/
def execMigrationCopy (s : State) : Out :=
  let core := s.unit
  match s.migrs.find? (fun m => m.core == core), ((s.core core).engine 3).queue with
  | some m, c :: _ =>
    let s := (s.checkPa m.from_).checkPa m.to_
    let w := bytesAt s.dram m.entry 8
    let s := (s.copySegment m.from_ m.to_ m.size).copyErrors m.from_ m.to_ m.size (w.testBit 6)
    let s := s.devWrite m.entry 8 ((w - w / 4096 % 2 ^ 36 * 4096 + m.to_) - (if w.testBit 7 then 128 else 0))
    let s := s.dropXlate (fun t => m.ia ≤ t.base && t.base < m.ia + m.size)
    let mine (s : State) (ev : Instr) : Bool := match s.heldIa ev with | some ia => m.ia ≤ ia && ia < m.ia + m.size | none => false
    let evs := s.bays.entries.flatMap (fun e => e.2.holdQ.filter (mine s))
    let s : State := { s with migrs := s.migrs.filter (fun x => x.core != core),
                               bays := ⟨s.bays.entries.map (fun (e : Nat × Bay) => (e.1, { e.2 with holdQ := e.2.holdQ.filter (fun ev => !mine s ev) }))⟩ }
    let s := evs.foldl (fun s ev => s.serveHome ev) s
    let s := s.replaySegment m.ia
    let s := s.holdBuffers (s.buffersIn m.ia m.size) false
    (s.endCmd core 3 c).out
  | _, _ => .next s

/-! ## The Almanac's buffer (R337, R338, R343) -/

/-- The request that the Almanac's unit makes at an IA of its buffer. -/
def Almanac.xl (a : Almanac) (s : State) (ia : Nat) : Xl :=
  { ia, pkg := s.pkgId, rmt := false, host := false, desc := false, asid := a.asid % 4096, gen := a.asid / 4096 % 16 }

/-- R338: n bytes written at home by a single-copy write outside any log; bytes that no translation serves are lost, with a record. -/
def State.almWrite (s : State) (ia n x : Nat) : State :=
  let xl := s.almanac.xl s (ia / 64 * 64)
  let lost (s : State) (f : Nat) : State := s.record (s.memRecord 0 0 5 0 f (xlAt xl ia) 0 0 0 3 none) (512 * 64)
  match s.routeOf 0 xl with
  | (.error f, s) => lost s f
  | (.ok (p, _), s) => match s.xlate (pathBay p) xl needW s.root with
    | (.error f, _, s) => lost s f
    | (.ok fd, _, s) =>
      let mask := byteMask (ia % 64) n
      let bay := pathBay p
      ((s.writePlace bay fd.place (BitVec.ofNat 512 (x * 256 ^ (ia % 64))) mask 0).setKeys fd.place mask (s.homeKey bay)).unpinLine ia

/-- R338: the header written, with COUNT and COMPLETE. -/
def State.almHeader (s : State) : State :=
  let a := s.almanac
  s.almWrite a.base 64 (0x4C415147 + 2 ^ 32 * (a.jobId % 2 ^ 32) + 2 ^ 64 * a.count + if a.complete then 2 ^ 128 else 0)

/-- R338: a binding event of the recorded job: its record is appended, those of one cycle in the order of core and context, or recording
stops for want of room. -/
def State.almAppend (s : State) (kind core ctx task : Nat) : State :=
  let a := s.almanac
  let old := if a.recentAt = s.cycle + 1 then a.recent else []
  let first := a.count - old.length
  let room := (2 ^ a.log2 - 64) / 8 - first
  let who (w : Word) : Nat := w.toNat / 2 ^ 48 % 2 ^ 11
  let all := insertBy (fun v w => who v < who w) (BitVec.ofNat 64 (kind * 2 ^ 62 + core * 2 ^ 50 + ctx * 2 ^ 48 + task)) old
  let kept := all.take room
  let s := (List.range kept.length).foldl (fun s i => s.almWrite (a.base + 64 + 8 * (first + i)) 8 (kept.getD i 0).toNat) s
  let full := room < all.length
  let s : State := { s with almanac := { a with count := first + kept.length, recent := kept, recentAt := s.cycle + 1,
                                                complete := a.complete && !full, ended := a.ended || full } }
  if full then s.almHeader else s

/-- R343: the status word of a job. -/
def State.almStatus (s : State) (job : Nat) : Word :=
  let a := s.almanac
  if a.state = 0 || a.jobId ≠ job then 0
  else BitVec.ofNat 64 ((if a.state = 2 && (a.ended || (!a.complete && a.records.length ≤ a.count)) then 3 else a.state) * 2 ^ 62 + (if a.complete then 2 ^ 61 else 0)
    + (if a.mismatch then 2 ^ 60 else 0) + min a.count (2 ^ 32 - 1))

/-- R254, R343: ALMC.query. -/
def execAlmcQuery (f : EF) (s : State) : Out :=
  .next (s.push 2 false (.scalar (s.almStatus s.start.sr.jobId.toNat) false) (s.dst f.dst) .none)

/-- R254, R337: an ALMC that arms: its buffer and its size, and that nothing is armed. -/
def State.almBad (s : State) (a b : Nat) : Bool := a % 64 != 0 || b < 16 || 34 < b || s.almanac.state != 0

/-- R337: ALMC.rec arms recording of the issuing context's job. -/
def execAlmcRec (f : EF) (s : State) : Out :=
  let a := s.readS f.a .i64
  let b := (s.readS f.b .i64).1.toNat
  if a.2 then .next (s.slotKill 1)
  else if s.almBad a.1.toNat b then .next (s.slotTrap (tOpnd s.issue.slot))
  else .next { s with almanac := { s.almanac with state := 1, jobId := s.start.sr.jobId.toNat, base := a.1.toNat, log2 := b, count := 0, complete := true, mismatch := false,
                                                  ended := false, asid := s.start.sr.asid.toNat % 65536, records := [], cursors := .empty, recent := [], recentAt := 0 } }

/-- n 8-byte words read from an IA of the Almanac's buffer. -/
def State.almWords (s : State) (xl : Nat → Xl) (ia : Nat) : Nat → Option (List Word) × State
  | 0 => (some [], s)
  | n + 1 => match s.lineNow 0 (xl (ia / 64 * 64)) needR false 1 with
    | (.error _, s) => (none, s)
    | (.ok v, s) => match s.almWords xl (ia + 8) n with
      | (none, s) => (none, s)
      | (some l, s) => (some (BitVec.ofNat 64 (v.1.toNat / 256 ^ (ia % 64)) :: l), s)

/-- R337, R339: ALMC.play arms replay of the issuing context's job; a header that does not fit makes every later launch of the job
refused. -/
def execAlmcPlay (f : EF) (s : State) : Out :=
  let a := s.readS f.a .i64
  let b := (s.readS f.b .i64).1.toNat
  if a.2 then .next (s.slotKill 1)
  else if s.almBad a.1.toNat b then .next (s.slotTrap (tOpnd s.issue.slot))
  else
    let job := s.start.sr.jobId.toNat
    let al : Almanac := { s.almanac with state := 2, jobId := job, base := a.1.toNat, log2 := b, count := 0, complete := false, mismatch := false,
                                         ended := false, asid := s.start.sr.asid.toNat % 65536, records := [], cursors := .empty }
    let bad (s : State) : Out := ({ s with almanac := { al with ended := true, badJob := some job } }).out
    match s.almWords (al.xl s) al.base 8 with
    | (none, s) => bad s
    | (some h, s) =>
      let w0 := (h.getD 0 0).toNat
      let count := (h.getD 1 0).toNat
      if w0 % 2 ^ 32 ≠ 0x4C415147 || (2 ^ b - 64) / 8 < count || w0 / 2 ^ 32 ≠ job then bad s
      else match s.almWords (al.xl s) (al.base + 64) count with
        | (none, s) => bad s
        | (some l, s) => ({ s with almanac := { al with records := l, complete := (h.getD 2 0).getLsbD 0,
                                                        badJob := if al.badJob = some job then none else al.badJob } }).out

/-- R337: the Almanac disarmed: a recording's header is written first. -/
def State.almDisarm (s : State) : State :=
  let s := if s.almanac.state = 1 then s.almHeader else s
  { s with almanac := { s.almanac with state := 0 } }

/-- R337: ALMC.stop. -/
def execAlmcStop (_ : EF) (s : State) : Out := if s.almanac.state = 0 then .next s else s.almDisarm.out

end Sys2Proof.Machine
end

