-- ==== Sys2Proof/Machine/Walker.lean ====
section
/-! DEFINITION. The itinerary walker (R253, R295 to R297), and the start of an engine's next command (R240). The unit that acts in a
visit is eight times the core, and 4: the walker reads as engine number 4. -/

namespace Sys2Proof.Machine

open Sys2Proof

/-! ## Engines run (R240) -/

/-- R290: whether a command stands between its runs, or waits for others. -/
def Cmd.atRun (c : Cmd) : Bool :=
  !c.started || (match c.kind with
    | .cpy | .gath | .scat => c.off == 0 && c.blk == 0 && c.outOff == 0 && c.buf.isEmpty && c.reads.isEmpty && c.flights.isEmpty
    | .coll => c.reads.isEmpty && c.flights.isEmpty
    | .cmpl => c.run == 0
    | .migr => c.run == 0)

/-- The number under which a held request of an engine goes. -/
def heldTag : Instr → Option Nat
  | .bayReadRequest r => some r.load
  | .logEntryArrival p => some p.pos
  | _ => none

/-- R290: whether nothing of a held command is under way but what it is held with. -/
def Cmd.stands (c : Cmd) : Bool :=
  let held (t : Nat) : Bool := c.heldReqs.any (fun ev => heldTag ev == some t)
  c.held && c.flights.isEmpty && c.reads.all (fun r => r.got.isSome || r.bad.isSome || held r.tag) && c.acks.all held

/-- R240: ENGINE_COMMAND_START: one cycle of an engine's head command, which starts four cycles after its entry, or in the cycle after
its predecessor's last access. A held command waits for its resumption. (DEDUCED, log entry 74). -/
def execEngineCommandStart (core eng : Nat) (s : State) : Out :=
  let g := (s.core core).engine eng
  match g.queue with
  | [] => .next s
  | c :: _ =>
    if c.held || (s.stoppedCore core && c.atRun) then .next s
    else if !c.started && s.cycle < max (c.entered + 4) (g.lastAccess + 1) then
      .next (s.at (max (c.entered + 4) (g.lastAccess + 1) - s.cycle) rkEngine (core * 8 + eng) (.engineCommandStart core eng))
    else
      let bad := if c.started then none else s.upset core (8 + eng)
      let c := { c with started := true }
      let s := s.setHead core eng c
      match bad with
      | some sub => ((s.takeUpset core (8 + eng)).engFail core eng c 0xE sub 0 |>.pipeErr core c.ctx c.epoch (if c.walker then 3 else 2) sub (15 + 16 * eng) c.pc).out
      | none =>
      match c.kind with
      | .cpy | .gath | .scat => (s.moveStep core eng c).out
      | .coll => (s.collStep core eng c).out
      | .cmpl => if c.status != 0 then (s.endCmd core eng c).out else if c.run = 0 then (s.cmplStep core eng c).out else (s.at 0 rkEngine (core * 8 + eng) .cmplWrite).out
      | .migr => (s.migrStep core eng c).out

/-! ## Nodes (R295) -/

/-- A field of a node. -/
def nodeField (n : Line) (lo w : Nat) : Nat := n.toNat / 2 ^ lo % 2 ^ w
def nodeKind (n : Line) : Nat := nodeField n 0 16
def nodeNext (n : Line) : Nat := nodeField n 24 10
def nodeAlt (n : Line) : Nat := nodeField n 34 10
def nodeOpc (n : Line) : Nat := nodeField n 44 10
def nodeCmd (n : Line) : Nat := nodeField n 64 16
def nodeA (n : Line) : Nat := nodeField n 128 64
def nodeB (n : Line) : Nat := nodeField n 192 64
def nodeC (n : Line) : Nat := nodeField n 256 64
def nodeCaddr (n : Line) : Nat := nodeField n 320 64
def nodeVal (n : Line) : Nat := nodeField n 384 64
def nodeCnt (n : Line) : Nat := nodeField n 448 64

/-- R295: whether a node is malformed: a reserved bit, an unknown kind, or a comparison code or condition word out of range. -/
def nodeBad (n : Line) : Bool :=
  nodeField n 54 10 != 0 || nodeField n 80 48 != 0 || 4 < nodeKind n
    || (nodeKind n == 2 && (5 < nodeField n 16 8 || 0x100000 < nodeCaddr n + 8))

/-- The window address of a node. -/
def Walker.addr (w : Walker) (i : Nat) : Nat := w.base.toNat + 64 * i

/-- The visit that a kind of node has. -/
def visitOf (kind : Nat) : Instr :=
  if kind = 0 then .itinEndNode else if kind = 2 then .itinConditionNode else if kind = 3 then .itinWhileNode
  else if kind = 4 then .itinJoinNode else .itinCommandNode

/-- The unit of a core's walker. -/
def walkerUnit (core : Nat) : Nat := core * 8 + 4

/-- R297: whether the walker performs a node's command itself: OWN or SEMS. -/
def nodeOwn (n : Line) : Bool := nodeKind n == 1 && (nodeOpc n == 0x008 || nodeOpc n == 0x010)

/-- R296, R297: the visit of the walker's next node some cycles from now, or the read of it. An OWN or SEMS acts before the bundles of its
cycle. (DESIGN CHOICE, log entry 60). -/
def State.visitIn (s : State) (core delay : Nat) : State :=
  let k := s.core core
  match k.walker.line with
  | some n => s.at delay (if nodeOwn n then rkSem else rkEngine) (walkerUnit core) (visitOf (nodeKind n))
  | none => s.at delay rkEngine (walkerUnit core) (visitOf (nodeKind (BitVec.ofNat 512 (bytesAt k.sp (k.walker.addr k.walker.node) 64))))

/-- R253, R254: the walker ends with a token. -/
def State.walkerEnd (s : State) (core : Nat) (v : Word) : State :=
  let w := (s.core core).walker
  let s := s.updCore core (fun k => { k with walker := .idle })
  let s := (s.sink core 0).produceAt 0 core w.ctx w.epoch w.id (.scalar v false) w.dst
  (List.range 4).foldl (fun s c => s.updCtx core c (fun x => if x.wait == .walker then { x with wait := .none } else x)) s

/-- R296: the token of a malformed node. (DEDUCED, log entry 23). -/
def nodeToken : Word := failToken 2 4

/-- R296: the walker goes to a node, two cycles after this visit; it reads the node in the cycle before. (DESIGN CHOICE, log entry 60). -/
def State.walkerGo (s : State) (core node : Nat) : State :=
  let s := s.updCore core (fun k => { k with walker := { k.walker with node, line := none, nodeAt := s.cycle + 2 } })
  s.visitIn core 1

/-- The same visit made again in the next cycle. (DESIGN CHOICE, log entry 60). -/
def State.visitAgain (s : State) (core : Nat) : State := s.visitIn core 1

/-- R160, R295: what the walker reads as the last engine of its core, if the banks are free in this cycle. -/
def State.walkerRead (s : State) (core a n : Nat) : Option (Nat × State) :=
  let k := s.core core
  if k.banksFree s.cycle (tilesOf a n) then some ((k.spRead a n).1, s.setCore core (k.grant s.cycle s.cycle (tilesOf a n))) else none

/-- What the start of a visit finds. -/
inductive Visit where
  /-- nothing more is done in this cycle -/
  | finished (s : State)
  | node (n : Line) (s : State)

/-- R253, R295, R296: the read of a node, or its visit: a failed command or a stop ends the itinerary, a node outside the window or malformed
ends it too, and a busy bank delays the read. -/
def State.visit (s : State) (core kind : Nat) : Visit :=
  let k := s.core core
  let w := k.walker
  if !w.running || w.held || s.stoppedCore core then .finished s
  else if w.fail != 0 then .finished (s.walkerEnd core w.fail)
  else match w.line with
  | some n =>
    if nodeBad n then .finished (s.walkerEnd core nodeToken)
    else if nodeKind n != kind then .finished (s.visitIn core 0)
    else .node n s
  | none =>
    if w.stopping then .finished (if w.out = 0 then s.walkerEnd core 2 else s.visitAgain core)
    else if 0x100000 < w.addr w.node + 64 then .finished (s.walkerEnd core nodeToken)
    else match s.upset core 12 with
      | some sub => .finished (((s.takeUpset core 12).walkerEnd core (failToken 0xE sub)).pipeErr core w.ctx w.epoch 3 sub (15 + 16 * 4) w.pc)
      | none => match s.walkerRead core (w.addr w.node) 64 with
        | none => .finished (s.visitAgain core)
        | some r => .finished ((r.2.updCore core (fun k => { k with walker := { k.walker with line := some (BitVec.ofNat 512 r.1), nodeAt := s.cycle + 1 } })).visitIn core 1)

/-! ## Command nodes (R296, R297) -/

/-- A command node's operands as an E slot's fields. -/
def nodeEF (n : Line) (scope : BitVec 3) : EF := { cmd := BitVec.ofNat 16 (nodeCmd n), scope, c := 0, b := 0, a := 0, dst := 63 }

/-- A walker's command (R204, R296). (DEDUCED, log entry 23). -/
def Walker.cmd (w : Walker) (kind : CmdKind) (n : Line) (now : Nat) (scope : BitVec 3) (desc : Line) : Cmd :=
  { num := 0, kind, ctx := w.ctx, epoch := w.epoch, id := w.id, dst := none, walker := true, f := nodeEF n scope,
    a := BitVec.ofNat 64 (nodeA n), b := BitVec.ofNat 64 (nodeB n), c := BitVec.ofNat 64 (nodeC n), bPoison := false, desc, rng := w.rng,
    asid := w.asid, detmode := w.detmode, taskId := w.taskId, jobId := w.jobId, entered := now, started := false, status := 0, run := 0,
    off := 0, blk := 0, outRun := 0, outOff := 0, outBlk := 0, raw := [], buf := [], idx := [], reads := [], flights := [], acks := [],
    heldReqs := [], badTag := none, finish := 0, bufs := [], held := false, bundle := 0, pc := w.pc }

/-- R246: whether CMD names a collective. -/
def collFields (cmd : Nat) : Bool := cmd % 8 < 4 && cmd / 2 ^ 9 == 0 && cmd / 8 % 4 != 3 && (cmd % 8 < 2 || cmd / 8 % 4 == 0)

/-- R240, R296, R361: a walker's command enters its queue, or waits for room. -/
def State.walkerPut (s : State) (core : Nat) (c : Cmd) (next : Nat) : State :=
  if (s.core core).engineFull (engineOf c.kind) || s.bufferHeld (s.cmdBuffers c) then s.visitAgain core
  else
    let s := s.enqueue core c
    let s := s.updCore core (fun k => { k with walker := { k.walker with out := k.walker.out + 1 } })
    let s := if c.kind = .coll then s.collBegin core (c.idx.getD 0 0) (c.idx.getD 1 0) c.jobId.toNat else s
    s.walkerGo core next

/-- R297: OWN by the walker. -/
def State.walkerOwn (s : State) (core : Nat) (n : Line) : State :=
  let a := nodeA n
  let b := nodeB n
  if 1 < nodeCmd n || b = 0 || 512 < a + b then s.walkerEnd core nodeToken
  else
    let id := s.fresh
    let s := s.ownFlip core a b (nodeCmd n = 1) false
    (s.updCore core (fun k => { k with walker := { k.walker with flips := k.walker.flips ++ [id] } })).walkerGo core (nodeNext n)

/-- R297: SEMS by the walker. -/
def State.walkerSems (s : State) (core : Nat) (n : Line) : State :=
  let a := nodeA n
  let b := nodeB n
  let c := nodeC n
  let remote := nodeCmd n = 1
  if 1 < nodeCmd n || s.semsBad core remote a b c then s.walkerEnd core nodeToken
  else
    let s := s.semSend core (unitEng 4) (if remote then some c else none) a b 0
    let sent := if remote then [(s.relCore core c, a, b)] else []
    (s.updCore core (fun k => { k with walker := { k.walker with sent := k.walker.sent ++ sent } })).walkerGo core (nodeNext n)

/-- R296: ITIN_COMMAND_NODE. -/
def execItinCommandNode (s : State) : Out :=
  let core := s.unit / 8
  match s.visit core 1 with
  | .finished s => s.out
  | .node n s =>
    let w := (s.core core).walker
    let opc := nodeOpc n
    let bad : Out := (s.walkerEnd core nodeToken).out
    let put (c : Cmd) : Out := (s.walkerPut core c (nodeNext n)).out
    if opc = 0x001 then
      let va := nodeA n
      if nodeCmd n ≠ 0 || va % 64 ≠ 0 || 0x100000 < va + 64 then bad
      else match s.walkerRead core va 64 with
        | none => (s.visitAgain core).out
        | some r =>
          let c := w.cmd .cpy n (s.cycle + 1) 0 (BitVec.ofNat 512 r.1)
          if cpyBad c.desc || c.descBad then bad else (r.2.walkerPut core c (nodeNext n)).out
    else if opc = 0x002 || opc = 0x003 then
      let c := w.cmd (if opc = 2 then .gath else .scat) n s.cycle 0 0
      if nodeCmd n / 2 ^ 13 = 7 || nodeA n % 4 ≠ 0 || 0x100000 < nodeA n + 4 * gathCount c.f then bad else put c
    else if opc = 0x004 then
      let c := w.cmd .coll n s.cycle 5 0
      let off (a : Nat) : Bool := collCount c.c != 0 && collOff c.rng c.f a
      if !collFields (nodeCmd n) || nodeC n / 2 ^ 42 ≠ 0 || off (nodeA n) || off (nodeB n) then bad
      else match s.collSetOf w.jobId.toNat with
        | none => (s.walkerEnd core (gangFail 2)).out
        | some set => put { c with idx := [set, tget s.collNext 0 set] }
    else if opc = 0x018 then
      if nodeCmd n ≠ 0 || nodeA n % 8 ≠ 0 then bad else put (w.cmd .cmpl n s.cycle 0 0)
    else if opc = 0x008 then (s.walkerOwn core n).out
    else if opc = 0x010 then (s.walkerSems core n).out
    else bad

/-- R296: the CNT word of a node of the walker's itinerary written. -/
def State.putCount (s : State) (core node v : Nat) : State := s.spStore core ((s.core core).walker.addr node + 56) 8 v 0

/-- R132, R296: an unsigned comparison by its code. -/
def nodeCompare (cc a b : Nat) : Bool :=
  if cc = 0 then a == b else if cc = 1 then a != b else if cc = 2 then a < b else if cc = 3 then a ≤ b else if cc = 4 then b < a else b ≤ a

/-- R160, R295, R296: ITIN_CONDITION_NODE: the condition word is read in the visit, or when its bank is free. -/
def execItinConditionNode (s : State) : Out :=
  let core := s.unit / 8
  match s.visit core 2 with
  | .finished s => .next s
  | .node n s => match s.walkerRead core (nodeCaddr n) 8 with
    | none => .next (s.visitAgain core)
    | some r => .next (r.2.walkerGo core (if nodeCompare (nodeField n 16 8) r.1 (nodeVal n) then nodeNext n else nodeAlt n))

/-- R296: ITIN_WHILE_NODE: what is left of its trips stands in its CNT word. -/
def execItinWhileNode (s : State) : Out :=
  let core := s.unit / 8
  match s.visit core 3 with
  | .finished s => .next s
  | .node n s =>
    if nodeCnt n = 0 then .next ((s.putCount core (s.core core).walker.node (nodeVal n % 65536)).walkerGo core (nodeNext n))
    else .next ((s.putCount core (s.core core).walker.node (nodeCnt n - 1)).walkerGo core (nodeAlt n))

/-- R297: whether everything that the walker has begun has taken effect. -/
def State.walkerDone (s : State) (core : Nat) : Bool :=
  let k := s.core core
  let w := k.walker
  let coming (e : Nat × Nat × Nat) : Bool :=
    let ev : Instr := .remoteSemsArrival e.1 e.2.1 e.2.2
    let mine (p : Packet) : Bool := p.ev == ev && (p.path.head?.map (·.1)) == some core
    s.gust.placing.any (fun p => mine p.pkt) || s.gust.pkts.entries.any (fun p => match p.2 with | some p => mine p | none => false)
      || s.agenda.any (fun d => d.ev == ev)
  w.out == 0 && !k.flips.any (fun f => w.flips.contains f.id) && !w.sent.any coming

/-- R296: ITIN_JOIN_NODE. -/
def execItinJoinNode (s : State) : Out :=
  let core := s.unit / 8
  match s.visit core 4 with
  | .finished s => .next s
  | .node n s =>
    if s.walkerDone core then
      let s := s.updCore core (fun k => { k with walker := { k.walker with flips := [], sent := [] } })
      .next (s.walkerGo core (nodeNext n))
    else .next (s.visitAgain core)

/-- R296: ITIN_END_NODE: it waits as a join does, and produces token 1. -/
def execItinEndNode (s : State) : Out :=
  let core := s.unit / 8
  match s.visit core 0 with
  | .finished s => .next s
  | .node _ s => .next (if s.walkerDone core then s.walkerEnd core 1 else s.visitAgain core)

/-! ## ITIN and ITSTOP (R253) -/

/-- R296: the nodes to which a node may lead. -/
def nodeSuccs (n : Line) : List Nat :=
  if nodeBad n || nodeKind n = 0 then [] else if nodeKind n = 2 || nodeKind n = 3 then [nodeNext n, nodeAlt n] else [nodeNext n]

/-- R296: the nodes of an itinerary that can be reached, each once, from those still to be looked at, in at most some looks.
(DESIGN CHOICE, log entry 60). -/
def nodesFrom (node : Nat → Option Line) : Nat → List Nat → List Nat → List Nat
  | 0, _, seen => seen
  | _, [], seen => seen
  | fuel + 1, i :: rest, seen =>
    if seen.contains i then nodesFrom node fuel rest seen
    else match node i with
      | none => nodesFrom node fuel rest seen
      | some n => nodesFrom node fuel (nodeSuccs n ++ rest) (seen ++ [i])

/-- R295, R296: at ITIN, CNT of every while node that the itinerary can reach is set from its VAL. (DESIGN CHOICE, log entry 60). -/
def State.setCounts (s : State) (core : Nat) : State :=
  let k := s.core core
  let node (i : Nat) : Option Line :=
    if 0x100000 < k.walker.addr i + 64 then none else some (BitVec.ofNat 512 (bytesAt k.sp (k.walker.addr i) 64))
  (nodesFrom node 2050 [0] []).foldl (fun s i => match node i with
    | some n => if nodeKind n = 3 && !nodeBad n then s.putCount core i (nodeVal n % 65536) else s
    | none => s) s

/-- R253, R295, R296: ITIN starts the walker, whose first visit comes two cycles later; a busy walker blocks the context.
(DESIGN CHOICE, log entry 60). -/
def execItin (f : EF) (s : State) : Out :=
  let a := s.readS f.a .i64
  let i := s.issue
  if a.2 then .next (s.slotKill 1)
  else if a.1.toNat % 64 ≠ 0 || 0x100000 < a.1.toNat + 64 then .next (s.slotTrap (tOpnd i.slot))
  else if (s.core i.core).walker.running then .next (s.slotBlock .walker)
  else
    let r := s.reserveFor false (s.dst f.dst)
    let x := s.start
    let d := 2 + if isPort f.a then 3 else 0
    let w : Walker := { Walker.idle with running := true, ctx := i.ctx, epoch := x.epoch, id := r.1, dst := s.dst f.dst, base := a.1, rng := x.sr.rng, asid := x.sr.asid,
                                         taskId := x.sr.taskId, jobId := x.sr.jobId, detmode := x.sr.detmode, nodeAt := s.cycle + d, pc := i.pc }
    .next (((r.2.updCore i.core (fun k => { k with walker := w })).setCounts i.core).visitIn i.core (d - 1))

/-- R253: ITSTOP stops the walker at its next node boundary. -/
def execItstop (s : State) : Out :=
  .next (s.updCore s.issue.core (fun k => { k with walker := { k.walker with stopping := k.walker.running } }))

end Sys2Proof.Machine
end

