-- ==== Sys2Proof/Machine/Launch.lean ====
section
/-! DEFINITION. Launches (R273 to R279): the launch block, what the Curator reads and what makes it refuse, the groups it forms and
sends to the dies, and completion words. -/

namespace Sys2Proof.Machine

open Sys2Proof

/-! ## The Curator's reads (R273) -/

/-- What a read by the Curator answers. -/
abbrev CurAns (α : Type) := Except TrapInfo α × State

/-- One read followed by another. -/
def curThen {α β : Type} (m : CurAns α) (f : α → State → CurAns β) : CurAns β :=
  match m with
  | (.error t, s) => (.error t, s)
  | (.ok a, s) => f a s

/-- A check between reads. -/
def curCheck {α : Type} (ok : Bool) (t : TrapInfo) (s : State) (k : State → CurAns α) : CurAns α :=
  if ok then k s else (.error t, s)

/-- Some lines read: the bytes from an address on, and their words' poison. -/
def State.curLines (s : State) (x : Xl) (n addr : Nat) : CurAns (Nat × Nat) :=
  match s.linesNow 0 needR false (lineXls x n) with
  | (.error f, s) => (.error ⟨8, f, BitVec.ofNat 64 addr⟩, s)
  | (.ok v, s) => (.ok (v.1 / 256 ^ (x.ia % 64) % 256 ^ n, v.2 / 2 ^ (x.ia % 64 / 8)), s)

/-- R273: n bytes read at an IA under SUPASID. -/
def State.curRead (s : State) (ia n : Nat) : CurAns (Nat × Nat) :=
  if 2 ^ 57 < ia + n then (.error (tRange 4 ia), s) else s.curLines (s.supXl ia) n ia

/-- R273: n bytes read at a virtual address through a range template. -/
def State.curReadV (s : State) (rng : Tbl Word) (va n : Nat) : CurAns (Nat × Nat) :=
  if va < 0x100000 then (.error (tRange 1 va), s)
  else match rangeXl rng va n needR with
    | .error f => (.error (tRange f va), s)
    | .ok x => s.curLines x n va

/-- A field of a number. -/
def fieldOf (x lo w : Nat) : Nat := x / 2 ^ lo % 2 ^ w

/-- R274: what the Curator reports of a reserved field, a value out of range, or a malformed record, at an address. -/
def badField (a : Nat) : TrapInfo := ⟨2, 3, BitVec.ofNat 64 a⟩
def badRecord (a : Nat) : TrapInfo := ⟨2, 4, BitVec.ofNat 64 a⟩

/-! ## The launch block (R273) -/

def lbKind (b : Nat) : Nat := fieldOf b 0 8
def lbPrio (b : Nat) : Nat := fieldOf b 8 8
def lbDie (b : Nat) : Nat := fieldOf b 16 8
def lbDet (b : Nat) : Bool := b.testBit 24
def lbJob (b : Nat) : Nat := fieldOf b 32 32
def lbAddr (b : Nat) : Nat := fieldOf b 64 64
def lbCount (b : Nat) : Nat := fieldOf b 128 32
def lbDoldn (b : Nat) : Nat := fieldOf b 168 8
def lbFmode (b : Nat) : Nat := fieldOf b 176 4
def lbCmpl (b : Nat) : Nat := fieldOf b 192 64
def lbSeq (b : Nat) : Nat := fieldOf b 256 40
def lbRng (b : Nat) : Nat := fieldOf b 320 64
def lbImg (b : Nat) : Nat := fieldOf b 384 64
def lbTrap (b : Nat) : Nat := fieldOf b 448 64

/-- A Doldrums exponent: off, or 16 to 40. -/
def doldnOk (n : Nat) : Bool := n == 0 || (decide (16 ≤ n) && decide (n ≤ 40))

/-- R273: whether the block's own fields are legal. -/
def lbOk (b : Nat) : Bool :=
  fieldOf b 25 7 == 0 && fieldOf b 160 8 == 0 && fieldOf b 180 12 == 0 && fieldOf b 296 24 == 0
    && lbCmpl b % 8 == 0 && lbRng b % 64 == 0 && lbImg b % 65536 == 0
    && (if lbKind b = 0 then lbPrio b ≤ 47 && lbDie b == 0 && doldnOk (lbDoldn b) && lbCount b == 0 && lbImg b != 0
      else lbKind b == 1 && lbPrio b == 0 && lbDie b ≤ 4 && lbDoldn b == 0 && decide (1 ≤ lbCount b) && lbCount b ≤ 65536)

/-- Words of a number, by place. -/
def wordsOf (n x : Nat) : Tbl Word := (List.range n).foldl (fun t i => tset t 0 i (BitVec.ofNat 64 (x / 2 ^ (64 * i)))) .empty

/-- R273, R274: the range template, each word as MTS would take it. -/
def State.curTemplate (s : State) (b : Nat) : CurAns (Tbl Word) :=
  curThen (s.curRead (lbRng b) 256) (fun v s =>
    let t := wordsOf 32 v.1
    match (List.range 32).find? (fun i => !sysLegal (0x40 + i) (tget t 0 i)) with
    | some i => (.error (badField (lbRng b + 8 * i)), s)
    | none => (.ok t, s))

/-- R274: a template with the sets that MTS would refuse cleared. (DESIGN CHOICE, log entry 87). -/
def legalSets (t : Tbl Word) : Tbl Word :=
  (List.range 8).foldl (fun u k =>
    if (List.range 4).all (fun j => sysLegal (0x40 + 4 * k + j) (tget t 0 (4 * k + j))) then u
    else (List.range 4).foldl (fun u j => tset u 0 (4 * k + j) 0) u) t

/-! ## Images (R37, R39, R41) -/

/-- R37, R274: an image header, by its 64 bytes: whether its fields are legal. RTOFF must fit the 48 bits of IMGRT. (DESIGN CHOICE, log
entry 87). (DESIGN CHOICE, log entry 87). -/
def headerOk (h : Nat) : Bool :=
  fieldOf h 0 32 == 0x4D495147 && fieldOf h 32 16 == 1 && fieldOf h 48 16 < 2 && fieldOf h 64 64 % 64 == 0 && fieldOf h 128 64 % 64 == 0
    && fieldOf h 192 64 % 64 == 0 && fieldOf h 192 64 < 2 ^ 48 && fieldOf h 256 32 ≤ 1024 && fieldOf h 320 64 % 32 == 0 && fieldOf h 448 64 % 16 == 0

/-- R61: IMGRT of a header. -/
def imgRtOf (h : Nat) : Word := BitVec.ofNat 64 (fieldOf h 256 32 * 2 ^ 48 + fieldOf h 192 64)

/-- R41: whether a data or tile descriptor refuses a launch. -/
def tileDescBad (d : Nat) : Bool :=
  let kind := fieldOf d 192 8
  let len := fieldOf d 64 64
  3 < kind || (kind == 3 && (fieldOf d 128 64 != 0 || fieldOf d 200 8 != 0 || fieldOf d 208 16 / 512 % 64 != 0 || 511 < fieldOf d 224 32
      || len % 2048 != 0 || 131072 < len || 512 < fieldOf d 208 9 + len / 2048 || fieldOf d 0 64 % 64 != 0))
    || (kind != 3 && (fieldOf d 208 16 != 0 || fieldOf d 224 32 != 0 || fieldOf d 200 8 < 3 || 21 < fieldOf d 200 8 || fieldOf d 0 64 % 64 != 0))

/-- R36, R41: n descriptors of an image at an IA, the tiles among them read. -/
def State.curTiles (s : State) (img at_ : Nat) : Nat → CurAns (List TileInit)
  | 0 => (.ok [], s)
  | n + 1 => curThen (s.curRead at_ 32) (fun v s =>
      let d := v.1
      curCheck (!tileDescBad d) (badField at_) s (fun s =>
        if fieldOf d 192 8 = 3 then
          curThen (s.curRead (img + fieldOf d 0 64) (fieldOf d 64 64)) (fun w s =>
            curThen (s.curTiles img (at_ + 32) n) (fun l s =>
              (.ok (⟨fieldOf d 224 32, fieldOf d 208 9, d.testBit 223, fieldOf d 64 64, w.1, w.2⟩ :: l), s)))
        else s.curTiles img (at_ + 32) n))

/-- R275: the groups of a start-vector launch: one on each die that holds a named context. -/
def startGroups (b key launch : Nat) (entry : Nat → Nat) (tiles : List TileInit) : List (Nat × GroupDesc) :=
  (List.range 4).filterMap (fun d =>
    let recs := (List.range 512).filterMap (fun i =>
      let e := entry (512 * d + i)
      if e = 0 then none else some (i, (⟨BitVec.ofNat 256 ((lbImg b + e) % 2 ^ 64), 0, key, false⟩ : RecP)))
    if recs.isEmpty then none
    else some (d, { gid := 0xFFFFFFF0 + d, jobId := key, w := 16, h := 8, prio := lbPrio b, nbar := 64, doldn := lbDoldn b, aging := false, ens := true,
                    startVec := true, pool := false, launch, recs := ⟨recs⟩, tiles := tiles.filter (fun t => t.core / 128 == d) }))

/-! ## Task launches (R276) -/

/-- R276: whether a group descriptor is legal. -/
def descOk (d : Nat) : Bool :=
  let w := fieldOf d 144 8
  let h := fieldOf d 152 8
  let n := fieldOf d 128 16
  fieldOf d 186 326 == 0 && fieldOf d 32 32 == 0 && doldnOk (fieldOf d 176 8) && fieldOf d 168 8 ≤ 47 && fieldOf d 160 8 ≤ 16
    && decide (1 ≤ h) && h ≤ 8 && decide (1 ≤ w) && w ≤ 16 && decide (1 ≤ n) && n ≤ 4 * w * h && fieldOf d 64 64 % 32 == 0 && fieldOf d 0 32 < 0xFFFF0000

/-- R267, R268: n records at a virtual address. -/
def State.curRecords (s : State) (rng : Tbl Word) (key va : Nat) : Nat → CurAns (List RecP)
  | 0 => (.ok [], s)
  | n + 1 => curThen (s.curReadV rng va 32) (fun v s =>
      curCheck (!malformedRecord (BitVec.ofNat 256 v.1)) (badRecord va) s (fun s =>
        curThen (s.curRecords rng key (va + 32) n) (fun l s => (.ok (⟨BitVec.ofNat 256 v.1, va, key, false⟩ :: l), s))))

/-- R274, R276: n group descriptors at an IA, with their records. -/
def State.curGroups (s : State) (rng : Tbl Word) (key launch ia : Nat) : Nat → CurAns (List GroupDesc)
  | 0 => (.ok [], s)
  | n + 1 => curThen (s.curRead ia 64) (fun v s =>
      let d := v.1
      curCheck (descOk d) (badField ia) s (fun s =>
        curThen (s.curRecords rng key (fieldOf d 64 64) (fieldOf d 128 16)) (fun recs s =>
          curThen (s.curGroups rng key launch (ia + 64) n) (fun l s =>
            let g : GroupDesc := { gid := fieldOf d 0 32, jobId := key, w := fieldOf d 144 8, h := fieldOf d 152 8, prio := fieldOf d 168 8, nbar := fieldOf d 160 8,
                                   doldn := fieldOf d 176 8, aging := d.testBit 184, ens := d.testBit 185, startVec := false, pool := false, launch,
                                   recs := ⟨recs.zipIdx.map (fun r => (r.2, r.1))⟩, tiles := [] }
            (.ok (g :: l), s)))))

/-! ## The whole launch (R274) -/

/-- A key for a job of a JOBID that no job in the package has. (DESIGN CHOICE, log entry 70). -/
def State.jobKey (s : State) (jobId : Nat) : Nat :=
  let n := s.jobs.entries.length + 1
  ((((List.range n).map (fun i => jobId + 2 ^ 32 * (i + 1))).find? (fun k => (s.job k).isNone)).getD (jobId + 2 ^ 32 * (n + 1)))

/-- A job as its launch makes it (R273). -/
def launchJob (b : Nat) (rng : Tbl Word) (imgRt : Word) : Job :=
  { jobId := lbJob b, trapVec := BitVec.ofNat 64 (lbTrap b), imgBase := BitVec.ofNat 64 (lbImg b), imgRt, rng, fmode := BitVec.ofNat 64 (lbFmode b), det := lbDet b,
    cmplAddr := BitVec.ofNat 64 (lbCmpl b), cmplSeq := BitVec.ofNat 64 (lbSeq b), fail := false, cls := 0, nonRepro := false, done := false }

/-- R274, R339, R388: launches of a JOBID that are refused whatever they hold. -/
def State.jobRefused (s : State) (jobId : Nat) : Option TrapInfo :=
  if s.almanac.badJob = some jobId then some ⟨0xB, 2, BitVec.ofNat 64 s.almanac.base⟩
  else if s.presence.contains (jobId, 1025) then some ⟨0xD, 4, BitVec.ofNat 64 ctlBase⟩ else none

/-- R274: a launch's template and job, with the image header where it has one. -/
def State.curJob (s : State) (b : Nat) : CurAns (Job × Nat) :=
  curCheck (lbOk b) (badField ctlBase) s (fun s =>
    match s.jobRefused (lbJob b) with
    | some t => (.error t, s)
    | none => curThen (s.curTemplate b) (fun rng s =>
        if lbImg b = 0 then (.ok (launchJob b rng 0, 0), s)
        else curThen (if lbKind b = 0 then s.curRead (lbAddr b) 64 else s.curReadV rng (lbImg b) 64) (fun h s =>
          curCheck (headerOk h.1) (badField (if lbKind b = 0 then lbAddr b else lbImg b)) s (fun s =>
            (.ok (launchJob b rng (imgRtOf h.1), h.1), s)))))

/-- R36, R275: what a start-vector launch reads: its job, its groups, and the tiles of cores on dies that form none. An image whose header marks
no start vector refuses it. (DESIGN CHOICE, log entry 87). -/
def State.curStart (s : State) (b launch : Nat) : CurAns (Job × List (Nat × GroupDesc) × List TileInit) :=
  curThen (s.curJob b) (fun j s =>
    let h := j.2
    let img := lbAddr b
    curCheck (h.testBit 48 && fieldOf h 384 64 != 0) (badField img) s (fun s =>
      curThen (s.curRead (img + fieldOf h 384 64) 16384) (fun v s =>
        curThen (s.curTiles img (img + fieldOf h 320 64) (fieldOf h 288 32)) (fun tiles s =>
          let gs := startGroups b (s.jobKey (lbJob b)) launch (fun i => fieldOf v.1 (64 * i) 64) tiles
          (.ok (j.1, gs, tiles.filter (fun t => !gs.any (fun g => g.1 == t.core / 128))), s)))))

/-- R276: what a task launch reads. -/
def State.curTask (s : State) (b launch : Nat) : CurAns (Job × List GroupDesc) :=
  curThen (s.curJob b) (fun j s =>
    curThen (s.curGroups j.1.rng (s.jobKey (lbJob b)) launch (lbAddr b) (lbCount b)) (fun l s => (.ok (j.1, l), s)))

/-! ## Completion words (R279) -/

/-- R250, R279: a completion word written at system scope by the Curator, through a template; whether it could be. A fault at home
is recorded. -/
def State.curWord (s : State) (rng : Tbl Word) (va : Nat) (v : Word) : Bool × State :=
  if va = 0 then (true, s)
  else match rangeXl rng va 8 needW with
    | .error _ => (true, s)
    | .ok x =>
      let held (s : State) (f : Nat) : Bool × State :=
        (false, s.record (s.memRecord 0 0 5 0 f x va 0 0 3 (if holdsEngine f then some .curator else none)) (512 * 64))
      match s.routeOf 0 x with
      | (.error f, s) => held s f
      | (.ok (p, _), s) =>
        if x.host then (true, { s with host := putBytes s.host x.ia 8 v.toNat })
        else if x.rmt then (true, s)
        else if isCtl x.ia then match s.ctlFault x false with
          | some f => held s f
          | none =>
            let off := x.ia - ctlBase
            (true, s.ctlDeliver { off, data := BitVec.ofNat 512 (v.toNat * 256 ^ (off % 64)), mask := byteMask (off % 64) 8, core := 0, ctx := 0, host := false,
                                  priv := 0, ia := x.ia, asidGen := x.asid + 4096 * x.gen, taskid := 0 })
        else match s.xlate (pathBay p) x needW s.root with
          | (.error f, _, s) => held s f
          | (.ok fd, _, s) => (true, s.writeWord (pathBay p) fd x v 0)

/-- R279: the completion word. -/
def cmplWord (fail nonRepro : Bool) (cls : Nat) (seq : Word) : Word :=
  BitVec.ofNat 64 ((if fail then 2 ^ 63 else 0) + (if nonRepro then 2 ^ 62 else 0) + cls % 2 ^ 16 * 2 ^ 40 + seq.toNat % 2 ^ 40)

/-- R274, R359: a launch refused: its completion word with FAIL and the class, and a record of the offending address. The word goes through the
sets of the template that are legal; a template that cannot be read gives none. (DESIGN CHOICE, log entry 87). -/
def State.refuseLaunch (s : State) (b : Nat) (t : TrapInfo) : State :=
  let s := s.record ⟨ringWord0 0 s.pkgId 0 0 5 5 t.sub t.cls, t.addr, BitVec.ofNat 64 (lbJob b), 0, 0, 0, 0, none⟩ (512 * 64)
  match s.curRead (lbRng b) 256 with
  | (.error _, s) => s
  | (.ok v, s) =>
    let rng := legalSets (wordsOf 32 v.1)
    (s.curWord rng (lbCmpl b / 8 * 8) (cmplWord true (!lbDet b) t.cls (BitVec.ofNat 64 (lbSeq b)))).2

/-! ## Dispatch by the Curator (R278, R283) -/

/-- The Curator looks at its intake again. -/
def State.pokeCurator (s : State) : State :=
  if s.intake.isEmpty || s.agenda.any (fun e => e.cycle == s.cycle && e.ev == .curatorDispatch) then s
  else s.intake.foldl (fun s l => if l.ens then s.at 0 rkDecide 511 (.ensembleDispatch l.num) else s) (s.at 0 rkDecide 512 .curatorDispatch)

/-- R274: LAUNCH_WRITE: a launch enters the Curator's intake, which reads it. (DESIGN CHOICE, log entry 14). -/
def execLaunchWrite (block : Line) (host : Bool) (s : State) : Out :=
  if 64 ≤ s.intake.length then .next (s.at 1 rkDecide 512 (.launchWrite block host))
  else
    let n := s.next
    let f := n.2.free
    let b := block.toNat
    let l : Launch := { num := n.1, block, jobId := lbJob b, groups := [], ens := false, time := s.cycle, die := lbDie b }
    let s := { f.2 with intake := f.2.intake ++ [l] }
    .next (s.at (1 + Config.readTime f.1) rkDecide 512 (if lbKind b = 0 then .startVectorLaunch n.1 else .taskLaunch n.1))

/-- A launch that has been read, or refused, replaced in the intake. -/
def State.setLaunch (s : State) (l : Launch) (keep : Bool) : State :=
  { s with intake := if keep then s.intake.map (fun x => if x.num == l.num then l else x) else s.intake.filter (fun x => x.num != l.num) }

/-- R281: a group as an item of a die's queues. -/
def groupItem (g : GroupDesc) (time : Nat) (first : Bool) : Item :=
  { num := 0, kind := .group g, level := g.prio - g.rise, time, source := 512, ctx := 0, aging := g.aging, hold := false, first }

/-- R36: a core's tiles written from the image, with their owner bits. -/
def Core.putTile (k : Core) (t : TileInit) : Core :=
  { k.spPut (2048 * t.tile) t.len t.data t.poison with
    owner := (List.range (t.len / 2048)).foldl (fun o i => tset o false (t.tile + i) t.eng) k.owner }

/-- R36: tiles of cores on which no context starts, written at the launch where no group holds the core. (DESIGN CHOICE, log entry 87). -/
def State.putLoose (s : State) (l : List TileInit) : State :=
  l.foldl (fun s t => if (s.core t.core).group.isSome then s else s.updCore t.core (fun k => k.putTile t)) s

/-- R275: START_VECTOR_LAUNCH: the launch is read, and refused, or its groups wait to be sent together. -/
def execStartVectorLaunch (launch : Nat) (s : State) : Out :=
  match s.intake.find? (fun l => l.num == launch) with
  | none => .next s
  | some l =>
    match s.curStart l.block.toNat launch with
    | (.error t, s) => ((s.setLaunch l false).refuseLaunch l.block.toNat t).out
    | (.ok (j, gs, loose), s) =>
      let key := s.jobKey (lbJob l.block.toNat)
      let s := { s with jobs := tset s.jobs none key (some j) }.putLoose loose
      if gs.isEmpty then ((s.setLaunch l false).at 0 rkJob key .jobComplete).out
      else ((s.setLaunch { l with groups := gs.map (·.2), ens := true, die := 4 } true).at 0 rkDecide 511 (.ensembleDispatch launch)).out

/-- R276, R283: TASK_LAUNCH: the launch is read, and refused, or its groups go to their dies. Groups that name a die enter its queue
at once. -/
def execTaskLaunch (launch : Nat) (s : State) : Out :=
  match s.intake.find? (fun l => l.num == launch) with
  | none => .next s
  | some l =>
    match s.curTask l.block.toNat launch with
    | (.error t, s) => ((s.setLaunch l false).refuseLaunch l.block.toNat t).out
    | (.ok (j, gs), s) =>
      let key := s.jobKey (lbJob l.block.toNat)
      let s := { s with jobs := tset s.jobs none key (some j) }
      let ens := gs.any (·.ens)
      let now := if l.die < 4 then gs.filter (fun g => !g.ens) else []
      let wait (g : GroupDesc) : GroupDesc := { g with waits := some s.cycle }
      let later := (if l.die < 4 then gs.filter (·.ens) else gs).map wait
      let s := now.foldl (fun s g => s.pushItem l.die (groupItem g s.cycle false)) s
      let s := s.setLaunch { l with groups := later, ens } (!later.isEmpty)
      let s := if later.any (·.aging) then s.at s.agePeriod rkLast 512 (.agingRise 4 launch) else s
      let s := if later.isEmpty then s else s.at 0 rkDecide 512 .curatorDispatch
      (if ens then s.at 0 rkDecide 511 (.ensembleDispatch launch) else s).out

/-- R272: the cores of a die that are free, and its barriers that are. -/
def State.freeCores (s : State) (d : Nat) : List Nat :=
  ((List.range 128).map (fun i => 128 * d + i)).filter (fun n => let f := s.coreFree n; f.1 && f.2)

/-- R283: the die with the most free cores among those that admit a group, after what this batch has taken from each. -/
def bestDie (free : List (Nat × Nat × Nat)) (w h nbar : Nat) : Option Nat :=
  let ok := free.zipIdx.filter (fun e => w * h ≤ e.1.1 && nbar ≤ e.1.2.1 && e.1.2.2 < 64)
  match ok with
  | [] => none
  | b :: rest => some (rest.foldl (fun m e => if m.1.1 < e.1.1 then e else m) b).2

/-- The groups of the intake that wait for a die, in the order of R281. (DEDUCED, log entry 76). -/
def State.offered (s : State) : List (Nat × Nat × GroupDesc) :=
  let l := s.intake.flatMap (fun l => (l.groups.filter (fun g => !g.ens)).map (fun g => (l.num, l.time, g)))
  let level (g : GroupDesc) : Nat := g.prio - g.rise
  sortBy (fun a b => level a.2.2 < level b.2.2 || (level a.2.2 == level b.2.2 && a.2.1 < b.2.1)) l

/-- R283: CURATOR_DISPATCH: groups that wait for a die are offered, each to the die with the most free cores that admits it, at most 64
to each die in a batch. -/
def execCuratorDispatch (s : State) : Out :=
  let free := (List.range 4).map (fun d => ((s.freeCores d).length, (tget s.docents .reset d).barsFree.length, 0))
  let step (acc : List (Nat × Nat × Nat) × State) (o : Nat × Nat × GroupDesc) : List (Nat × Nat × Nat) × State :=
    let g := o.2.2
    match bestDie acc.1 g.w g.h g.nbar with
    | none => acc
    | some d =>
      let up (e : (Nat × Nat × Nat) × Nat) : Nat × Nat × Nat := if e.2 == d then (e.1.1 - g.w * g.h, e.1.2.1 - g.nbar, e.1.2.2 + 1) else e.1
      let s : State := { acc.2 with intake := acc.2.intake.map (fun (l : Launch) => if l.num == o.1 then { l with groups := l.groups.erase g } else l) }
      (acc.1.zipIdx.map up, s.pushItem d (groupItem g s.cycle false))
  let r := s.offered.foldl step (free, s)
  let sent (l : Launch) : Bool := l.groups.isEmpty && s.intake.any (fun (x : Launch) => x.num == l.num && !x.groups.isEmpty)
  let s : State := { r.2 with intake := r.2.intake.filter (fun l => !sent l) }
  .next (if r.1.any (fun e => e.2.2 == 64) && !s.offered.isEmpty then s.at 1 rkDecide 512 .curatorDispatch else s)

end Sys2Proof.Machine
end

