-- ==== Sys2Proof/Machine/Place.lean ====
section
/-! DEFINITION. Placing groups and binding records (R277, R284 to R286, R289, R338 to R340): rectangles, a context's state at the start
of a task (R60), pops, the Almanac's binding events, and the end of a group. -/

namespace Sys2Proof.Machine

open Sys2Proof

/-! ## Rectangles (R286) -/

/-- The cores of a rectangle of a die. -/
def rectCores (d x y w h : Nat) : List Nat :=
  (List.range h).flatMap (fun j => (List.range w).map (fun i => 128 * d + 16 * (y + j) + x + i))

/-- The top-left places of a shape, the lowest core first. -/
def corners (w h : Nat) : List (Nat × Nat) :=
  (List.range (9 - h)).flatMap (fun y => (List.range (17 - w)).map (fun x => (x, y)))

/-- R286: the free rectangle of a shape whose top-left core is lowest, among some free cores of a die. -/
def findRect (free : List Nat) (d w h : Nat) : Option (Nat × Nat) :=
  (corners w h).find? (fun c => (rectCores d c.1 c.2 w h).all (fun n => free.contains n))

/-! ## The Almanac's binding events (R338 to R340) -/

/-- Fields of an Almanac's record (R338). -/
def almKind (w : Word) : Nat := w.toNat / 2 ^ 62
def almCore (w : Word) : Nat := w.toNat / 2 ^ 50 % 512
def almCtx (w : Word) : Nat := w.toNat / 2 ^ 48 % 4
def almTask (w : Word) : Nat := w.toNat % 2 ^ 48

/-- R339: the records of a core. -/
def Almanac.mine (a : Almanac) (core : Nat) : List Word := a.records.filter (fun w => almCore w == core)

/-- R339: the cursor's record of a core. -/
def Almanac.next (a : Almanac) (core : Nat) : Option Word := (a.mine core)[tget a.cursors 0 core]?

/-- R339, R341: whether a core's dispatch of a job is bound by a replay. -/
def Almanac.binds (a : Almanac) (core key : Nat) : Bool :=
  a.state == 2 && !a.ended && a.jobId == key % 2 ^ 32 && (a.complete || (a.next core).isSome)

/-- R340, R359: ALMANAC MISMATCH. -/
def State.almMismatch (s : State) (core ctx key found : Nat) : State :=
  let a := s.almanac
  let want := match a.next core with | some w => almTask w | none => 0
  let s := s.record ⟨ringWord0 0 s.pkgId core ctx 5 2 1 0xB, 0, 0, 0, BitVec.ofNat 64 (tget a.cursors 0 core), BitVec.ofNat 64 want, BitVec.ofNat 64 found, none⟩
    (recOrder core ctx 0)
  let s := { s with almanac := { a with mismatch := true, ended := true } }
  if s.ctl.detctl.getLsbD 1 then s.updJob key (fun j => { j with nonRepro := true }) else s.killJob key 0xB

/-- R338 to R340: a binding event of a job: recorded, or compared with the cursor, which moves on. -/
def State.almBind (s : State) (kind core ctx task key : Nat) : State :=
  let a := s.almanac
  if a.state = 1 && (!a.ended || a.recentAt = s.cycle + 1) && a.jobId = key % 2 ^ 32 then s.almAppend kind core ctx task
  else if a.binds core key then
    match a.next core with
    | none => s
    | some w =>
      if almKind w = kind && almCtx w = ctx && almTask w = task then
        { s with almanac := { a with cursors := tset a.cursors 0 core (tget a.cursors 0 core + 1), count := a.count + 1 } }
      else s.almMismatch core ctx key task
  else s

/-! ## The start of a task (R60, R277, R289) -/

/-- R60, R126, R273: a context at the start of a launch or a task. What the log still sends for an earlier task, and what the context
has published, stay with it. (DEDUCED, log entry 69). -/
def Ctx.begin (x : Ctx) (epoch : Nat) (j : Job) (gid : Nat) (r : RecP) (startVec : Bool) (prio ready : Nat) : Ctx :=
  { Ctx.reset with
    status := .running, epoch, nextId := x.nextId, readyAt := ready, pc := BitVec.ofNat 64 (recCode r / 64 * 64)
    s := if startVec then .empty else tset .empty .zero 0 (.scalar (BitVec.ofNat 64 (recFrame r)) false)
    log := x.log, pubPos := x.pubPos, hist := x.hist, pubAt := x.pubAt, acq := x.acq, startVec, record := r
    sr := { SysRegs.reset with
      taskId := if startVec then 0 else BitVec.ofNat 64 (recTask r), groupId := BitVec.ofNat 64 gid, jobId := BitVec.ofNat 64 j.jobId, prio := BitVec.ofNat 64 prio
      asid := BitVec.ofNat 64 ((tget j.rng 0 3).toNat / 2 ^ 28 % 16 * 4096 + (tget j.rng 0 3).toNat / 2 ^ 16 % 4096)
      fmode := j.fmode, detmode := if j.det then 1 else 0, logTail := x.sr.logTail, trapVec := j.trapVec, priv := if startVec then 1 else 0
      frame := if startVec then 0 else BitVec.ofNat 64 (recFrame r), joinAddr := if startVec then 0 else BitVec.ofNat 64 (recJoin r)
      imgBase := j.imgBase, imgRt := j.imgRt, rng := j.rng } }

/-- R265, R277, R285, R289: a record bound to a context, whose first bundle issues no earlier than some cycles later. A record that a
join pushed starts with a refresh of the view, which adds 16 cycles. -/
def State.bind (s : State) (core ctx gid : Nat) (r : RecP) (startVec : Bool) (prio delay : Nat) : State :=
  match s.job r.job with
  | none => s
  | some j =>
    let n := s.next
    let g := match s.group gid with | some g => g.desc.gid | none => gid
    let s := if r.joined then n.2.refresh core else n.2
    s.updCtx core ctx (fun x => x.begin n.1 j g r startVec prio (s.cycle + delay + if r.joined then 16 else 0))

/-- R124, R290: a task that yielded goes on, on an idle context of its core; its arrivals count again where their phases still run. -/
def State.resumeTask (s : State) (core ctx gid : Nat) (r : RecP) (delay : Nat) : State :=
  match (s.core core).yielded.find? (fun y => y.1 == r.va) with
  | none => s
  | some (_, x) =>
    let n := s.next
    let s := n.2.updCore core (fun k => { k with yielded := k.yielded.filter (fun y => y.1 != r.va) })
    let old := s.ctx core ctx
    let own := x.log.map (fun e => { e with epoch := n.1 })
    let still (a : Nat × Nat) : Bool := match s.group gid with | some g => (g.barrier a.1).phase == a.2 | none => false
    let x := { x with epoch := n.1, status := .running, wait := .none, readyAt := s.cycle + delay, log := old.log ++ own, pubPos := old.pubPos, hist := old.hist,
                      pubAt := old.pubAt, acq := old.acq, arrived := x.arrived.filter still, halted := false }
    let s := s.setCtx core ctx x
    s.updGroup gid (fun g => x.arrived.foldl (fun g a =>
      let b := g.barrier a.1
      g.setBarrier a.1 { b with arrived := b.arrived ++ [(core, ctx)] }) g)

/-! ## Placement (R277, R286) -/

/-- R214, R217, R218, R277: a context as a launch begins: what it counts since then, and that it has halted, starts anew; entries of its log that
an earlier task's drain still sends stay. (DEDUCED, log entry 69). -/
def Ctx.launched (x : Ctx) : Ctx :=
  { x with pubPos := 0, hist := .empty, pubAt := .empty, acq := [], sr := { x.sr with logTail := 0 }, halted := false }

/-- R58, R59, R205: a core as a group is first placed on it. (DEDUCED, log entry 69). -/
def Core.fresh (k : Core) (key : Nat) (pool : Bool) : Core :=
  { k with group := some key, ctxs := ⟨k.ctxs.entries.map (fun e => (e.1, e.2.launched))⟩, sems := .empty, accs := .empty, latches := .empty, owner := .empty, flips := [], subs := [], fwds := [], queue := [], yielded := [],
           rtCache := [], walker := .idle, tw := .off, pool }

/-- R281: an item's number for a group: its GROUPID, or where that is in use a number beyond every GROUPID. (DESIGN CHOICE, log entry 70). -/
def State.groupKey (s : State) (gid : Nat) : Nat := if (s.group gid).isNone then gid else 2 ^ 33 + s.fresh

/-- R289, R298: a Doldrums watch started, with the cycles its counter has already; one that is silent stays so until a sink retires. -/
def State.startWatch (s : State) (key elapsed : Nat) (hung : Bool) : State :=
  match s.group key with
  | none => s
  | some g =>
    if g.desc.doldn = 0 then s
    else
      let n := s.next
      let s := n.2.setGroup key (some { g with watch := n.1, lastSink := s.cycle - elapsed, hung })
      if hung then s else s.at (2 ^ g.desc.doldn - elapsed) rkEngine (2 ^ 20) (.doldrumsExpiry key n.1)

/-- R388: whether every member of a launch's ensemble has been placed. -/
def State.ensemblePlaced (s : State) (launch : Nat) : Bool :=
  let waits (g : GroupDesc) : Bool := g.launch == launch && g.ens
  !s.docents.entries.any (fun d => d.2.items.any (fun i => match i.kind with | .group g => waits g | _ => false))
    && !s.intake.any (fun l => l.groups.any waits)

/-- R388: the presence message of this package to itself; those to other members leave the module. -/
def State.sendPresence (s : State) (g : GroupDesc) : State :=
  let job := g.jobId % 2 ^ 32
  if !g.ens || !s.ensemblePlaced g.launch then s
  else match (List.range 16).find? (fun k => let t := tget s.ctl.collTag collTagReset k; t.getLsbD 63 && t.toNat % 2 ^ 32 == job) with
    | none => s
    | some k => if (tget s.ctl.collMask 0 k).getLsbD s.pkgId then s.at 1 rkDecide 512 (.presenceMessage job s.pkgId) else s

/-- R277, R286: a group placed on a rectangle, whole: its barriers granted, its cores made fresh, and its records bound.
(DESIGN CHOICE, log entry 14; DEDUCED, log entry 69). -/
def State.placeGroup (s : State) (d : Nat) (g : GroupDesc) (x y time source : Nat) : State :=
  let doc := tget s.docents .reset d
  let key := s.groupKey g.gid
  let bars := doc.barsFree.take g.nbar
  let grp : Group := { desc := g, die := d, x, y, phase := .placed, hold := false, bars, barriers := .empty, queue := [], lastSink := s.cycle, watch := 0, hung := false,
                       saved := .empty, time, source, stopAt := 0 }
  let s := { s with docents := tset s.docents .reset d { doc with barsFree := doc.barsFree.drop g.nbar, nextDecision := s.cycle + 8 }
                    fresh := s.fresh + 1 }
  let s := s.setGroup key (some grp)
  let s := grp.coreList.foldl (fun s n => s.updCore n (fun k => (g.tiles.filter (fun t => t.core == n)).foldl Core.putTile (k.fresh key g.pool))) s
  let c := g.w * g.h
  let s := g.recs.entries.foldl (fun s e =>
    let n := if g.startVec then 128 * d + e.1 / 4 else grp.coreAt (e.1 % c)
    let ctx := if g.startVec then e.1 % 4 else e.1 / c
    let f := s.free
    let bytes := (g.tiles.filter (fun t => t.core == n)).foldl (fun a t => a + t.len) 0
    let s := f.2.bind n ctx key e.2 g.startVec (if g.startVec then g.prio else recPrio e.2) (40 + Config.placeSlack f.1 % 361 + bytes / 64)
    if g.startVec then s else s.almBind (if g.pool then 3 else 0) n ctx (recTask e.2) g.jobId) s
  ((s.startWatch key 0 false).pokeGroup key).sendPresence g

/-! ## The end of a group (R286, R290) -/

/-- R179, R290: whether nothing that a core's tasks have begun is still under way. -/
def Core.quiet (k : Core) (engines : Bool) : Bool :=
  k.tileOps.isEmpty && k.gangQueue.isEmpty && k.gangDue == 0
    && (List.range 4).all (fun e => let g := k.engine e
      g.ending.isEmpty && (match g.queue with | [] => true | c :: _ => !engines && ((c.atRun && c.acks.isEmpty) || c.stands)))

/-- A group's cores and barriers returned to its die. -/
def State.releaseGroup (s : State) (g : Group) : State :=
  let doc := tget s.docents .reset g.die
  let bars := (List.range 64).filter (fun b => doc.barsFree.contains b || g.bars.contains b)
  let s := { s with docents := tset s.docents .reset g.die { doc with barsFree := bars } }
  let s := g.coreList.foldl (fun s n => s.updCore n (fun k => { k with group := none, pool := false, yielded := [], queue := [], rtCache := [], subs := [], fwds := [] })) s
  (s.pokeDocent g.die).pokeCurator

/-- A test of the records on their way to a queue. -/
def State.pushing (s : State) (p : Nat → Nat → RecP → Bool) : Bool :=
  let hit (ev : Instr) : Bool := match ev with | .spawnRecordPush core _ _ q r => p core q r | _ => false
  s.agenda.any (fun d => hit d.ev) || s.gust.placing.any (fun x => hit x.pkt.ev)
    || s.gust.pkts.entries.any (fun x => match x.2 with | some x => hit x.ev | none => false)
    || s.cores.entries.any (fun k => k.2.ctxs.entries.any (fun x => x.2.loads.any (fun l => match l.spawn with | some (q, r) => p k.1 q r | none => false)))

/-- Whether no task of a group is left, and no record waits or comes for one. -/
def State.groupOver (s : State) (g : Group) : Bool :=
  let l := g.coreList
  (s.members g).isEmpty && g.queue.isEmpty && l.all (fun n => (s.core n).queue.isEmpty)
    && !s.pushing (fun core q _ => q < 2 && l.contains core)

/-- R284, R286: a group that is over gives up its cores, when what its tasks began has ended. -/
def State.groupEnd (s : State) (key : Nat) : State :=
  match s.group key with
  | none => s
  | some g =>
    if g.phase == .placed && s.groupOver g then
      (s.setGroup key (some { g with phase := .killing, stopAt := s.cycle })).at 0 rkDecide 512 (.groupKill key)
    else s

/-! ## Pops (R285, R339, R340) -/

/-- A popped record: a task that yielded goes on, any other is bound. -/
def State.popped (s : State) (core ctx key : Nat) (r : RecP) (kind delay : Nat) : State :=
  let s := s.almBind kind core ctx (recTask r) r.job
  if recResume r then s.resumeTask core ctx key r delay else s.bind core ctx key r false (recPrio r) delay

/-- The core's and the group's queue with a record of it taken. -/
def State.takeCore (s : State) (core : Nat) (r : RecP) : State := s.updCore core (fun k => { k with queue := k.queue.erase r })
def State.takeGroup (s : State) (key : Nat) (r : RecP) : State := s.updGroup key (fun g => { g with queue := g.queue.erase r })

/-- R339, R340: a pop under replay: only the context that the cursor's record names pops, and takes the record named. It waits while
that is absent, up to a limit. -/
def State.replayPop (s : State) (core ctx key : Nat) (g : Group) : State :=
  let a := s.almanac
  let q := (s.core core).queue
  match a.next core with
  | none => if q.isEmpty && g.queue.isEmpty then s.groupEnd key
            else s.almMismatch core ctx g.desc.jobId (match q ++ g.queue with | r :: _ => recTask r | [] => 0)
  | some w =>
    if almCtx w ≠ ctx || (almKind w ≠ 1 && almKind w ≠ 2) then s
    else
      let named (r : RecP) : Bool := recTask r == almTask w
      match (if almKind w = 1 then q.find? named else g.queue.find? named) with
      | some r =>
        if almKind w = 1 then (s.takeCore core r).popped core ctx key r 1 8 else (s.takeGroup key r).popped core ctx key r 2 16
      | none =>
        let stamp := tget a.cursors 0 core + 1
        if s.agenda.any (fun d => d.ev == .almanacWaitTimeout core ctx stamp) then s
        else s.at (2 ^ min 40 (max 16 (s.ctl.detctl.toNat / 2 ^ 16 % 256))) rkLast (recOrder core ctx 0) (.almanacWaitTimeout core ctx stamp)

/-- R285: RECORD_POP: an idle context pops its core's queue first, then its group's; with both empty its group may be over. Contexts of
a start-vector launch, and those that have halted, pop nothing. -/
def execRecordPop (core ctx : Nat) (s : State) : Out :=
  let k := s.core core
  match k.group.bind (fun key => (s.group key).map (fun g => (key, g))) with
  | none => .next s
  | some (key, g) =>
    let x := k.ctx ctx
    if g.phase != .placed then .next s
    else if x.status != .idle || x.halted || k.dead || g.desc.startVec then (s.groupEnd key).out
    else if s.almanac.binds core g.desc.jobId then (s.replayPop core ctx key g).out
    else match k.queue, g.queue with
      | r :: _, _ => ((s.takeCore core r).popped core ctx key r 1 8).out
      | [], r :: _ => ((s.takeGroup key r).popped core ctx key r 2 16).out
      | [], [] => (s.groupEnd key).out

/-- R340: ALMANAC_WAIT_TIMEOUT: the record that a context waits for has not come. -/
def execAlmanacWaitTimeout (core ctx stamp : Nat) (s : State) : Out :=
  match (s.core core).group.bind s.group with
  | none => .next s
  | some g =>
    if s.almanac.binds core g.desc.jobId && tget s.almanac.cursors 0 core + 1 = stamp && (s.ctx core ctx).status == .idle then
      .next (s.almMismatch core ctx g.desc.jobId 0)
    else .next s

end Sys2Proof.Machine
end

