-- ==== Sys2Proof/Machine/Sched.lean ====
section
/-! DEFINITION. The Docents and the ends of groups and jobs (R271, R278 to R294, R298, R299): placement, pre-emption, saving and
restoring, GRPCMD, loose records, completion of a job, and the Doldrums watch. -/

namespace Sys2Proof.Machine

open Sys2Proof

/-! ## The dispatch order (R281) -/

/-- R278, R281: whether an item goes before another. -/
def Item.before (a b : Item) : Bool :=
  if a.first != b.first then a.first
  else a.level < b.level || (a.level == b.level && (a.time < b.time || (a.time == b.time && (a.source < b.source
    || (a.source == b.source && (a.ctx < b.ctx || (a.ctx == b.ctx && a.num < b.num)))))))

/-- R281, R339: the head of a die's order: held items are skipped, and loose records that a replay binds. -/
def State.headItem (s : State) (d : Nat) : Option Item :=
  let bound (i : Item) : Bool := match i.kind with
    | .loose r _ => (rectCores d 0 0 16 8).any (fun n => s.almanac.binds n r.job)
    | _ => false
  match ((tget s.docents .reset d).items.filter (fun i => !i.hold && !bound i)) with
  | [] => none
  | b :: rest => some (rest.foldl (fun m i => if i.before m then i else m) b)

/-- An item taken from a die's queues. -/
def State.takeItem (s : State) (d num : Nat) : State :=
  let doc := tget s.docents .reset d
  { s with docents := tset s.docents .reset d { doc with items := doc.items.filter (fun i => i.num != num), making := doc.making.filter (fun m => m.1 != num) } }

/-- The pool group of a loose record (R284). -/
def poolDesc (r : RecP) (core : Nat) : GroupDesc :=
  { gid := 0xFFFF0000 + core, jobId := r.job, w := 1, h := 1, prio := recPrio r, nbar := 0, doldn := 0, aging := false, ens := false, startVec := false,
    pool := true, launch := 0, recs := ⟨[(0, r)]⟩, tiles := [] }

/-- The shape of an item and the barriers it asks for. -/
def State.itemShape (s : State) (i : Item) : Nat × Nat × Nat :=
  match i.kind with
  | .group g => (g.w, g.h, g.nbar)
  | .loose _ _ => (1, 1, 0)
  | .saved key => match s.group key with | some g => (g.desc.w, g.desc.h, g.desc.nbar) | none => (1, 1, 0)

/-! ## Restoring (R292) -/

/-- R291: the cycles of a save, and so of a restore: 1,147,904 bytes of a core at 64 bytes per cycle; and the Docent's bookkeeping.
(DEDUCED, log entry 67). -/
def saveCycles : Nat := 17936
def releaseCycles : Nat := 200

/-- R217, R292: a context as it goes on after a restore: a bundle that waited to be issued is tried again. The history of what it published stays
with the core that it left: a reader finds no record of it here, and replays nothing. (DEDUCED, log entry 69). -/
def Ctx.restored (x old : Ctx) (ready : Nat) : Ctx :=
  let wait := match x.wait with
    | .engine _ | .sem _ _ | .logRoom _ | .blockTag | .queue _ | .walker | .gang _ | .routine | .record _ _ _ => Wait.none
    | w => w
  { x with wait, readyAt := ready, log := old.log.filter (fun e => e.epoch != x.epoch) ++ x.log, hist := .empty, pubAt := .empty }

/-- R292: a saved core written back on a core: what the device keeps with the place itself stays. (DEDUCED, log entry 67). -/
def Core.restore (k old : Core) (key ready : Nat) : Core :=
  { k with
    ctxs := ⟨k.ctxs.entries.map (fun e => (e.1, e.2.restored (old.ctx e.1) ready))⟩
    group := some key, dead := old.dead, lastPipe := old.lastPipe, banks := [], view := .empty, viewUse := old.viewUse, viewGen := old.viewGen + 1,
    viewAll := old.viewGen + 1, viewDrop := old.viewDrop, blocks := [], rtCache := [], side := old.side, sidePos := old.sidePos, monitors := old.monitors, vit := old.vit,
    natFree := old.natFree, calls := .empty, num := max k.num old.num, stamp := max k.stamp old.stamp }

/-! ### Records that a saved group's units wait for (R363) -/

/-- The core of an agent that a record holds. -/
def agentCore : Agent → Option Nat
  | .ctx core _ _ => some core
  | .engine core _ => some core
  | _ => none

/-- Whether a record holds a unit of one of some cores. -/
def holdsOn (cores : List Nat) (r : RingRec) : Bool := ((r.held.bind agentCore).map cores.contains).getD false

/-- A record of a held unit as it is written from another core. -/
def recordAt (r : RingRec) (core : Nat) : RingRec :=
  { r with word0 := BitVec.ofNat 64 (r.word0.toNat / 2 ^ 50 * 2 ^ 50 + core * 2 ^ 41 + r.word0.toNat % 2 ^ 41)
           held := r.held.map (fun a => match a with | .ctx _ c e => .ctx core c e | .engine _ e => .engine core e | a => a) }

/-- The place of a record among those of its cycle, by its header. -/
def recPlace (r : RingRec) : Nat := recOrder (r.word0.toNat / 2 ^ 41 % 512) (r.word0.toNat / 2 ^ 39 % 4) (r.word0.toNat / 2 ^ 60)

/-- R292, R363: a group's cores are saved: a record for which a unit of theirs waits is kept with the group, and those written stand for no
unit any more, since what is held is made again when the group resumes. -/
def State.detachRecords (s : State) (key : Nat) (cores : List Nat) : State :=
  let free (r : RingRec) : RingRec := if holdsOn cores r then { r with held := none } else r
  let mine := (s.ring.waiting.map (·.2)).filter (holdsOn cores)
  let kept := mine.map (fun r => (((cores.zipIdx).find? (fun e => (r.held.bind agentCore) == some e.1)).elim 0 (·.2), r))
  let s := s.updGroup key (fun g => { g with ringWait := g.ringWait ++ kept })
  { s with ring := { s.ring with waiting := s.ring.waiting.filter (fun e => !holdsOn cores e.2)
                                 unacked := s.ring.unacked.map (fun e => { e with r := free e.r }) } }

/-- R292: a saved group written back on a rectangle: every core keeps its index, arrivals and membership stay, held accesses are made
again, and what was queued goes on when the restore ends. -/
def State.restoreGroup (s : State) (d key x y : Nat) (g : Group) : State :=
  let doc := tget s.docents .reset d
  let new : Group := { g with die := d, x, y, phase := .placed, bars := doc.barsFree.take g.desc.nbar, saved := .empty, ringWait := [] }
  let move (n : Nat) : Nat := match (g.coreList.zipIdx.find? (fun e => e.1 == n)) with | some e => new.coreAt e.2 | none => n
  let up (b : Barrier) : Barrier := { b with arrived := b.arrived.map (fun m => (move m.1, m.2)), dead := b.dead.map move }
  let new := { new with barriers := ⟨g.barriers.entries.map (fun e => (e.1, up e.2))⟩ }
  let s := { s with docents := tset s.docents .reset d { doc with barsFree := doc.barsFree.drop g.desc.nbar, nextDecision := s.cycle + 8 } }
  let s := s.setGroup key (some new)
  let s := s.startWatch key g.lastSink g.hung
  (List.range (g.desc.w * g.desc.h)).foldl (fun s i =>
    let n := new.coreAt i
    let s := s.updCore n (fun old => (tget g.saved .reset i).restore old key (s.cycle + saveCycles))
    let k := s.core n
    let recs := (g.ringWait.filter (fun e => e.1 == i)).map (fun e => recordAt e.2 n)
    let s := recs.foldl (fun s r => s.at saveCycles rkRing (recPlace r) (.faultRecordWrite r)) s
    let waits (a : Agent) : Nat := (recs.filter (fun r => r.held == some a)).length
    let s := (List.range 4).foldl (fun s e =>
      if (k.engine e).queue.isEmpty || waits (.engine n e) != 0 then s
      else if (k.engine e).queue.any (fun c => !c.heldReqs.isEmpty) then s.at saveCycles rkCore n (.heldAccessRemake (.engine n e))
      else s.at saveCycles rkEngine (n * 8 + e) (.engineCommandStart n e)) s
    let s := if k.walker.running && waits (.engine n 4) = 0 then s.visitIn n saveCycles else s
    let s := k.flips.foldl (fun s f => s.at saveCycles rkSem n (.ownFlipEffect n f.id)) s
    (List.range 4).foldl (fun s c =>
      let x := k.ctx c
      if x.status == .idle then s.at saveCycles rkDecide (n * 4 + c) (.recordPop n c)
      else
        let s := (x.heldOps.drop (waits (.ctx n c x.epoch))).foldl (fun s _ => s.at saveCycles rkCore n (.heldAccessRemake (.ctx n c x.epoch))) s
        s.at saveCycles rkCore n (.logAck n c x.epoch (2 ^ 60))) s) s

/-! ## Docents (R284, R286, R287, R292) -/

/-- R287: the rectangle that is being freed for an item, while a save for it goes on or once it is free. -/
def State.makingFor (s : State) (d : Nat) (i : Item) : Option (Nat × Nat × Bool) :=
  let sh := s.itemShape i
  let free := s.freeCores d
  let saving (key : Nat) : Bool := match s.group key with | some g => g.phase == .stopping || g.phase == .saving | none => false
  ((tget s.docents .reset d).making.find? (fun m => m.1 == i.num)).bind (fun m =>
    let ready := (rectCores d m.2.1 m.2.2.1 sh.1 sh.2.1).all (fun n => free.contains n)
    if ready || m.2.2.2.any saving then some (m.2.1, m.2.2.1, ready) else none)

/-- R286, R287: the place of an item: the rectangle being freed for it, or the lowest free one, with its barriers free. -/
def State.placeFor (s : State) (d : Nat) (i : Item) : Option (Nat × Nat) :=
  let sh := s.itemShape i
  if (tget s.docents .reset d).barsFree.length < sh.2.2 then none
  else match s.makingFor d i with
    | some (x, y, ready) => if ready then some (x, y) else none
    | none => findRect (s.freeCores d) d sh.1 sh.2.1

/-- R287: what follows when the head item has no place: it waits, or makes room. -/
def State.noPlace (s : State) (d : Nat) (i : Item) : State :=
  if s.ctl.schedctl.getLsbD 0 && (s.makingFor d i).isNone then s.at 0 rkDecide d .docentPreemptionDecision else s

/-- R339: a loose record that a replay binds to a core of a die: the item, the core and the context. -/
def State.boundLoose (s : State) (d : Nat) : Option (Nat × RecP × Nat × Nat) :=
  let items := (tget s.docents .reset d).items
  ((rectCores d 0 0 16 8).findSome? (fun n => match s.almanac.next n with
    | none => none
    | some w =>
      if almKind w != 3 then none
      else items.findSome? (fun i => match i.kind with
        | .loose r _ => if recTask r == almTask w && s.almanac.binds n r.job then some (i.num, r, n, almCtx w) else none
        | _ => none)))

/-- R284: a loose record bound to an idle context of a pool core. (DESIGN CHOICE, log entry 14). -/
def State.bindLoose (s : State) (core ctx : Nat) (r : RecP) : State :=
  let f := s.free
  match (s.core core).group with
  | none => s
  | some key => (f.2.bind core ctx key r false (recPrio r) (Config.bindTime f.1)).almBind 3 core ctx (recTask r) r.job

/-- R284: the lowest idle context of the lowest pool core of a job on a die. -/
def State.poolContext (s : State) (d key : Nat) : Option (Nat × Nat) :=
  (rectCores d 0 0 16 8).findSome? (fun n => match (s.core n).group.bind s.group with
    | some g => if g.desc.pool && g.desc.jobId == key && g.phase == .placed && !(s.core n).dead then
        ((List.range 4).find? (fun c => (s.ctx n c).status == .idle && !(s.ctx n c).halted)).map (fun c => (n, c))
      else none
    | none => none)

/-- R339: a record of a replay bound where the Almanac says: on its core's pool group, or on a new one placed there. -/
def State.bindReplay (s : State) (d num : Nat) (r : RecP) (core ctx : Nat) : State :=
  match (s.core core).group.bind s.group with
  | some g => if g.desc.pool && g.desc.jobId == r.job && (s.ctx core ctx).status == .idle then (s.takeItem d num).bindLoose core ctx r else s
  | none =>
    if (s.freeCores d).contains core then
      (s.takeItem d num).placeGroup d { poolDesc r core with recs := ⟨[(ctx, r)]⟩ } (coreX core) (coreY core) s.cycle 512
    else s

/-- R286: DOCENT_PLACEMENT (the acting unit is the die): the head item is placed, or makes room, or waits; a restore or a loose record
is a step of its own. -/
def execDocentPlacement (s : State) : Out :=
  let d := s.unit
  let doc := tget s.docents .reset d
  if s.cycle < doc.nextDecision then .next (s.at (doc.nextDecision - s.cycle) rkDecide d .docentPlacement)
  else match s.boundLoose d with
  | some (num, r, n, c) =>
    let t := s.bindReplay d num r n c
    (if (tget t.docents .reset d).items.length < doc.items.length then t.pokeDocent d else t).out
  | none => match s.headItem d with
    | none => .next s
    | some i => match i.kind with
      | .saved _ => .next (s.at 0 rkDecide d .groupRestore)
      | .loose _ _ => .next (s.at 0 rkDecide d .looseRecordBinding)
      | .group g => match s.placeFor d i with
        | some (x, y) => (((s.takeItem d i.num).placeGroup d g x y i.time i.source).pokeDocent d).out
        | none => .next (s.noPlace d i)

/-- R292: GROUP_RESTORE: the pre-empted group at the head is restored, or makes room, or waits. -/
def execGroupRestore (s : State) : Out :=
  let d := s.unit
  match s.headItem d with
  | some i => match i.kind with
    | .saved key => match s.group key, s.placeFor d i with
      | some g, some (x, y) => .next (((s.takeItem d i.num).restoreGroup d key x y g).pokeDocent d)
      | some _, none => .next (s.noPlace d i)
      | none, _ => .next (s.takeItem d i.num)
    | _ => .next s
  | none => .next s

/-- R284: LOOSE_RECORD_BINDING: the loose record at the head is bound to an idle pool context of its job, or to a new pool group. -/
def execLooseRecordBinding (s : State) : Out :=
  let d := s.unit
  match s.headItem d with
  | some i => match i.kind with
    | .loose r _ => match s.poolContext d r.job with
      | some (n, c) => (((s.takeItem d i.num).bindLoose n c r).pokeDocent d).out
      | none => match s.placeFor d i with
        | some (x, y) => (((s.takeItem d i.num).placeGroup d (poolDesc r (128 * d + 16 * y + x)) x y i.time i.source).pokeDocent d).out
        | none => .next (s.noPlace d i)
    | _ => .next s
  | none => .next s

/-- R287: the groups that hold cores of a rectangle, where each of its cores is free or held by a group of a higher priority number. -/
def State.victims (s : State) (free : List Nat) (d x y w h p : Nat) : Option (List Nat) :=
  (rectCores d x y w h).foldl (fun acc n => match acc with
    | none => none
    | some l =>
      if free.contains n then some l
      else match (s.core n).group with
        | some key => match s.group key with
          | some g => if p < g.desc.prio then some (if l.contains key then l else l ++ [key]) else none
          | none => none
        | none => none) (some [])

/-- R287: the rectangle with the fewest cores of victims, the lowest on a tie. -/
def State.bestVictims (s : State) (d w h p : Nat) : Option (Nat × Nat × List Nat) :=
  let free := s.freeCores d
  let cost (l : List Nat) : Nat := l.foldl (fun a key => match s.group key with | some g => a + g.desc.w * g.desc.h | none => a) 0
  ((corners w h).foldl (fun (best : Option (Nat × Nat × Nat × List Nat)) c =>
    match s.victims free d c.1 c.2 w h p with
    | none => best
    | some l => match best with
      | none => some (cost l, c.1, c.2, l)
      | some b => if cost l < b.1 then some (cost l, c.1, c.2, l) else best) none).map (fun b => b.2)

/-- R287: DOCENT_PREEMPTION_DECISION: the victims of the head item are pre-empted, and the item waits for their rectangle. -/
def execDocentPreemptionDecision (s : State) : Out :=
  let d := s.unit
  match s.headItem d with
  | none => .next s
  | some i =>
    let sh := s.itemShape i
    match s.bestVictims d sh.1 sh.2.1 i.level with
    | none => .next s
    | some (_, _, []) => .next s
    | some (x, y, l) =>
      let doc := tget s.docents .reset d
      let s := { s with docents := tset s.docents .reset d { doc with making := doc.making.filter (fun m => m.1 != i.num) ++ [(i.num, x, y, l)] } }
      .next (l.foldl (fun s key => s.at 0 rkDecide 512 (.groupPreempt key)) s)

/-! ## Ensembles (R278) -/

/-- R275, R278: whether a die can take a start-vector group at once: every core is free, or may be freed. -/
def State.dieReady (s : State) (d p : Nat) : Bool :=
  let free := s.freeCores d
  let bars := (tget s.docents .reset d).barsFree.length
  (free.length == 128 && bars == 64) || (s.ctl.schedctl.getLsbD 0 && (s.victims free d 0 0 16 8 p).isSome)

/-- R278, R283: dies for the members of an ensemble, in order, with every member placed at once; none where one cannot be. -/
def State.planEnsemble (s : State) (die : Nat) : List GroupDesc → List (List Nat × Nat) → Option (List (GroupDesc × Nat))
  | [], _ => some []
  | g :: rest, free =>
    let fits (d : Nat) : Option (Nat × Nat) :=
      let f := free.getD d ([], 0)
      if f.2 < g.nbar then none else findRect f.1 d g.w g.h
    let dies := if die < 4 then [die] else sortBy (fun a b => (free.getD b ([], 0)).1.length < (free.getD a ([], 0)).1.length) (List.range 4)
    match dies.find? (fun d => (fits d).isSome) with
    | none => none
    | some d => match fits d with
      | none => none
      | some (x, y) =>
        let used := rectCores d x y g.w g.h
        let up (e : (List Nat × Nat) × Nat) : List Nat × Nat := if e.2 == d then (e.1.1.filter (fun n => !used.contains n), e.1.2 - g.nbar) else e.1
        (s.planEnsemble die rest (free.zipIdx.map up)).map (fun l => (g, d) :: l)

/-- R278: ENSEMBLE_DISPATCH: when every member of a launch's ensemble can be placed, all are sent, each before any other item. -/
def execEnsembleDispatch (launch : Nat) (s : State) : Out :=
  match s.intake.find? (fun l => l.num == launch) with
  | none => .next s
  | some l =>
    let gs := l.groups.filter (·.ens)
    let free := (List.range 4).map (fun d => (s.freeCores d, (tget s.docents .reset d).barsFree.length))
    let plan := if gs.any (·.startVec) then
        (if gs.all (fun g => s.dieReady (g.gid - 0xFFFFFFF0) g.prio) then some (gs.map (fun g => (g, g.gid - 0xFFFFFFF0))) else none)
      else s.planEnsemble l.die gs free
    match plan with
    | none => .next s
    | some p =>
      if gs.isEmpty then .next s
      else
        let rest := l.groups.filter (fun g => !g.ens)
        let s := s.setLaunch { l with groups := rest, ens := false } (!rest.isEmpty)
        .next (p.foldl (fun s e => s.pushItem e.2 (groupItem e.1 s.cycle true)) s)

/-! ## Pre-emption (R271, R290, R291) -/

/-- R271: the group that a number names, by its key: a key, or the GROUPID that a GRPCMD gives; of groups that share one, that which has had it
longest. (DESIGN CHOICE, log entry 70). -/
def State.groupNamed (s : State) (n : Nat) : Nat :=
  if (s.group n).isSome then n
  else ((s.groups.entries.filter (fun e => match e.2 with | some g => g.desc.gid == n | none => false)).map (·.1)).foldl min (2 ^ 64) |> fun k => if k = 2 ^ 64 then n else k

/-- R290: a group's cores stop issue, their windows close, and it is saved when it has quiesced. -/
def State.stopGroup (s : State) (key : Nat) (hold : Bool) : State :=
  match s.group key with
  | none => s
  | some g =>
    let g := { g with hold := g.hold || hold }
    if g.phase == .placed then
      let s := s.setGroup key (some { g with phase := .stopping, stopAt := s.cycle })
      let s := g.coreList.foldl (fun s n => ((s.core n).fwds.filter (·.open_)).foldl (fun s f => s.closeWindow n f.entry none) s) s
      s.at 1 rkDecide 512 (.preemptSave key)
    else s.setGroup key (some g)

/-- R271: the waiting items of a GROUPID changed: descriptors not yet placed, and pre-empted groups. -/
def State.markItems (s : State) (gid : Nat) (hold : Bool) : State :=
  let hit (i : Item) : Bool := match i.kind with | .group g => g.gid == gid | .saved key => key == s.groupNamed gid | _ => false
  { s with docents := ⟨s.docents.entries.map (fun (d : Nat × Docent) => (d.1, { d.2 with items := d.2.items.map (fun i => if hit i then { i with hold } else i) }))⟩ }

/-- R271: GROUP_PREEMPT. -/
def execGroupPreempt (gid : Nat) (s : State) : Out := .next (s.stopGroup (s.groupNamed gid) false)

/-- R271: GROUP_HOLD. -/
def execGroupHold (gid : Nat) (s : State) : Out := .next ((s.stopGroup (s.groupNamed gid) true).markItems gid true)

/-- R271: GROUP_RELEASE. -/
def execGroupRelease (gid : Nat) (s : State) : Out :=
  let s := s.updGroup (s.groupNamed gid) (fun g => { g with hold := false })
  .next ((List.range 4).foldl (fun s d => s.pokeDocent d) (s.markItems gid false))

/-- R290: a context that must still execute its delay bundle. -/
def Ctx.delayNext (x : Ctx) : Bool := x.status == .running && x.xfer != .none && x.wait == .none

/-- R290: whether a context has nothing under way but what is kept as it stands. (DEDUCED, log entry 67). -/
def State.ctxQuiet (s : State) (n c : Nat) : Bool :=
  let x := s.ctx n c
  x.status == .idle || (!x.delayNext && x.atoms == 0 && x.loads.all (·.held) && x.bindsIn
    && x.ops.all (fun o => !o.sent) && !x.ops.any (fun o => o.begun)
    && !s.agenda.any (fun d => match d.ev with | .resultProduced p => p.core == n && p.ctx == c && p.epoch == x.epoch | .nativeCallReturn core ctx _ => core == n && ctx == c | _ => false))

/-- R290: whether a stopped group has quiesced. (DEDUCED, log entry 67). -/
def State.quiesced (s : State) (g : Group) : Bool :=
  g.coreList.all (fun n => (s.core n).quiet false && (s.core n).subs.all (fun e => e.ending.isNone || e.gone) && (List.range 4).all (fun c => s.ctxQuiet n c))
    && !s.gangs.any (fun x => g.coreList.contains x.leader)

/-- R290: a core as it is saved: contexts inside a routine rolled back. (DEDUCED, log entry 67). -/
def Core.saved (k : Core) : Core :=
  { k with ctxs := ⟨k.ctxs.entries.map (fun e => (e.1, if e.2.status == .running && e.2.inRoutine then e.2.rollback else e.2))⟩, calls := .empty, tw := .off }

/-- A core whose group has been saved: its contexts are free. -/
def Core.emptied (k : Core) (epoch : Nat) : Core :=
  { k with ctxs := ⟨k.ctxs.entries.map (fun e =>
             (e.1, { e.2.toIdle with epoch := epoch + e.1, pend := [], loads := [], log := e.2.log.filter (fun l => l.epoch != e.2.epoch) }))⟩
           engines := .empty, walker := .idle, queue := [], yielded := [], subs := [], fwds := [], flips := [], view := .empty, viewGen := k.viewGen + 1,
           viewAll := k.viewGen + 1, blocks := [], rtCache := [], calls := .empty, sigs := [], tw := .off }

/-- R290, R291: PREEMPT_SAVE: when the stopped group has quiesced, or the time that this may take has passed, it is saved.
(DEDUCED, log entry 67). -/
def execPreemptSave (gid : Nat) (s : State) : Out :=
  match s.group gid with
  | none => .next s
  | some g =>
    if g.phase != .stopping then .next s
    else if !s.quiesced g && s.cycle < g.stopAt + 16800 then .next (s.at 1 rkDecide 512 (.preemptSave gid))
    else
      let saved := (List.range (g.desc.w * g.desc.h)).foldl (fun t i => tset t .reset i (s.core (g.coreAt i)).saved) .empty
      let s := s.setGroup gid (some { g with phase := .saving, saved, lastSink := s.cycle - g.lastSink, watch := 0 })
      let s := s.detachRecords gid g.coreList
      let s := g.coreList.foldl (fun s n =>
        let e := s.fresh
        { s with fresh := s.fresh + 4 }.updCore n (fun k => k.emptied e)) s
      .next (s.at (saveCycles + releaseCycles) rkDecide 512 (.preemptRelease gid))

/-- R281, R290: PREEMPT_RELEASE: the cores and barriers are free again, and the group enters its dispatch queue. -/
def execPreemptRelease (gid : Nat) (s : State) : Out :=
  match s.group gid with
  | none => .next s
  | some g =>
    if g.phase != .saving then .next s
    else
      let s := s.setGroup gid (some { g with phase := .saved, bars := [] })
      let s := s.releaseGroup g
      .next (s.pushItem g.die { num := 0, kind := .saved gid, level := g.desc.prio, time := g.time, source := g.source, ctx := 0, aging := g.desc.aging, hold := g.hold,
                                first := false })

/-! ## Killing a group (R293, R369) -/

/-- R369: what a group's kill reports: the class for which its job fails, 0 for a GRPCMD. (DEDUCED, log entry 68). -/
def State.killClass (s : State) (key : Nat) : Nat := match s.job key with | some j => if j.fail then j.cls else 0 | none => 0

/-- R359, R369: reports of tasks that are killed where they are kept, not on a context. -/
def State.reportSaved (s : State) (core ctx cls : Nat) (x : Ctx) : State :=
  s.record ⟨ringWord0 0 s.pkgId core ctx 5 4 0 cls, BitVec.ofNat 64 cls, x.pc, 0, x.sr.taskId, x.sr.groupId, x.sr.jobId, none⟩ (recOrder core ctx 0)

/-- R293: a pre-empted group killed in its image. -/
def State.killSaved (s : State) (key : Nat) (g : Group) : State :=
  let cls := s.killClass g.desc.jobId
  let s := s.failJob g.desc.jobId 0
  let s := g.saved.entries.foldl (fun s e => e.2.ctxs.entries.foldl (fun s c =>
    if c.2.status == .running then s.reportSaved (g.coreAt e.1) c.1 cls c.2 else s) s) s
  let s := g.ringWait.foldl (fun s e => s.record { e.2 with held := none } (recPlace e.2)) s
  let s : State := { s with docents := ⟨s.docents.entries.map (fun (d : Nat × Docent) => (d.1, { d.2 with items := d.2.items.filter (fun (i : Item) => i.kind != .saved key) }))⟩ }
  (((s.setGroup key none).at 0 rkJob g.desc.jobId .jobComplete).pokeDocent g.die).pokeCurator

/-- R293: descriptors of a GROUPID that wait are dropped, and their jobs fail. -/
def State.killWaiting (s : State) (gid : Nat) : State :=
  let hit (i : Item) : Bool := match i.kind with | .group g => g.gid == gid | _ => false
  s.docents.entries.foldl (fun s d =>
    let l := d.2.items.filter hit
    let s := l.foldl (fun s i => match i.kind with
      | .group g => (s.failJob g.jobId 0).at 0 rkJob g.jobId .jobComplete
      | _ => s) s
    if l.isEmpty then s
    else
      let s : State := { s with docents := tset s.docents .reset d.1 { tget s.docents .reset d.1 with items := d.2.items.filter (fun i => !hit i) } }
      s.pokeDocent d.1) s

/-- R293: a group that is to end: its queues are dropped, and its walkers stop. -/
def State.dropQueues (s : State) (key : Nat) (g : Group) (cls : Nat) : State :=
  let s := s.updGroup key (fun g => { g with queue := [] })
  g.coreList.foldl (fun s n =>
    let s := (s.core n).yielded.foldl (fun s y => s.reportSaved n 0 cls y.2) s
    s.updCore n (fun k => { k with queue := [], yielded := [], walker := { k.walker with stopping := k.walker.running } })) s

/-- R293: GROUP_KILL: every task of a group is killed, after its delay bundle where one is next; when what they began has ended, the
group gives up its cores. A group that has ended comes here too. (DEDUCED, log entry 68). -/
def execGroupKill (num : Nat) (s : State) : Out :=
  let gid := s.groupNamed num
  match s.group gid with
  | none => .next (s.killWaiting gid)
  | some g =>
    if g.phase == .saved then .next (s.killSaved gid g)
    else if g.phase == .saving then .next (s.at 1 rkDecide 512 (.groupKill gid))
    else
      let cls := s.killClass g.desc.jobId
      let stopAt := if g.phase == .killing then g.stopAt else s.cycle
      let s := if g.phase == .killing then s
        else ((s.failJob g.desc.jobId 0).setGroup gid (some { g with phase := .killing, stopAt := s.cycle })).dropQueues gid g cls
      let s := (s.members g).foldl (fun s m =>
        let x := s.ctx m.1 m.2
        if x.delayNext && s.cycle < stopAt + 16800 then s else s.kill m.1 m.2 5 ⟨cls, 0, 0⟩ x.pc cls) s
      let empty := (s.members g).isEmpty && g.coreList.all (fun n => (s.core n).quiet true && !(s.core n).walker.running)
        && !s.gangs.any (fun x => g.coreList.contains x.leader)
      if empty then .next (((s.releaseGroup g).setGroup gid none).at 0 rkJob g.desc.jobId .jobComplete)
      else .next (s.at 1 rkDecide 512 (.groupKill gid))

/-! ## The end of a job (R279, R342) -/

/-- R279: whether a job still has a task, or a record or descriptor that waits. -/
def State.jobBusy (s : State) (key : Nat) : Bool :=
  let mine (r : RecP) : Bool := r.job == key
  s.cores.entries.any (fun k => k.2.queue.any mine || k.2.yielded.any (fun y => mine y.2.record)
      || k.2.ctxs.entries.any (fun x => x.2.status == .running && mine x.2.record))
    || s.groups.entries.any (fun e => match e.2 with
      | some g => g.queue.any mine || (g.desc.jobId == key && (g.phase == .saving || g.phase == .saved || g.phase == .stopping))
      | none => false)
    || s.docents.entries.any (fun d => d.2.items.any (fun i => match i.kind with
      | .group g => g.jobId == key | .loose r _ => mine r | .saved _ => false))
    || s.intake.any (fun l => l.groups.any (fun g => g.jobId == key))
    || s.pushing (fun _ _ r => mine r)

/-- R279, R328, R337, R342: JOB_COMPLETE (the acting unit is the job's key): a job that has ended first merges what is left, ends its
Almanac, and then its completion word is written. (DEDUCED, log entry 66). -/
def execJobComplete (s : State) : Out :=
  let key := s.unit
  match s.job key with
  | none => .next s
  | some j =>
    if j.done || s.jobBusy key then .next s
    else match s.merges.find? (fun m => m.jobId == key) with
      | some m =>
        let mine := s.merges.filter (fun e => e.jobId == key)
        let all : MergeSet := { m with gid := none, phase := none, joinIa := none, tasks := mine.flatMap (·.tasks), thenEv := some .jobComplete }
        if mine.any (·.thenEv.isSome) then .next s
        else .next ({ s with merges := s.merges.filter (fun (e : MergeSet) => e.jobId != key) ++ [all] }.at 0 rkHome 0 (.merge m.id))
      | none =>
        let a := s.almanac
        let mine := a.state != 0 && a.jobId == key % 2 ^ 32
        let nonRepro := !j.det || j.nonRepro || (mine && a.state == 2 && !a.complete)
        let s := if mine then s.almDisarm else s
        let r := s.curWord j.rng j.cmplAddr.toNat (cmplWord j.fail nonRepro j.cls j.cmplSeq)
        (if r.1 then { r.2 with jobs := tset r.2.jobs none key none }
          else { r.2 with jobs := tset r.2.jobs none key (some { j with done := true, nonRepro }) }).out

/-! ## Doldrums (R298, R299) -/

/-- R299: the blocking cause of a context. -/
def State.blockCause (s : State) (n c : Nat) : Nat :=
  let x := s.ctx n c
  if x.status == .idle then 7
  else match x.wait with
    | .none => if x.hdrWait then 5 else 0
    | .engine e => if 16 ≤ e && e != 32 then 8 else 1
    | .gang _ | .queue _ | .blockTag => 1
    | .barrier _ _ => 2
    | .fault | .record _ _ _ => 3
    | .mem | .acquire _ => 4
    | .sem _ _ => 5
    | .logRoom _ => 6
    | .unsub => 9
    | .walker | .inval => 10
    | .routine | .yield => 0

/-- R298, R359: a hang record of a core. -/
def State.hangRecord (s : State) (g : Group) (n : Nat) : State :=
  let pc (c : Nat) : Word := (s.ctx n c).pc
  let causes := (List.range 4).foldr (fun c acc => s.blockCause n c + 16 * acc) 0
  s.record ⟨ringWord0 0 s.pkgId n 0 5 1 0 0, BitVec.ofNat 64 g.desc.gid, pc 0, pc 1, pc 2, pc 3, BitVec.ofNat 64 (causes + g.desc.doldn * 2 ^ 16), none⟩ (recOrder n 0 0)

/-- R298: DOLDRUMS_EXPIRY: a group whose counter has reached its interval is reported, one record for each core that holds a task, and
the watch falls silent until a sink retires. -/
def execDoldrumsExpiry (gid stamp : Nat) (s : State) : Out :=
  match s.group gid with
  | none => .next s
  | some g =>
    if g.watch != stamp || g.hung || g.phase != .placed then .next s
    else
      let n := 2 ^ g.desc.doldn
      if !s.ctl.schedctl.getLsbD 1 then
        .next ((s.setGroup gid (some { g with lastSink := s.cycle })).at n rkEngine (2 ^ 20) (.doldrumsExpiry gid stamp))
      else if s.cycle < g.lastSink + n then .next (s.at (g.lastSink + n - s.cycle) rkEngine (2 ^ 20) (.doldrumsExpiry gid stamp))
      else
        let s := s.setGroup gid (some { g with hung := true })
        let held := g.coreList.filter (fun c => (s.members g).any (fun m => m.1 == c))
        .next (held.foldl (fun s c => s.hangRecord g c) s)

end Sys2Proof.Machine
end

