-- ==== Sys2Proof/Machine/Vector.lean ====
section
/-! DEFINITION. The vector instructions (R137 to R156): lane-wise arithmetic, compares and masks, conversions, scaling, seed
steps, permutes, reductions and scans. -/

namespace Sys2Proof.Machine

open Sys2Proof

/-- A lane-wise operation on A. -/
def State.vOp1 (s : State) (f : AvtF) (lat : Nat) (g : Nat → Nat) : State :=
  let t := f.type
  let w := tyWidth t
  let a := lanesP w (s.readV f.a t)
  s.vPush f lat (anyPort [f.a]) w (a.map (fun x => (g x.1, x.2)))

/-- A lane-wise operation on A and B. -/
def State.vOp2 (s : State) (f : AvtF) (lat : Nat) (g : Nat → Nat → Nat) : State :=
  let t := f.type
  let w := tyWidth t
  let a := lanesP w (s.readV f.a t)
  let b := lanesP w (s.readV f.b t)
  s.vPush f lat (anyPort [f.a, f.b]) w (List.zipWith (fun x y => (g x.1 y.1, x.2 || y.2)) a b)

/-- A lane-wise operation on A, B and C. -/
def State.vOp3 (s : State) (f : AvtF) (lat : Nat) (g : Nat → Nat → Nat → Nat) : State :=
  let t := f.type
  let w := tyWidth t
  let a := lanesP w (s.readV f.a t)
  let b := lanesP w (s.readV f.b t)
  let c := lanesP w (s.readV f.c t)
  s.vPush f lat (anyPort [f.a, f.b, f.c]) w
    (List.zipWith (fun (x : (Nat × Bool) × (Nat × Bool)) z => (g x.1.1 x.2.1 z.1, x.1.2 || x.2.2 || z.2)) (a.zip b) c)

/-- R142: VADD. -/
def execVadd (f : AvtF) (s : State) : Out := .next (s.vOp2 f 4 (fpAdd f.type (s.fmod f)))
/-- R142: VSUB. -/
def execVsub (f : AvtF) (s : State) : Out := .next (s.vOp2 f 4 (fpSub f.type (s.fmod f)))
/-- R142: VMUL. -/
def execVmul (f : AvtF) (s : State) : Out := .next (s.vOp2 f 4 (fpMul f.type (s.fmod f)))
/-- R142: VFMA. -/
def execVfma (f : AvtF) (s : State) : Out := .next (s.vOp3 f 6 (fpFma f.type (s.fmod f) false false))
/-- R142: VFMS. -/
def execVfms (f : AvtF) (s : State) : Out := .next (s.vOp3 f 6 (fpFma f.type (s.fmod f) true false))
/-- R142: VMIN. -/
def execVmin (f : AvtF) (s : State) : Out := .next (s.vOp2 f 2 (fpMinMax f.type (s.fmod f) false))
/-- R142: VMAX. -/
def execVmax (f : AvtF) (s : State) : Out := .next (s.vOp2 f 2 (fpMinMax f.type (s.fmod f) true))

/-- The sign bit of a width. -/
def signBit (w : Nat) : Nat := 2 ^ (w - 1)

/-- R143: VABS. -/
def execVabs (f : AvtF) (s : State) : Out := .next (s.vOp1 f 2 (fun a => a % signBit (tyWidth f.type)))
/-- R143: VNEG. -/
def execVneg (f : AvtF) (s : State) : Out := .next (s.vOp1 f 2 (fun a => a ^^^ signBit (tyWidth f.type)))
/-- R143: VCPYS. -/
def execVcpys (f : AvtF) (s : State) : Out :=
  let m := signBit (tyWidth f.type)
  .next (s.vOp2 f 2 (fun a b => a % m + b / m % 2 * m))

/-- R144: a lane-wise integer operation, exact and then wrapped or clamped. -/
def State.vInt (s : State) (f : AvtF) (g : Int → Int → Int) : State :=
  let t := f.type
  s.vOp2 f 2 (fun a b => intWrap t (f.sat == 1) (g (tyInt t a) (tyInt t b)))

/-- R144: VIADD. -/
def execViadd (f : AvtF) (s : State) : Out := .next (s.vInt f (fun a b => a + b))
/-- R144: VISUB. -/
def execVisub (f : AvtF) (s : State) : Out := .next (s.vInt f (fun a b => a - b))
/-- R144: VIMUL. -/
def execVimul (f : AvtF) (s : State) : Out := .next (s.vInt f (fun a b => a * b))
/-- R144: VAND. -/
def execVand (f : AvtF) (s : State) : Out := .next (s.vOp2 f 2 (fun a b => a &&& b))
/-- R144: VOR. -/
def execVor (f : AvtF) (s : State) : Out := .next (s.vOp2 f 2 (fun a b => a ||| b))
/-- R144: VXOR. -/
def execVxor (f : AvtF) (s : State) : Out := .next (s.vOp2 f 2 (fun a b => a ^^^ b))
/-- R144: VSHL by B mod w. -/
def execVshl (f : AvtF) (s : State) : Out :=
  let w := tyWidth f.type
  .next (s.vOp2 f 2 (fun a b => a * 2 ^ (b % w) % 2 ^ w))
/-- R144: VSHR by B mod w. -/
def execVshr (f : AvtF) (s : State) : Out := .next (s.vOp2 f 2 (fun a b => a / 2 ^ (b % tyWidth f.type)))
/-- R144: VSAR by B mod w. -/
def execVsar (f : AvtF) (s : State) : Out :=
  let w := tyWidth f.type
  .next (s.vOp2 f 2 (fun a b => intBits w (intOf true w a / (2 ^ (b % w) : Nat))))
/-- R144: VIMIN. -/
def execVimin (f : AvtF) (s : State) : Out := .next (s.vInt f (fun a b => if a ≤ b then a else b))
/-- R144: VIMAX. -/
def execVimax (f : AvtF) (s : State) : Out := .next (s.vInt f (fun a b => if a ≤ b then b else a))

/-! ## Compares, selects and masks (R145 to R147) -/

/-- R145: whether a compare holds in a lane. -/
def laneCompare (t : Ty) (ftzi : Bool) (cc a b : Nat) : Bool :=
  if tyIsFloat t then fpCompare cc (fpRead t ftzi a) (fpRead t ftzi b) else intCompareL cc (tyInt t a) (tyInt t b)
where
  /-- R132: the compare codes on integers. -/
  intCompareL (cc : Nat) (a b : Int) : Bool :=
    match cc with
    | 0 => a = b | 1 => a ≠ b | 2 => a < b | 3 => a ≤ b | 4 => b < a | _ => b ≤ a

/-- R55, R145: the lanes that mask bit k governs at width w. -/
def lanesOfBit (w k : Nat) : List Nat :=
  if w = 64 then [k / 2] else (List.range (32 / w)).map (fun i => k * (32 / w) + i)

/-- R145: the mask bit whose enablement decides mask bit k. -/
def enableBit (w k : Nat) : Nat := if w = 64 then 2 * (k / 2) else k

/-- A mask from its bits. -/
def maskOf (g : Nat → Bool) : Word :=
  (List.range 64).foldl (fun (acc : Word) k => if g k then acc ||| BitVec.ofNat 64 (2 ^ k) else acc) 0

/-- R145: the mask that VCMP forms. -/
def State.vcmpMask (s : State) (f : AvtF) : Mask :=
  let t := f.type
  let w := tyWidth t
  let a := s.readV f.a t
  let b := s.readV f.b t
  let md := s.fmod f
  let g := s.govern f
  let old := (s.readM f.c).v
  ⟨maskOf (fun k =>
      if g.v.getLsbD (enableBit w k) ^^ (f.pinv == 1) then
        (lanesOfBit w k).all (fun i => laneCompare t md.ftzi f.x5 (laneOf w a.1 i) (laneOf w b.1 i))
      else old.getLsbD k),
    a.2 != 0 || b.2 != 0 || g.poison⟩

/-- R145, R147: a mask written and pushed as a scalar. -/
def State.maskPush (s : State) (f : AvtF) (lat : Nat) (port : Bool) (m : Mask) : State :=
  s.push lat port (.scalar m.v m.poison) (s.dst f.dst) (.m (f.c.toNat - 8) m.v m.poison)

/-- R145: VCMP. -/
def execVcmp (f : AvtF) (s : State) : Out := .next (s.maskPush f 2 (anyPort [f.a, f.b]) (s.vcmpMask f))

/-- R146: VSEL. -/
def execVsel (f : AvtF) (s : State) : Out :=
  let t := f.type
  let w := tyWidth t
  let a := lanesP w (s.readV f.a t)
  let b := lanesP w (s.readV f.b t)
  let m := s.readM f.c
  .next (s.vPush f 2 (anyPort [f.a, f.b]) w ((a.zip b).zipIdx.map (fun p =>
    let r := if m.v.getLsbD (maskBit w p.2) then p.1.1 else p.1.2
    (r.1, r.2 || m.poison))))

/-- R147: MAND. -/
def execMand (f : AvtF) (s : State) : Out :=
  let a := s.readM f.a
  let b := s.readM f.b
  .next (s.maskPush f 1 false ⟨a.v &&& b.v, a.poison || b.poison⟩)
/-- R147: MOR. -/
def execMor (f : AvtF) (s : State) : Out :=
  let a := s.readM f.a
  let b := s.readM f.b
  .next (s.maskPush f 1 false ⟨a.v ||| b.v, a.poison || b.poison⟩)
/-- R147: MNOT. -/
def execMnot (f : AvtF) (s : State) : Out :=
  let a := s.readM f.a
  .next (s.maskPush f 1 false ⟨~~~a.v, a.poison⟩)

/-! ## Conversion (R148) -/

/-- The lanes that some numbered lanes' values make, by lane number. -/
def nth {α : Type} (d : α) (l : List α) (i : Nat) : α := l.getD i d

/-- R98, R148: the elements of a vector in a type, I4X decoded block by block. -/
def vecElems (t : Ty) (ftzi : Bool) (v : BitVec 2048) : List Elem :=
  if t = .i4x then
    (List.range 4).flatMap (fun b => i4xScan ftzi (nibbles 128 (v.extractLsb' (512 * b) 512).toNat) 0)
  else (lanesOf (tyWidth t) v).map (elemOf t ftzi)

/-- R98: the further slots that each slot of an I4X block draws its value from: the two given up to an outlier. -/
def i4xSpan : List Nat → Nat → List Nat
  | [], _ => []
  | _ :: rest, g + 1 => 0 :: i4xSpan rest g
  | c :: rest, 0 => if c = 8 then 2 :: i4xSpan rest 2 else 0 :: i4xSpan rest 0

/-- R148: the poison of the source words that feed each element of a vector in a type. -/
def elemsPoison (t : Ty) (a : BitVec 2048 × BitVec 32) : List Bool :=
  if t = .i4x then
    ((List.range 4).flatMap (fun b => i4xSpan (nibbles 128 (a.1.extractLsb' (512 * b) 512).toNat) 0)).zipIdx.map (fun e =>
      (List.range (e.1 + 1)).any (fun d => lanePoison 4 a.2 (e.2 + d)))
  else (List.range (2048 / tyWidth t)).map (lanePoison (tyWidth t) a.2)

/-- R148: the source lane and placement of a conversion: its destination lanes from its source lanes. (DEDUCED, log entry 32). -/
def vcvtSource (ws wd part i : Nat) : Option Nat :=
  if wd = ws then some i
  else if ws < wd then some (part * (2048 / wd) + i)
  else if part * (2048 / ws) ≤ i && i < (part + 1) * (2048 / ws) then some (i - part * (2048 / ws))
  else none

/-- R99, R148: the lowest I4X block with a marker in a final slot among those that feed an enabled lane. -/
def State.vcvtBad (s : State) (f : AvtF) : Option Nat :=
  let src : Ty := .ofBits (f.ext.truncate 4)
  if src != .i4x then none
  else
    let wd := tyWidth f.type
    let v := (s.readV f.a src).1
    let part := f.c.toNat
    (List.range 4).find? (fun b =>
      i4xBad (nibbles 128 (v.extractLsb' (512 * b) 512).toNat) 0
        && (List.range (2048 / wd)).any (fun i =>
          s.laneOn f wd i && (match vcvtSource 4 wd part i with | some j => j / 128 == b | none => false)))

/-- R148: VCVT. A malformed I4X block traps FMTERR MARKER, reported by R115. -/
def execVcvt (f : AvtF) (s : State) : Out :=
  let src : Ty := .ofBits (f.ext.truncate 4)
  let t := f.type
  let ws := tyWidth src
  let wd := tyWidth t
  match s.vcvtBad f with
  | some b => .next (s.slotTrap ⟨3, 2, BitVec.ofNat 64 (2 ^ 63 + 16 * b)⟩)
  | none =>
    let md := if cvtFloating f then s.fmod f else s.fmodPlain f
    let a := s.readV f.a src
    let els := vecElems src md.ftzi a.1
    let pos := elemsPoison src a
    let b := if wd < ws then lanesP wd (s.readV f.b t) else []
    let part := f.c.toNat
    let lanes := (List.range (2048 / wd)).map (fun i =>
      match vcvtSource ws wd part i with
      | some j => (cvtElem t md (nth (.int 0) els j), nth false pos j)
      | none => nth (0, false) b i)
    -- lanes that a narrowing leaves to B take it whatever the predicate
    let on := fun i => (vcvtSource ws wd part i).isNone || s.laneOn f wd i
    .next (s.push 4 (anyPort (if wd < ws then [f.a, f.b] else [f.a])) (s.vMerge f wd on lanes) (s.dst f.dst) .none)

/-! ## Scaling, seeds and polynomials (R149 to R152) -/

/-- R149: VSCL. -/
def execVscl (f : AvtF) (s : State) : Out := .next (s.vOp2 f 4 (fpScale f.type (s.fmod f)))
/-- R149: VFREX, the significand. -/
def execVfrexSig (f : AvtF) (s : State) : Out := .next (s.vOp1 f 4 (fun a => fpFlushOut f.type (s.fmod f) (fpSig f.type (s.fmod f).ftzi a)))
/-- R149: VFREX, the exponent. -/
def execVfrexExp (f : AvtF) (s : State) : Out := .next (s.vOp1 f 4 (fpExp f.type (s.fmod f).ftzi))
/-- R149: VRND. -/
def execVrnd (f : AvtF) (s : State) : Out := .next (s.vOp1 f 4 (fpIntegral f.type (s.fmod f)))
/-- R151: VRCPS. -/
def execVrcps (f : AvtF) (s : State) : Out := .next (s.vOp1 f 5 (seedRcp f.type (s.fmod f).ftzi (s.fmod f).ftzo))
/-- R151: VRSQS. -/
def execVrsqs (f : AvtF) (s : State) : Out := .next (s.vOp1 f 5 (seedRsq f.type (s.fmod f).ftzi (s.fmod f).ftzo))
/-- R151: VEXP2F. -/
def execVexp2f (f : AvtF) (s : State) : Out := .next (s.vOp1 f 5 (seedExp2 f.type (s.fmod f).ftzi (s.fmod f).ftzo))
/-- R151: VLOG2S. -/
def execVlog2s (f : AvtF) (s : State) : Out := .next (s.vOp1 f 5 (seedLog2 f.type (s.fmod f).ftzi (s.fmod f).ftzo))

/-- R152: Horner's rule, each step rounded once. -/
def horner (t : Ty) (md : FMod) (x : Nat) (coef : Nat → Nat) : Nat → Nat → Nat
  | 0, p => p
  | k + 1, p => horner t md x coef k (fpFma t md false false p x (coef k))

/-- R152: VPOLY. Its slot's unit is held for d cycles. -/
def execVpoly (f : AvtF) (s : State) : Out :=
  let t := f.type
  let w := tyWidth t
  let md := s.fmod f
  let d := f.x5
  let b := s.readV f.b t
  let a := lanesP w (s.readV f.a t)
  let bp := (List.range (d + 1)).any (lanePoison w b.2)
  let s' := s.vPush f (6 * d) (anyPort [f.a, f.b]) w
    (a.map (fun x => (horner t md x.1 (laneOf w b.1) d (laneOf w b.1 d), x.2 || bp)))
  .next (s'.updCore s.issue.core (fun k => { k with vecFree := tset k.vecFree 0 s.issue.slot (s.cycle + d) }))

/-! ## Permutes and broadcasts (R153, R154) -/

/-- R153: VPERM. -/
def execVperm (f : AvtF) (s : State) : Out :=
  let t := f.type
  let w := tyWidth t
  let a := lanesP w (s.readV f.a t)
  let b := lanesP w (s.readV f.b t)
  .next (s.vPush f 4 (anyPort [f.a, f.b]) w (b.map (fun y =>
    let x := nth (0, false) a (y.1 % (2048 / w))
    (x.1, x.2 || y.2))))

/-- R153: the source of lane i under a pattern: lane j of A is j, lane j of B is n + j. (DEDUCED, log entry 32). -/
def shufSource (pat n rot i : Nat) : Nat :=
  let h := n / 2
  match pat with
  | 0 => if i % 2 = 0 then i / 2 else n + i / 2
  | 1 => if i % 2 = 0 then h + i / 2 else n + h + i / 2
  | 2 => if i < h then 2 * i else n + 2 * (i - h)
  | 3 => if i < h then 2 * i + 1 else n + 2 * (i - h) + 1
  | 4 => i + rot
  | _ => n - 1 - i

/-- R153: VSHUF. (DEDUCED, log entry 32). -/
def execVshuf (f : AvtF) (s : State) : Out :=
  let t := f.type
  let w := tyWidth t
  let n := 2048 / w
  let a := lanesP w (s.readV f.a t)
  let b := if f.x = 5 then [] else lanesP w (s.readV f.b t)
  let c := if f.x = 4 then s.readS f.c .i64 else (0, false)
  let ports := if f.x = 5 then [f.a] else if f.x = 4 then [f.a, f.b, f.c] else [f.a, f.b]
  .next (s.vPush f 4 (anyPort ports) w ((List.range n).map (fun i =>
    let x := nth (0, false) (a ++ b) (shufSource f.x n (c.1.toNat % 2 ^ w % n) i)
    (x.1, x.2 || c.2))))

/-- R154: VBCST of a scalar. -/
def execVbcst (f : AvtF) (s : State) : Out :=
  let w := tyWidth f.type
  let a := s.readS f.a f.type
  .next (s.vPush f 2 (anyPort [f.a]) w (List.replicate (2048 / w) (codeOf f.type a.1, a.2)))

/-- R154: VBCST of a lane. (DEDUCED, log entry 32). -/
def execVbcstLane (f : AvtF) (s : State) : Out :=
  let w := tyWidth f.type
  let n := 2048 / w
  let a := s.readV f.a f.type
  let b := s.readS f.b .i64
  let i := b.1.toNat % 2 ^ w % n
  .next (s.vPush f 4 (anyPort [f.a, f.b]) w (List.replicate n (laneOf w a.1 i, lanePoison w a.2 i || b.2)))

/-- R154: VEXTR, which is not predicated. (DEDUCED, log entry 32). -/
def execVextr (f : AvtF) (s : State) : Out :=
  let t := f.type
  let w := tyWidth t
  let a := s.readV f.a t
  let b := s.readS f.b .i64
  let i := b.1.toNat % 2 ^ w % (2048 / w)
  .next (s.push 4 (anyPort [f.a, f.b]) (.scalar (extendCode t (laneOf w a.1 i)) (lanePoison w a.2 i || b.2))
    (s.dst f.dst) .none)

/-! ## Reductions and scans (R155, R156) -/

/-- R155: the operation of a reduction. Input flush has acted on the operand's lanes, and does not act on what a step leaves (R103).
(DEDUCED, log entry 31). -/
def redOp (t : Ty) (md : FMod) (op a b : Nat) : Nat :=
  if tyIsFloat t then
    let md : FMod := { md with ftzi := false }
    match op with
    | 0 => fpAdd t md a b
    | 1 => fpMinMax t md false a b
    | _ => fpMinMax t md true a b
  else
    let x := tyInt t a
    let y := tyInt t b
    match op with
    | 0 => intWrap t md.sat (x + y)
    | 1 => if x ≤ y then a else b
    | _ => if x ≤ y then b else a

/-- R155: the empty value of a reduction. -/
def redEmpty (t : Ty) (op : Nat) : Nat :=
  match op with
  | 0 => 0
  | 1 => if tyIsFloat t then fpInf t false else intBits (tyWidth t) (tyMax t)
  | _ => if tyIsFloat t then fpInf t true else intBits (tyWidth t) (tyMin t)

/-- R95, R140, R155, R156: a result of a reduction or scan: a NaN is canonical, and output flush applies. (DEDUCED, log entry 31). -/
def redOut (t : Ty) (md : FMod) (x : Nat) : Nat := if fpIsNan t x then fpCanonNan t else fpFlushOut t md x

/-- R155: one level of the tree: the lower half joined with the upper half. (DEDUCED, log entry 31). -/
def redStep (g : Nat → Nat → Nat) : Option Nat → Option Nat → Option Nat
  | some a, some b => some (g a b)
  | some a, none => some a
  | none, b => b

/-- R107, R155: the tree, from `k` levels. -/
def redTree (g : Nat → Nat → Nat) : Nat → List (Option Nat) → Option Nat
  | 0, l => l.getD 0 none
  | k + 1, l => redTree g k (List.zipWith (redStep g) (l.take (2 ^ k)) (l.drop (2 ^ k)))

/-- R155: VRED. -/
def execVred (f : AvtF) (s : State) : Out :=
  let t := f.type
  let w := tyWidth t
  let n := 2048 / w
  let md := if tyIsFloat t then s.fmod f else s.fmodPlain f
  let op := f.x5
  let a := lanesP w (s.readV f.a t)
  let on := a.zipIdx.map (fun p => if s.laneOn f w p.2 then some p.1 else none)
  let leaf : Nat → Nat := fun x => if tyIsFloat t then fpFlush t md.ftzi x else x
  let r := redTree (redOp t md op) (Nat.log2 n) (on.map (Option.map (fun x => leaf x.1)))
  let v := match r with
    | some v => if tyIsFloat t then redOut t md v else v
    | none => redEmpty t op
  let po := on.any (fun p => match p with | some x => x.2 | none => false) || (s.govern f).poison
  .next (s.push 10 (anyPort [f.a]) (.scalar (extendCode t v) po) (s.dst f.dst) .none)

/-- R156: the running results, disabled lanes giving none. (DEDUCED, log entry 31). -/
def scanRun (g : Nat → Nat → Nat) (out : Nat → Nat) : Option Nat → Bool → List (Option (Nat × Bool)) → List (Nat × Bool)
  | _, _, [] => []
  | acc, po, none :: rest => (0, false) :: scanRun g out acc po rest
  | none, po, some x :: rest => (out x.1, po || x.2) :: scanRun g out (some (out x.1)) (po || x.2) rest
  | some a, po, some x :: rest =>
    let r := out (g a x.1)
    (r, po || x.2) :: scanRun g out (some r) (po || x.2) rest

/-- R156: VSCAN. -/
def execVscan (f : AvtF) (s : State) : Out :=
  let t := f.type
  let w := tyWidth t
  let md := if tyIsFloat t then s.fmod f else s.fmodPlain f
  let a := lanesP w (s.readV f.a t)
  let leaf : Nat → Nat := fun x => if tyIsFloat t then fpFlush t md.ftzi x else x
  let on := a.zipIdx.map (fun p => if s.laneOn f w p.2 then some (leaf p.1.1, p.1.2) else none)
  let out : Nat → Nat := fun x => if tyIsFloat t then redOut t md x else x
  .next (s.vPush f 10 (anyPort [f.a]) w (scanRun (redOp t md f.x5) out none false on))

end Sys2Proof.Machine
end

