-- ==== Sys2Proof/Machine/Issue.lean ====
section
/-! DEFINITION. BUNDLE_ISSUE (R92): the choice of a context (R57, R288), the fetch of its bundle (R67), the checks at decode (R85 to
R91, R305), the conditions of issue, the slots, repeats (R49, R50, R121), signals (R59, R70) and delayed transfers (R89). -/

namespace Sys2Proof.Machine

open Sys2Proof

/-! ## The slots of a bundle -/

/-- The meaning of a slot's instruction; an event is none. -/
def execSlot (i : Instr) (s : State) : Out :=
  match i with
  | .br f => execBr f s
  | .brc f => execBrc f s
  | .bri f => execBri f s
  | .call f => execCall f s
  | .calli f => execCalli f s
  | .ret f => execRet f s
  | .callr f => execCallr f s
  | .retr => execRetr s
  | .ckpt => execCkpt s
  | .rep f => execRep f s
  | .spawn f => execSpawn f s
  | .join f => execJoin f s
  | .retire => execRetire s
  | .yield => execYield s
  | .halt => execHalt s
  | .barr f => execBarr f s
  | .barra f => execBarra f s
  | .barrw f => execBarrw f s
  | .trap f => execTrap f s
  | .eret => execEret s
  | .phase f => execPhase f s
  | .phend => execPhend s
  | .add f => execAdd f s
  | .sub f => execSub f s
  | .mul f => execMul f s
  | .mulh f => execMulh f s
  | .mulhu f => execMulhu f s
  | .div f => execDiv f s
  | .divu f => execDivu f s
  | .rem f => execRem f s
  | .remu f => execRemu f s
  | .and f => execAnd f s
  | .or f => execOr f s
  | .xor f => execXor f s
  | .andn f => execAndn f s
  | .shl f => execShl f s
  | .shr f => execShr f s
  | .sar f => execSar f s
  | .rotl f => execRotl f s
  | .clz f => execClz f s
  | .ctz f => execCtz f s
  | .popc f => execPopc f s
  | .min f => execMin f s
  | .max f => execMax f s
  | .minu f => execMinu f s
  | .maxu f => execMaxu f s
  | .sel f => execSel f s
  | .cmp f => execCmp f s
  | .li f => execLi f s
  | .mov f => execMov f s
  | .adda f => execAdda f s
  | .ext f => execExt f s
  | .ins f => execIns f s
  | .pand f => execPand f s
  | .por f => execPor f s
  | .pxor f => execPxor f s
  | .pnot f => execPnot f s
  | .unif f => execUnif f s
  | .mfs f => execMfs f s
  | .mts f => execMts f s
  | .pfq f => execPfq f s
  | .sfadd f => execSfadd f s
  | .sfmul f => execSfmul f s
  | .sffma f => execSffma f s
  | .sfcmp f => execSfcmp f s
  | .sfcvt f => execSfcvt f s
  | .vadd f => execVadd f s
  | .vsub f => execVsub f s
  | .vmul f => execVmul f s
  | .vfma f => execVfma f s
  | .vfms f => execVfms f s
  | .vmin f => execVmin f s
  | .vmax f => execVmax f s
  | .vabs f => execVabs f s
  | .vneg f => execVneg f s
  | .vcpys f => execVcpys f s
  | .viadd f => execViadd f s
  | .visub f => execVisub f s
  | .vimul f => execVimul f s
  | .vand f => execVand f s
  | .vor f => execVor f s
  | .vxor f => execVxor f s
  | .vshl f => execVshl f s
  | .vshr f => execVshr f s
  | .vsar f => execVsar f s
  | .vimin f => execVimin f s
  | .vimax f => execVimax f s
  | .vcmp f => execVcmp f s
  | .vsel f => execVsel f s
  | .mand f => execMand f s
  | .mor f => execMor f s
  | .mnot f => execMnot f s
  | .vcvt f => execVcvt f s
  | .vscl f => execVscl f s
  | .vfrexSig f => execVfrexSig f s
  | .vfrexExp f => execVfrexExp f s
  | .vrnd f => execVrnd f s
  | .vrcps f => execVrcps f s
  | .vrsqs f => execVrsqs f s
  | .vexp2f f => execVexp2f f s
  | .vlog2s f => execVlog2s f s
  | .vpoly f => execVpoly f s
  | .vperm f => execVperm f s
  | .vshuf f => execVshuf f s
  | .vbcst f => execVbcst f s
  | .vbcstLane f => execVbcstLane f s
  | .vextr f => execVextr f s
  | .vred f => execVred f s
  | .vscan f => execVscan f s
  | .tlatch f => execTlatch f s
  | .ttrn f => execTtrn f s
  | .tzero f => execTzero f s
  | .tmac f => execTmac f s
  | .trda f => execTrda f s
  | .twra f => execTwra f s
  | .tgang f => execTgang f s
  | .ld f => execLd f s
  | .ldv f => execLdv f s
  | .st f => execSt f s
  | .stv f => execStv f s
  | .ldb f => execLdb f s
  | .disc f => execDisc f s
  | .discHome f => execDiscHome f s
  | .drain => execDrain s
  | .lpub f => execLpub f s
  | .lacq f => execLacq f s
  | .atomAdd f => execAtomAdd f s
  | .atomFadd f => execAtomFadd f s
  | .atomMin f => execAtomMin f s
  | .atomMax f => execAtomMax f s
  | .atomAnd f => execAtomAnd f s
  | .atomOr f => execAtomOr f s
  | .atomXor f => execAtomXor f s
  | .atomXchg f => execAtomXchg f s
  | .atomCas f => execAtomCas f s
  | .redAdd f => execRedAdd f s
  | .redFadd f => execRedFadd f s
  | .redMin f => execRedMin f s
  | .redMax f => execRedMax f s
  | .subs f => execSubs f s
  | .unsub f => execUnsub f s
  | .cpy f => execCpy f s
  | .gath f => execGath f s
  | .scat f => execScat f s
  | .collAllreduce f => execCollAllreduce f s
  | .collReduceScatter f => execCollReduceScatter f s
  | .collAllgather f => execCollAllgather f s
  | .collBroadcast f => execCollBroadcast f s
  | .ownEng f => execOwnEng f s
  | .ownThr f => execOwnThr f s
  | .sems f => execSems f s
  | .semsRem f => execSemsRem f s
  | .semw f => execSemw f s
  | .cmpl f => execCmpl f s
  | .xmit f => execXmit f s
  | .imux f => execImux f s
  | .itin f => execItin f s
  | .itstop => execItstop s
  | .invalAll f => execInvalAll f s
  | .invalSeg f => execInvalSeg f s
  | .invalRegion f => execInvalRegion f s
  | .migr f => execMigr f s
  | .fringAck f => execFringAck f s
  | .fringBase f => execFringBase f s
  | .fringHead f => execFringHead f s
  | .almcQuery f => execAlmcQuery f s
  | .almcRec f => execAlmcRec f s
  | .almcPlay f => execAlmcPlay f s
  | .almcStop f => execAlmcStop f s
  | .vitqEntry f => execVitqEntry f s
  | .vitqRd f => execVitqRd f s
  | .vitqWr f => execVitqWr f s
  | .monStart f => execMonStart f s
  | .monStop f => execMonStop f s
  | .monRd f => execMonRd f s
  | _ => .next s

/-- The slots of a bundle that hold something, in ascending order. -/
def slotsOf (b : BitVec 512) : List (Nat × Except DecodeErr Instr) :=
  (List.range 8).filterMap (fun k => match bundleSlot b k with | .ok .nop => none | r => some (k, r))

/-- The same, when every slot has decoded. -/
def instrsOf (b : BitVec 512) : List (Nat × Instr) :=
  (slotsOf b).filterMap (fun e => match e.2 with | .ok i => some (e.1, i) | .error _ => none)

/-- The operand fields that an instruction reads, each with its kind: whether it is a vector (R80). -/
def opndFields (i : Instr) : List (BitVec 7 × Bool) :=
  match i.rules with
  | none => []
  | some r => r.ops.filterMap (fun p => match p.2 with | .s _ => some (p.1, false) | .v _ => some (p.1, true) | _ => none)

/-- R85: the distinct named registers that an instruction reads. -/
def namedReads (i : Instr) : List (Nat × Bool) :=
  (((opndFields i).filter (fun p => isPort p.1)).map (fun p => (p.1.toNat, p.2))).eraseDups

/-- R86, R240: whether an instruction's token is an engine's or a load-block's completion flag, which takes no write port: every token
but that of ITIN, which is no engine command. (DESIGN CHOICE, log entry 11). -/
def completionFlag : Instr → Bool
  | .itin _ => false
  | _ => true

/-- R81: the destination register of an instruction; `ports` counts only those that take a write port (R86). -/
def destReg (ports : Bool) (i : Instr) : Option (Bool × Nat) :=
  match i.rules with
  | none => none
  | some r =>
    if 32 ≤ r.dst.toNat then none
    else match r.dk with
      | .s => some (false, r.dst.toNat)
      | .v => some (true, r.dst.toNat)
      | .tok => if ports && completionFlag i then none else some (false, r.dst.toNat)
      | _ => none

/-- R118, R129, R141: whether the C field names a predicate or mask that the instruction writes. -/
def writesC : Instr → Bool
  | .cmp _ | .sfcmp _ | .pand _ | .por _ | .pxor _ | .pnot _ | .unif _ | .vcmp _ | .mand _ | .mor _ | .mnot _ => true
  | _ => false

/-- A field that names a predicate or a mask. -/
def predName (p : BitVec 7 × FK) : Option Dest :=
  if p.1.toNat < 8 then none
  else match p.2 with | .cn _ => some (.c (p.1.toNat - 8)) | .mn => some (.m (p.1.toNat - 8)) | _ => none

/-- R118, R141: the predicate or mask that an instruction writes. -/
def predDest (i : Instr) : Option Dest :=
  match i.rules with
  | some r => if writesC i then (r.ops.drop 2).head?.bind predName else none
  | none => none

/-- R74: whether an instruction of the A, V or T class is governed by a mask. -/
def governed : Instr → Bool
  | .pfq _ | .mand _ | .mor _ | .mnot _ | .vextr _ | .tlatch _ | .ttrn _ => false
  | i => match i.rules with | some r => r.cls == .a || r.cls == .v || r.cls == .t | none => false

/-- R118, R141: the predicates and masks that an instruction reads, its governing mask among them. -/
def predReads (i : Instr) (w : BitVec 56) : List Dest :=
  let named := match i.rules with | some r => (if writesC i then r.ops.take 2 else r.ops).filterMap predName | none => []
  let own := match i with | .brc f => [Dest.c f.cond.toNat] | _ => []
  named ++ own ++ (if governed i then [.m (w.extractLsb' 39 3).toNat] else [])

/-- R240: the engine whose queue an instruction enters. (DEDUCED, log entry 36). -/
def slotEngine : Instr → Option Nat
  | .cpy _ => some 0
  | .gath _ | .scat _ => some 1
  | .collAllreduce _ | .collReduceScatter _ | .collAllgather _ | .collBroadcast _ => some 2
  | .cmpl _ | .migr _ => some 3
  | _ => none

/-! ## REP's fields (R121) -/

def repTgt (f : CF) : Nat := f.imm.toNat / 2 ^ 19 % 8
def repRstr (f : CF) : Nat := f.imm.toNat / 2 ^ 15 % 16
def repOstr (f : CF) : Int := intOf true 8 (f.imm.toNat / 2 ^ 7 % 2 ^ 8)

/-- The REP of a bundle. -/
def repOf (b : BitVec 512) : Option CF := match bundleSlot b 0 with | .ok (.rep f) => some f | _ => none

/-! ## The checks at decode (R90) -/

/-- R91: an ILLFMT whose cause is no slot's. -/
def tHeader (sub : Nat) : TrapInfo := tIllfmt sub 8

/-- R85, R90: an instruction with the same operands as a slot whose opcode is assigned but whose form is not: its fields are counted
in step 2, before step 4 refuses the form. (DESIGN CHOICE, log entry 11). -/
def formLess (b : BitVec 512) (k : Nat) : Option Instr :=
  match k, slotOpc (slotBits b k) with
  | 3, 0x011 => some (.disc (.ofBits (slotBits b k)))
  | 3, 0x020 => some (.atomAdd (.ofBits (slotBits b k)))
  | 3, 0x021 => some (.redAdd (.ofBits (slotBits b k)))
  | 7, 0x004 => some (.collAllreduce (.ofBits (slotBits b k)))
  | 7, 0x030 => some (.invalAll (.ofBits (slotBits b k)))
  | _, _ => none

/-- R85, R90: how many named reads a slot's ports must match; none for an unassigned opcode, which they pass over. A form that is not
one has the operands of `formLess`, or none. (DESIGN CHOICE, log entry 11). -/
def portNeed (b : BitVec 512) (k : Nat) (r : Except DecodeErr Instr) : Option Nat :=
  match r with
  | .ok i => some (namedReads i).length
  | .error .illop => none
  | .error (.bad _) => some (match formLess b k with | some i => (namedReads i).length | none => 0)

/-- R86: whether a slot takes a write port. (DESIGN CHOICE, log entry 11). -/
def portWrite (b : BitVec 512) (k : Nat) (r : Except DecodeErr Instr) : Bool :=
  match r with
  | .ok i => (destReg true i).isSome
  | .error _ => match formLess b k with | some i => (destReg true i).isSome | none => false

/-- R85, R86: the ports and the writes of a bundle: a mismatch of the valid ports, then a port that is not valid and names a slot,
then a third write. (DESIGN CHOICE, log entry 11). -/
def portsBad (b : BitVec 512) (l : List (Nat × Except DecodeErr Instr)) : Option TrapInfo :=
  let count (k : Nat) : Nat := ((List.range 4).filter (fun p => hdrPval b p && hdrPort b p == k)).length
  let need (k : Nat) : Option Nat := match l.find? (fun e => e.1 == k) with
    | some e => portNeed b k e.2
    | none => some 0
  if (List.range 8).any (fun k => match need k with | some n => n != count k | none => false) then some (tHeader 1)
  else if (List.range 4).any (fun p => !hdrPval b p && hdrPort b p != 0) then some (tHeader 3)
  else if 2 < (l.filter (fun e => portWrite b e.1 e.2)).length then some (tHeader 1)
  else none

/-- R89: what a delay bundle's first slot must not hold, by opcode. -/
def delayBad (b : BitVec 512) : Bool :=
  [0x001, 0x002, 0x003, 0x004, 0x005, 0x006, 0x008, 0x009, 0x010, 0x01A, 0x01B, 0x028, 0x029, 0x02A].contains (slotOpc (slotBits b 0))

/-- R88, R62: whether a slot needs supervisor level: by its opcode, or by its form. -/
def needsSup (b : BitVec 512) (k : Nat) (r : Except DecodeErr Instr) : Bool :=
  let opc := slotOpc (slotBits b k)
  (k == 0 && (opc == 0x029 || opc == 0x02A)) || (k == 7 && (opc == 0x030 || opc == 0x031 || opc == 0x032))
    || (match r with
      | .ok (.almcRec _) | .ok (.almcPlay _) | .ok (.almcStop _) | .ok (.vitqWr _) => true
      | .ok (.mts f) => sysAssigned f.x && sysSupervisor f.x
      | _ => false)

/-- R121, R127, R227: a field that the other slots of the bundle make wrong. -/
def resvInBundle (b : BitVec 512) (l : List (Nat × Except DecodeErr Instr)) (i : Instr) : Bool :=
  match i with
  | .trap _ | .eret => 1 < l.length
  | .rep f => repOstr f != 0 && (repTgt f != 3 || slotOpc (slotBits b 3) == 0x020 || slotOpc (slotBits b 3) == 0x021)
  | _ => false

/-- R81, R118, R120, R125, R141: an operand that the state or an earlier slot makes wrong. -/
def State.opndInBundle (s : State) (core : Nat) (x : Ctx) (seen : List Dest) (i : Instr) : Bool :=
  let twice (d : Option Dest) : Bool := match d with | some d => seen.contains d | none => false
  twice ((destReg false i).map (fun r => .reg r.1 r.2)) || twice (predDest i)
    || (match i with
      | .barr f | .barra f | .barrw f => !s.granted core (f.imm.toNat % 64)
      | .phase f => !s.granted core (f.imm.toNat / 8 % 64)
      | .callr f =>
        (if x.sr.imgBase = 0 then 0 else x.sr.imgRt.toNat / 2 ^ 48 % 2048) ≤ f.imm.toNat % 65536 || x.inRoutine
      | .retr => !x.inRoutine
      | _ => false)

/-- R47, R54: an operand in the wrong kind. -/
def Ctx.kindBad (x : Ctx) (i : Instr) : Bool :=
  (opndFields i).any (fun p =>
    let n := p.1.toNat
    if n < 16 then (x.q.getD n .fresh).val.vec != p.2
    else if 48 ≤ n && n < 56 then
      let e := tget x.f .unbound (n - 48)
      e.bound && e.vec != p.2
    else false)

/-- R54: an operand that is an unbound f entry. -/
def Ctx.fEmpty (x : Ctx) (i : Instr) : Bool :=
  (opndFields i).any (fun p => 48 ≤ p.1.toNat && p.1.toNat < 56 && !(tget x.f .unbound (p.1.toNat - 48)).bound)

/-- R65: the ILLFMT subcode of a static check. -/
def badSub : Bad → Nat
  | .scope => 0xB | .resv => 3 | .opnd => 4 | .accpair => 0xA | .sysnum => 8 | .sysro => 9

/-- R90 step 4: the checks of one slot. -/
def State.checkSlot (s : State) (core : Nat) (x : Ctx) (b : BitVec 512) (l : List (Nat × Except DecodeErr Instr)) (seen : List Dest)
    (k : Nat) (r : Except DecodeErr Instr) : Option TrapInfo :=
  let sup := x.sr.priv = 0 && needsSup b k r
  match r with
  | .error .illop => some (tIllop k)
  | .error (.bad e) => if sup then some ⟨6, 0, 0⟩ else some (tIllfmt (badSub e) k)
  | .ok i =>
    let e := i.check (limmOf b k)
    if sup then some ⟨6, 0, 0⟩
    else if e = some .scope then some (tIllfmt 0xB k)
    else if e = some .resv || resvInBundle b l i then some (tIllfmt 3 k)
    else if e = some .opnd || s.opndInBundle core x seen i then some (tIllfmt 4 k)
    else if (match i with | .rep f => repTgt f == 0 || !l.any (fun o => o.1 == repTgt f) | _ => false) then some (tIllfmt 6 k)
    else if x.kindBad i then some (tIllfmt 5 k)
    else if x.fEmpty i then some (tIllfmt 7 k)
    else match e with
      | some e => some (tIllfmt (badSub e) k)
      | none => none

/-- The destinations of a slot, for the collisions of R81, R118 and R141. -/
def slotDests (r : Except DecodeErr Instr) : List Dest :=
  match r with
  | .error _ => []
  | .ok i => (match destReg false i with | some d => [Dest.reg d.1 d.2] | none => []) ++ (predDest i).toList

/-- R90 step 4: the slots in ascending order. -/
def State.checkSlots (s : State) (core : Nat) (x : Ctx) (b : BitVec 512) (l : List (Nat × Except DecodeErr Instr)) :
    List Dest → List (Nat × Except DecodeErr Instr) → Option TrapInfo
  | _, [] => none
  | seen, (k, r) :: rest => match s.checkSlot core x b l seen k r with
    | some t => some t
    | none => s.checkSlots core x b l (seen ++ slotDests r) rest

/-- R305: whether a slot may stand in a bundle of transfer mode. -/
def transferSlot (e : Nat × Instr) : Bool :=
  match e.2 with
  | .br _ | .brc _ | .rep _ | .phend | .xmit _ | .imux _ => true
  | .vsel _ | .vperm _ | .vshuf _ | .vbcst _ | .vbcstLane _ | .vextr _ | .vand _ | .vor _ | .vxor _ => true
  | _ => e.1 == 1 || e.1 == 2

/-- R90, R305: the first check of a bundle that fails, in order. (DEDUCED, log entry 45). -/
def State.checkBundle (s : State) (core : Nat) (x : Ctx) (b : BitVec 512) : Option TrapInfo :=
  let l := slotsOf b
  if headerBad b then some (tHeader 3)
  else match portsBad b l with
    | some t => some t
    | none =>
      if x.xfer != .none && delayBad b then some (tHeader 2)
      else match s.checkSlots core x b l [] l with
        | some t => some t
        | none => if x.transfer && (hdrHw b || !(instrsOf b).all transferSlot) then some tMode else none

/-! ## The conditions of issue (R92) -/

/-- R53, R118, R141: whether a destination has no write outstanding. -/
def Ctx.settled (x : Ctx) (d : Dest) : Bool := !x.pend.any (fun p => p.dest == d)

/-- R47, R53, R54: whether an operand can be read. -/
def Ctx.readable (x : Ctx) (rep rstr : Nat) (p : BitVec 7 × Bool) : Bool :=
  let n := p.1.toNat
  if n < 16 then (x.q.getD n .fresh).produced
  else if n < 48 then x.settled (.reg p.2 (stepReg (n - 16) rep rstr))
  else if n < 56 then
    let e := tget x.f .unbound (n - 48)
    e.arrived && x.settled (.reg e.vec e.reg)
  else true

/-- R92, conditions 2 and 3: whether a slot can issue, in a repetition. (DEDUCED, log entry 33). -/
def Ctx.slotReady (x : Ctx) (b : BitVec 512) (rep rstr : Nat) (e : Nat × Instr) : Bool :=
  (opndFields e.2).all (x.readable rep rstr) && (predReads e.2 (slotBits b e.1)).all x.settled
    && (match destReg false e.2 with | some d => x.settled (.reg d.1 (stepReg d.2 rep rstr)) | none => true)
    && (match (predDest e.2) with | some d => x.settled d | none => true)

/-- R131: whether an instruction is of the divide family. (DEDUCED, log entry 33). -/
def usesDivider : Instr → Bool
  | .div _ | .divu _ | .rem _ | .remu _ => true
  | _ => false

/-- R92 condition 6, R131, R152: whether the vector unit of a slot is free, and the core's divider for a division. -/
def State.vecReady (s : State) (core : Nat) (e : Nat × Instr) : Bool :=
  (!(e.1 == 4 || e.1 == 5) || tget (s.core core).vecFree 0 e.1 ≤ s.cycle)
    && (!usesDivider e.2 || (s.core core).divFree ≤ s.cycle)

/-- R210: whether a slot reads the token of a load-block that a fault holds. (DEDUCED, log entry 35). -/
def Ctx.readsHeld (x : Ctx) (rep rstr : Nat) (e : Nat × Instr) : Bool :=
  let held (id : Nat) : Bool := x.loads.any (fun l => l.held && l.block.isSome && l.id == id)
  (opndFields e.2).any (fun p =>
    let n := p.1.toNat
    if n < 16 then let q := x.q.getD n .fresh; !q.produced && held q.id
    else if n < 48 then x.pend.any (fun w => w.dest == .reg p.2 (stepReg (n - 16) rep rstr) && held w.id)
    else false)

/-! ## Running the slots -/

/-- The slot frame of a bundle (R92). -/
def issueFrame (core ctx : Nat) (x : Ctx) (bundle : Nat) : Issue :=
  { Issue.reset with core, ctx, pc := x.pc, start := x, bundle }

/-- One slot run, in a repetition of its own. -/
def State.runSlot (s : State) (b : BitVec 512) (rep rstr : Nat) (ostr : Int) (e : Nat × Instr) : State :=
  let s : State := { s with issue := { s.issue with slot := e.1, limm := limmOf b e.1, rep, rstr, ostr } }
  match execSlot e.2 s with
  | .next t => t
  | .fault f => { s with stuck := some f }
  | .refused _ => s

/-- Whether a slot has raised something, so that the bundle goes no further. -/
def Issue.raised (i : Issue) : Bool := i.trapped.isSome || i.killed.isSome || i.blocked.isSome || i.stalled

/-- Slots run in order, until one raises something; one that a checker finds wrong has no effect (R365). (DEDUCED, log entry 34). -/
def State.runSlots (s : State) (b : BitVec 512) (rep rstr : Nat) (ostr : Int) : List (Nat × Instr) → State
  | [] => s
  | e :: rest =>
    let t := if (s.upset s.issue.core e.1).isSome then s else s.runSlot b rep rstr ostr e
    if t.issue.raised then t else t.runSlots b rep rstr ostr rest

/-- The slots of a bundle in the order in which they act: the end of a task comes after the rest of its bundle (R124). (DEDUCED, log entry 34). -/
def actOrder (l : List (Nat × Instr)) : List (Nat × Instr) :=
  match l with
  | (0, .retire) :: rest => rest ++ [(0, .retire)]
  | (0, .halt) :: rest => rest ++ [(0, .halt)]
  | l => l

/-- R166: whether a slot checks the markers of its operand. -/
def checksMarkers (e : Nat × Instr) : Bool := match e.2 with | .tmac f | .tlatch f => f.type == .i4x | _ => false

/-- R166: the store of a bundle's S3 performed, where no tile instruction has taken it. -/
def State.flushStore (s : State) : State :=
  match s.issue.spw with
  | none => s
  | some w => ({ s with issue := { s.issue with spw := none } } : State).spWrite s.issue.core s.cycle w

/-- Whether a slot writes a system register. -/
def isMts (e : Nat × Instr) : Bool := match e.2 with | .mts _ => true | _ => false

/-- The slots of a bundle, run: what they raise is found in their order, and a write by MTS takes effect after every other slot, for the
context's next bundle (R134). (DEDUCED, log entry 34). -/
def State.runBundle (s : State) (b : BitVec 512) (rep rstr : Nat) (ostr : Int) (l : List (Nat × Instr)) : State :=
  let t := s.runSlots b rep rstr ostr l
  if t.issue.raised || !l.any isMts then t.flushStore
  else (s.runSlots b rep rstr ostr (l.filter (fun e => !isMts e) ++ l.filter isMts)).flushStore

/-- R365: a PIPEERR found in a slot of the bundle that has issued. (DESIGN CHOICE, log entry 38). -/
def State.slotUpset (s : State) (core ctx epoch : Nat) (pc : Word) (l : List (Nat × Instr)) : State :=
  match l.find? (fun e => (s.upset core e.1).isSome) with
  | none => s
  | some e => (s.takeUpset core e.1).pipeErr core ctx epoch 0 ((s.upset core e.1).getD 1) e.1 pc

/-! ## What follows the slots -/

/-- R59, R70, R243: the commands of a bundle's issue counted for its signal; `more` says that the bundle still repeats. -/
def Core.countSignal (k : Core) (b : BitVec 512) (bundle cmds : Nat) (more : Bool) : Core :=
  if hdrSinc b = 0 then k
  else
    let n := cmds + if more then 1 else 0
    if n = 0 then k.semAdd (hdrSsem b) (hdrSinc b) else { k with sigs := k.sigs ++ [⟨bundle, hdrSsem b, hdrSinc b, n⟩] }

/-- R70, R121: the commands of a later repetition; the last one ends the wait for the repeat. -/
def Core.repSignal (k : Core) (bundle cmds : Nat) (last : Bool) : Core :=
  let k := { k with sigs := k.sigs.map (fun y => if y.bundle == bundle then { y with cmds := y.cmds + cmds } else y) }
  if last then k.signalDone bundle else k

/-- R67, R89, R120: where the context goes after its bundle, which it left as `xfer` says; the bundle's frame still stands. -/
def State.advancePc (s : State) (core ctx : Nat) (xfer : Xfer) (pc : Word) : State :=
  let s := s.updCtx core ctx (fun x => { x with readyAt := max x.readyAt (s.cycle + 1) })
  let leave (s : State) (a : Word) (ready : Nat) : State :=
    s.updCtx core ctx (fun x => { x with pc := a, xfer := .none, readyAt := max x.readyAt ready })
  let ckpt := s.issue.ckpt
  let mark (s : State) : State := if ckpt then s.updCtx core ctx (fun x => x.ckptNow x.pc) else s
  match xfer with
  | .none => if s.issue.jump then s else mark (s.updCtx core ctx (fun x => { x with pc := pc + 64 }))
  | .goto a r => mark (leave s a r)
  | .callr r e v body =>
    let s := leave s body 0
    s.enterRoutine core ctx r e v body (pc + 64)
  | .retr => (leave s pc 0).updCtx core ctx (·.leaveRoutine)

/-- R369: whether the task of a bundle has gone from its context. -/
def State.gone (s : State) (core ctx epoch : Nat) : Bool := (s.ctx core ctx).epoch != epoch || (s.ctx core ctx).status == .idle

/-- R57, R92, R122: the context waits, with none of the bundle's effects. A wait on a semaphore counts the header's own amount; a
record that cannot be read is a held access. -/
def State.blockBundle (s : State) (core ctx : Nat) (x : Ctx) (b : BitVec 512) (w : Wait) : State :=
  match w with
  | .sem a n => s.setCtx core ctx { x with wait := .sem a (n + if hdrWsem b = a then hdrWthr b else 0) }
  | .record f y va =>
    let r : ReadReq := { core, ctx, epoch := x.epoch, load := 0, xl := y, evp := 4, view := 0, path := (s.routeOf core y).1.toOption.map (·.1) |>.getD [], replay := false }
    (s.setCtx core ctx x).holdRequest core ctx x.epoch y va x.sr.taskId.toNat f 5 x.pc (.bayReadRequest r)
  | w => s.setCtx core ctx { x with wait := w }

/-- R166: a trap of a bundle taken; that of a marker is delivered after the access that read it, and the requests up to that access
stand, with the time for which they hold their unit. -/
def State.lateTrap (s run : State) (core ctx : Nat) (x : Ctx) (t : TrapInfo) : State :=
  match run.issue.late with
  | none => s.takeTrap core ctx x t x.pc
  | some n =>
    let r := run.core core
    ((s.updCore core (fun k => { k with banks := r.banks, units := r.units })).takeTrap core ctx x t x.pc).updCtx core ctx
      (fun y => { y with readyAt := y.readyAt + n })

/-- What a raised bundle becomes, from the state before its slots: a trap, a kill, a wait, or another try. (DEDUCED, log entry 34). -/
def State.giveUp (s run : State) (core ctx : Nat) (x : Ctx) (b : BitVec 512) : State :=
  let i := run.issue
  match i.trapped, i.killed, i.blocked with
  | some t, _, _ => s.lateTrap run core ctx x t
  | none, some t, _ => s.kill core ctx 0 t x.pc 0x11
  | none, none, some w => s.blockBundle core ctx x b w
  | none, none, none => s

/-! ## Repetitions (R49, R50, R121) -/

/-- R90, R121: the checks of a repeated bundle that is decoded again after a trap or a pre-emption: its ports, the REP and its target;
the other slots do not issue again. (DEDUCED, log entry 45). -/
def State.checkResumed (s : State) (core : Nat) (x : Ctx) (b : BitVec 512) (f : CF) : Option TrapInfo :=
  let l := slotsOf b
  (portsBad b l).or (s.checkSlots core x b l [] (l.filter (fun e => e.1 == 0 || e.1 == repTgt f)))

/-- A later repetition of a repeated bundle: the target slot alone; after the last, REPCNT and REPSTEP are 0. (DEDUCED, log entries 35,
44, 45). -/
def State.issueRep (s : State) (core ctx : Nat) (x : Ctx) (b : BitVec 512) (f : CF) : State :=
  match bundleSlot b (repTgt f) with
  | .error _ => s.takeTrap core ctx x (tIllop (repTgt f)) x.pc
  | .ok i =>
    let e := (repTgt f, i)
    let r := x.rep
    if x.kindBad i then s.takeTrap core ctx x (tIllfmt 5 (repTgt f)) x.pc
    else if !x.slotReady b r.j (repRstr f) e || !s.vecReady core e then
      (if x.readsHeld r.j (repRstr f) e then s.setCtx core ctx { x with wait := .fault } else s)
    else match slotEngine i with
      | some q => if (s.core core).engineFull q then s.setCtx core ctx { x with wait := .engine q } else go e
      | none => go e
where
  /-- The repetition issues. -/
  go (e : Nat × Instr) : State :=
    let r := x.rep
    let run := ({ s with issue := issueFrame core ctx x r.bundle } : State).runSlots b r.j (repRstr f) (repOstr f) [e]
    if run.issue.raised then s.giveUp run core ctx x b
    else
      let last := r.left ≤ 1
      let t := run.updCore core (fun k => k.repSignal r.bundle run.issue.cmds last)
      let t := if t.gone core ctx x.epoch then t
        else if last then
          (t.updCtx core ctx (fun y => { y with rep := .off, sr := { y.sr with repCnt := 0, repStep := 0 } })).advancePc core ctx .none x.pc
        else t.updCtx core ctx (fun y =>
          { y with rep := { r with held := true, bits := b, j := r.j + 1, left := r.left - 1 }, readyAt := max y.readyAt (s.cycle + 1)
                   sr := { y.sr with repCnt := BitVec.ofNat 64 (r.left - 1), repStep := BitVec.ofNat 64 (r.j + 1) } })
      t.slotUpset core ctx x.epoch x.pc [e]

/-! ## The first issue of a bundle -/

/-- R62, R90: an MTS that traps does so at decode, as soon as its operand can be read. (DEDUCED, log entry 28). -/
def State.mtsTrap (s : State) (core ctx : Nat) (x : Ctx) (b : BitVec 512) (l : List (Nat × Instr)) : Option TrapInfo :=
  l.findSome? (fun e => match e.2 with
    | .mts _ => (({ s with issue := issueFrame core ctx x 0 } : State).runSlot b 1 0 0 e).issue.trapped
    | _ => none)

/-- R92: the bundle issues: its slots act, and what follows them is done. (DESIGN CHOICE, log entry 37). -/
def State.issueAll (s : State) (core ctx : Nat) (x : Ctx) (b : BitVec 512) (l : List (Nat × Instr)) : State :=
  let id := s.fresh
  let base := if hdrHw b then s.applyHost core else s
  let sub := { base with fresh := base.fresh + 1, issue := { issueFrame core ctx x id with checks := l.any checksMarkers } }.updCore core (fun k => k.semSub (hdrWsem b) (hdrWthr b))
  let rep := repOf b
  let tgt := match rep with | some f => repTgt f | none => 8
  let empty := match rep with | some f => sub.repCount f == 0 | none => false
  let order := actOrder (if empty then l.filter (fun e => e.1 != tgt) else l)
  let rstr := match rep with | some f => repRstr f | none => 0
  let ostr := match rep with | some f => repOstr f | none => 0
  let run := sub.runBundle b 1 rstr ostr order
  let i := run.issue
  if i.trapped.isSome && i.slot = tgt then
    let rest := sub.runBundle b 1 rstr ostr (order.filter (fun e => e.1 != tgt))
    if rest.issue.raised then (if rest.issue.blocked.isSome || rest.issue.stalled then s else base).giveUp rest core ctx x b
    else
      let t := rest.updCore core (fun k => k.countSignal b id rest.issue.cmds true)
      let t := t.updCtx core ctx (fun y => { y with rep := { y.rep with held := true, bits := b, bundle := id } })
      match i.trapped with
      | some e => t.lateTrap run core ctx (t.ctx core ctx) e
      | none => t
  else if i.raised then (if i.blocked.isSome || i.stalled then s else base).giveUp run core ctx x b
  else
    let r := (run.ctx core ctx).rep
    let more := rep.isSome && 1 < r.left
    let t := run.updCore core (fun k => k.countSignal b id i.cmds more)
    let t := if t.gone core ctx x.epoch then t
      else if more then t.updCtx core ctx (fun y =>
        { y with rep := { r with held := true, bits := b, j := 2, left := r.left - 1, bundle := id }, readyAt := max y.readyAt (s.cycle + 1)
                 sr := { y.sr with repCnt := BitVec.ofNat 64 (r.left - 1), repStep := 2 } })
      else
        let t := if rep.isSome then t.updCtx core ctx (fun y => { y with rep := .off, sr := { y.sr with repCnt := 0, repStep := 0 } }) else t
        t.advancePc core ctx x.xfer x.pc
    t.slotUpset core ctx x.epoch x.pc order
/-- R92: a bundle that has passed decode issues when its conditions hold. (DEDUCED, log entry 36). -/
def State.tryIssue (s : State) (core ctx : Nat) (x : Ctx) (b : BitVec 512) : State :=
  let l := instrsOf b
  let k := s.core core
  if !l.all (fun e => x.slotReady b 1 0 e && s.vecReady core e) then
    (if l.any (x.readsHeld 1 0) then s.setCtx core ctx { x with wait := .fault } else s)
  else match s.mtsTrap core ctx x b l with
    | some t => s.takeTrap core ctx x t x.pc
    | none =>
      if k.sem (hdrWsem b) < hdrWthr b then s.setCtx core ctx { x with hdrWait := true }
      else match l.findSome? (fun e => (slotEngine e.2).filter k.engineFull) with
        | some q => s.setCtx core ctx { x with wait := .engine q }
        | none => s.issueAll core ctx x b l

/-- R67, R292, R306: the next bundle of a context: held by a repeat, or fetched and checked. A context that a pre-emption took out of
transfer mode is told so first. (DEDUCED, log entry 67). -/
def State.issueNow (s : State) (core ctx : Nat) : State :=
  let x := s.ctx core ctx
  if x.transfer && !(s.core core).tw.on then s.takeTrap core ctx { x with transfer := false } ⟨0xC, 0x11, 0⟩ x.pc
  else match (if x.rep.on && x.rep.held then repOf x.rep.bits else none) with
    | some f => s.issueRep core ctx x x.rep.bits f
    | none =>
      match s.fetchRun core x.sr.rng x.pc.toNat 64 with
      | (.error t, s) => s.takeTrap core ctx (s.ctx core ctx) t x.pc
      | (.ok (v, po), s) =>
        let b : BitVec 512 := BitVec.ofNat 512 v
        if po then s.kill core ctx 0 (tPoison 4) x.pc 0x11
        else match (if x.rep.on && !headerBad b then repOf b else none) with
          | some f => match s.checkResumed core x b f with
            | some t => s.takeTrap core ctx x t x.pc
            | none => s.issueRep core ctx x b f
          | none =>
            let x := { x with rep := .off }
            let s := s.setCtx core ctx x
            match s.checkBundle core x b with
            | some t => s.takeTrap core ctx x t x.pc
            | none => s.tryIssue core ctx x b

/-! ## The choice of a context (R57, R288, R290, R305) -/

/-- Whether what a context waits for has come. -/
def State.unblocked (s : State) (core : Nat) (x : Ctx) : Bool :=
  let k := s.core core
  match x.wait with
  | .none => true
  | .engine e => if e < 4 then !k.engineFull e
    else e == 32 && !s.ctl.buffers.entries.any (fun e => e.2.2.getLsbD 63 && (e.2.2.getLsbD 62 || bufBusy e.2.2 == 32767))
  | .sem a n => n ≤ k.sem a
  | .mem => !x.ops.any (fun o => o.kind.blocks)
  | .logRoom n => k.logRoom n
  | .blockTag => let k := k.freeBlocks; (List.range 32).any (fun t => !k.blocks.any (fun b => b.tag == t))
  | .queue q => !s.queueFull core q
  | .gang l => l.all (fun n => (s.core n).gangDue < 4)
  | .acquire id => !x.q.any (fun e => e.id == id && !e.produced)
  | .yield => x.drained
  | .barrier _ _ | .inval | .unsub | .walker | .fault | .routine | .record _ _ _ => false

/-- R288, R290, R305: whether a core may select a context: it holds a task of a group that runs, or that must still execute its delay
bundle, and it is in transfer mode if any context of the core is. -/
def State.mayIssue (s : State) (core : Nat) (x : Ctx) : Bool :=
  let k := s.core core
  x.status == .running && !k.dead
    && (match k.group with
      | none => true
      | some g => match s.group g with
        | none => true
        | some g => g.phase == .placed || ((g.phase == .stopping || g.phase == .killing) && x.xfer != .none))
    && (x.transfer || !(List.range 4).any (fun c => let y := k.ctx c; y.status == .running && y.transfer))

/-- Whether a context is at the end of its task: its RETIRE or HALT drains, or RETIRE's join is on its way (R124). -/
def Ctx.ends (x : Ctx) : Bool := x.ops.any (fun o => match o.kind with | .retire | .halt => true | _ => false)

/-- R57: whether the current context keeps its core: it does not block, or its wait is no reason to switch. (DEDUCED, log entry 80). -/
def State.keeps (s : State) (core : Nat) (x : Ctx) : Bool :=
  s.mayIssue core x && (x.wait == .routine || x.wait == .yield || (x.wait == .mem && x.ends) || s.unblocked core x)

/-- R57, R288: the context that issues in this cycle. (DEDUCED, log entry 80). -/
def State.pick (s : State) (core : Nat) : Option Nat :=
  let k := s.core core
  let ready (c : Nat) : Bool := let x := k.ctx c; s.mayIssue core x && s.unblocked core x && x.readyAt ≤ s.cycle
  if s.keeps core (k.ctx k.cur) then (if ready k.cur then some k.cur else none)
  else ((List.range 4).map (fun i => (k.cur + 1 + i) % 4)).find? ready

/-- R92: BUNDLE_ISSUE: the current context's next bundle issues if it can. -/
def execBundleIssue (core : Nat) (s : State) : Out :=
  match s.pick core with
  | none => .next s
  | some c =>
    let x := s.ctx core c
    let s := s.updCore core (fun k => { k with cur := c })
    if x.wait == .yield then (s.saveYield core c x.pc).out
    else (((s.updCtx core c (fun x => { x with wait := .none, hdrWait := false })).issueNow core c)).out

end Sys2Proof.Machine
end

