-- ==== Sys2Proof/Machine/Native.lean ====
section
/-! DEFINITION. The return of a native call (R120, R191 to R193). A native unit gives the bits of the routine's body, so its call is
the body, run in the cycle of the return, and up to a point of it in the cycles between (R191). -/

namespace Sys2Proof.Machine

open Sys2Proof

/-- Results of a context that are due later, produced now. (DESIGN CHOICE, log entry 41). -/
def State.settle (s : State) (core ctx epoch : Nat) : State :=
  let mine (d : Due) : Bool := match d.ev with
    | .resultProduced p => p.core == core && p.ctx == ctx && p.epoch == epoch
    | .pfqEntryArrival n c _ _ => n == core && c == ctx
    | _ => false
  let now := s.agenda.filter mine
  now.foldl (fun s d =>
    match (match d.ev with
      | .resultProduced p => execResultProduced p s
      | .pfqEntryArrival n c e t => execPfqEntryArrival n c e t s
      | _ => .next s) with
    | .next t => t
    | _ => s) { s with agenda := s.agenda.filter (fun d => !mine d) }

/-- How far a run of a native call's body has come: it has returned, trapped, been held or been killed; it has taken a CKPT; or it
must wait for something. -/
inductive CallRun where
  | ended (s : State)
  | point (s : State)
  | waits (s : State)

/-- R191: the body run bundle by bundle, up to its next CKPT if `toPoint` says so. (DESIGN CHOICE, log entry 41). -/
def State.runCall (s : State) (core ctx epoch : Nat) (occupied toPoint : Bool) : Nat → CallRun
  | 0 => .waits s
  | n + 1 =>
    let s := s.settle core ctx epoch
    let x := s.ctx core ctx
    if s.gone core ctx epoch || x.shadow.occupied != occupied || !x.inRoutine || x.wait == .fault then .ended s
    else
      let x := { x with readyAt := s.cycle, wait := .none }
      let s := { s with issue := { s.issue with ckpt := false } }.setCtx core ctx x |>.updCore core (fun k => { k with divFree := 0, vecFree := .empty })
      let t := s.issueNow core ctx
      let y := t.ctx core ctx
      if y == x || (y.wait != .none && y.wait != .fault) then .waits t
      else if toPoint && t.issue.ckpt then .point t
      else t.runCall core ctx epoch occupied toPoint n

/-- R193: a native call goes on, and looks again after some cycles; it holds its unit until it returns. (DESIGN CHOICE, log entry 41). -/
def State.nativeOn (s : State) (core ctx epoch e : Nat) (c : Call) (delay : Nat) : State :=
  (s.updCore core (fun k => { k with calls := tset k.calls .none ctx c
                                     natFree := tset k.natFree 0 (vitUnit e) (max c.until_ (s.cycle + delay + 1)) })).updCtx core ctx
    (fun x => { x with wait := .engine (16 + vitUnit e) }) |>.at delay rkCore core (.nativeCallReturn core ctx epoch)

/-- R120, R191 to R193: NATIVE_CALL_RETURN: a call that is due makes its effects, and returns as RETR does, with no further delay bundle; one
that is not comes to its next point, where a pre-emption takes it, to go on with the body. What the body must wait for, the unit waits for.
(DESIGN CHOICE, log entry 41). -/
def execNativeCallReturn (core ctx epoch : Nat) (s : State) : Out :=
  let k := s.core core
  let x := k.ctx ctx
  let c := tget k.calls .none ctx
  match (if x.epoch == epoch && c.on then c.native else none) with
  | none => .next s
  | some e =>
    let body := s.runBody core ctx
    let due := decide (c.until_ ≤ s.cycle)
    let units (t : State) : State := t.updCore core (fun n => { n with divFree := k.divFree, vecFree := k.vecFree })
    match s.upset core 13 with
    | some sub => ((body.takeUpset core 13).pipeErr core ctx epoch 0 sub (8 + 16 * vitUnit e) (x.link - 128)).out
    | none => match body.runCall core ctx epoch x.shadow.occupied (!due) 65536 with
      | .ended t =>
        let y := t.ctx core ctx
        let back := !t.gone core ctx epoch && !y.inRoutine
        if back && !due && y.shadow.occupied == x.shadow.occupied then (s.nativeOn core ctx epoch e c (min pointSpan (c.until_ - s.cycle))).out
        else
          let t := (units t).updCore core (fun n => { n with natFree := tset n.natFree 0 (vitUnit e) s.cycle })
          (if back then t.updCtx core ctx (fun y => { y with readyAt := if y.shadow.occupied == x.shadow.occupied then s.cycle else y.readyAt }) else t).out
      | .point t =>
        if s.stoppedCore core then (units t).out else ((units t).nativeOn core ctx epoch e c (min pointSpan (c.until_ - s.cycle))).out
      | .waits t => ((units t).nativeOn core ctx epoch e c 1).out

end Sys2Proof.Machine
end

