-- ==== Sys2Proof/Machine/Advance.lean ====
section
/-! DEFINITION. What acts next (R59, R92, R160): the order of events, bundles and units within a cycle, and the passage of time; and
the placing of a bundle where the machine fetches its next. -/

namespace Sys2Proof.Machine

open Sys2Proof

/-- The order of events: by cycle, rank and unit. -/
def Due.before (a b : Due) : Bool :=
  a.cycle < b.cycle || (a.cycle == b.cycle && (a.rank < b.rank || (a.rank == b.rank && a.unit < b.unit)))

/-- The first of some events, the earlier one put down where two have equal keys. (DEDUCED, log entry 10). -/
def firstOf : List Due → Option Due
  | [] => none
  | d :: rest => match firstOf rest with
    | none => some d
    | some e => if e.before d then some e else some d

/-- The event that acts next in this cycle: before the bundles, or at any place in it. -/
def State.dueNow (s : State) (late : Bool) : Option Due := firstOf (s.agenda.filter (fun d => d.cycle ≤ s.cycle && (late || d.rank < 8)))

/-- R92: the next core that has a context to issue from in this cycle. -/
def State.nextCore (s : State) : Option Nat :=
  (s.cores.entries.find? (fun e => s.scan ≤ e.1 && (s.pick e.1).isSome)).map (·.1)

/-- An event taken off the agenda, its unit the one that acts. -/
def State.take (s : State) (d : Due) : State := { s with agenda := s.agenda.erase d, unit := d.unit }

/-- What acts next: an instruction with the state it acts on, or only the passage of time. Within a cycle: events of ranks below 8,
then a bundle of each core in ascending order, then the tile units, then engines and updates, then the networks. (DEDUCED, log entry 10). -/
def State.advance (s : State) : Option Instr × State :=
  match s.dueNow false with
  | some d => (some d.ev, s.take d)
  | none => match s.nextCore with
    | some n => (some (.bundleIssue n), { s with scan := n + 1 })
    | none =>
      if s.scan < Config.cores then (none, { s.tileTick with scan := Config.cores })
      else match s.dueNow true with
        | some d => (some d.ev, s.take d)
        | none =>
          let t := s.gustTick.twTick
          (none, { t with cycle := s.cycle + 1, scan := 0 })

/-! ## A bundle placed where it is fetched -/

/-- Where `placeBundle` puts a bundle. -/
def placePc : Nat := 0x100000

/-- A state whose next step issues a bundle on core 0's context 0, which runs at the level it has: the bundle lies in Hall-placed data
that bay 0 is home to, reached by range set 0, its translation cached, ASID 0 live. (DESIGN CHOICE, log entry 3). -/
def State.placeBundle (s : State) (b : BitVec 512) : State :=
  let k := s.core 0
  let x := k.ctx 0
  let fl : Word := 0xF
  let rng := tset (tset (tset (tset x.sr.rng 0 0 (BitVec.ofNat 64 placePc)) 0 1 (BitVec.ofNat 64 (placePc + 65536))) 0 2
    (BitVec.ofNat 64 placePc)) 0 3 fl
  let x := { x with status := .running, wait := .none, readyAt := 0, pc := BitVec.ofNat 64 placePc, xfer := .none, rep := .off,
                    transfer := false, pend := [], sr := { x.sr with rng } }
  let k := { k with ctxs := ⟨(0, x) :: k.ctxs.entries.filter (fun e => e.1 != 0 && !e.2.transfer)⟩, cur := 0, dead := false, group := none }
  let bay := tget s.bays .reset 0
  let t : TlbEnt := { asid := 0, gen := 0, base := placePc, size := 16, leaf := 0x3E, used := 0 }
  { s with agenda := s.agenda.filter (fun d => s.cycle < d.cycle), scan := 0, stuck := none
           cores := tset s.cores .reset 0 k
           regions := tset s.regions none (placePc / 65536) (some ⟨0, true, 0, 0⟩)
           bays := tset s.bays .reset 0 { bay with tlb := [t] }
           ctl := { s.ctl with asids := tset s.ctl.asids 0 0 0x10 }
           hall := putBytes s.hall placePc 64 b.toNat }

end Sys2Proof.Machine
end

