-- ==== Sys2Proof/Machine/Merge.lean ====
section
/-! DEFINITION. Merges of deterministic jobs (R327 to R333, R335, R336): the order of a set's tasks, its conflicts, and the application of
what its tasks stored and deferred. -/

namespace Sys2Proof.Machine

open Sys2Proof

/-! ## Order (R327) -/

/-- R327: the order of merge identities: TASKID, then core and context. -/
def MergeTask.before (a b : MergeTask) : Bool := a.taskId < b.taskId || (a.taskId == b.taskId && a.ident ≤ b.ident)

/-- A task put in its place among others in order; intervals of one task keep theirs. -/
def insertTask (t : MergeTask) : List MergeTask → List MergeTask
  | [] => [t]
  | u :: rest => if t.before u then t :: u :: rest else u :: insertTask t rest

/-- R331: a set's tasks by ascending merge identity. -/
def MergeSet.order (m : MergeSet) : List MergeTask := m.tasks.foldr insertTask []

/-- R327: two intervals of one task. -/
def MergeTask.same (a b : MergeTask) : Bool := a.taskId == b.taskId && a.ident == b.ident

/-- The core and context of a task. -/
def MergeTask.core (t : MergeTask) : Nat := t.ident / 4
def MergeTask.ctx (t : MergeTask) : Nat := t.ident % 4

/-! ## Conflicts (R332) -/

/-- Whether two requests name the same line of memory. -/
def mergeLine (a b : Xl) : Bool := a.ia / 64 == b.ia / 64 && a.host == b.host && a.rmt == b.rmt && (!a.rmt || a.pkg == b.pkg)

/-- The lowest byte of a mask. -/
def lowByte (m : BitVec 64) : Nat := ((List.range 64).find? (fun i => m.getLsbD i)).getD 0

/-- The lower of two addresses, if any. -/
def lowerOf (a : Option Nat) (b : Nat) : Option Nat := some (match a with | some x => min x b | none => b)

/-- The bytes of a line that an atomic or reduction writes. -/
def atomMask (r : AtomReq) : BitVec 64 := byteMask (r.xl.ia % 64) (if r.wide then 8 else 4)

/-- R332: the lowest byte that the log entries of two tasks both write. -/
def clashBytes (t u : MergeTask) : Option Nat :=
  t.entries.foldl (fun acc p => u.entries.foldl (fun acc q =>
    if mergeLine p.w.xl q.w.xl && p.w.mask &&& q.w.mask != 0 then lowerOf acc (p.w.xl.ia / 64 * 64 + lowByte (p.w.mask &&& q.w.mask)) else acc) acc) none

/-- R332: the lowest byte that a log entry of one task and an atomic or reduction of the other write. -/
def clashMixed (t u : MergeTask) : Option Nat :=
  t.entries.foldl (fun acc p => u.atoms.foldl (fun acc r =>
    if mergeLine p.w.xl r.xl && p.w.mask &&& atomMask r != 0 then lowerOf acc (p.w.xl.ia / 64 * 64 + lowByte (p.w.mask &&& atomMask r)) else acc) acc) none

/-- The lower of two optional addresses. -/
def lowest (a b : Option Nat) : Option Nat := match b with | some y => lowerOf a y | none => a

/-- R332: the collision of a pair: its subcode and its lowest byte, BYTES before MIXED. -/
def pairClash (t u : MergeTask) : Option (Nat × Nat) :=
  match (if t.same u then none else clashBytes t u) with
  | some a => some (1, a)
  | none => (lowest (clashMixed t u) (clashMixed u t)).map (fun a => (2, a))

/-- R332: the lowest CONFLICT candidate of tasks in order: its TASKIDs, subcode and byte. -/
def findConflict : List MergeTask → Option (Nat × Nat × Nat × Nat)
  | [] => none
  | t :: rest =>
    match (t :: rest).findSome? (fun u => (pairClash t u).map (fun c => (t.taskId, u.taskId, c.1, c.2))) with
    | some c => some c
    | none => findConflict rest

/-! ## Signatures (R333) -/

/-- R333: a task's bit in a signature. -/
def MergeTask.bit (t : MergeTask) : Nat := if t.taskId ≠ 0 then t.taskId % 64 else t.ident % 64

/-- R333: the line that a log entry marks at its home bay. -/
def signLine (p : LogPkt) : Option Nat := if p.w.xl.host || p.w.xl.rmt || isCtl p.w.xl.ia then none else some (p.w.xl.ia / 64)

/-- R333: the lines that a set touches, by line number, each once: those loaded, then those that log entries reach at the merge. -/
def touched (l : List MergeTask) : List Nat :=
  ((l.flatMap (·.reads) ++ l.flatMap (fun t => t.entries.filterMap signLine)).foldl
    (fun acc n => if acc.contains n then acc else n :: acc) []).reverse

/-- R333: the lines that a bay keeps signatures of: 65,536 of those that it homes; and whether it had more. -/
def State.signed (s : State) (l : List Nat) (bay : Nat) : List Nat × Bool :=
  let mine := l.filter (fun n => s.bayOf (64 * n) == bay)
  (mine.take 65536, decide (65536 < mine.length))

/-- R333: the candidate of a line: the lowest reader's bit, with the first writer whose bit differs. -/
def lineCand (l : List MergeTask) (n : Nat) : Option (Nat × Nat × Nat) :=
  let readers := (l.filter (fun t => t.reads.contains n)).map MergeTask.bit
  let writers := l.filter (fun t => t.entries.any (fun p => signLine p == some n))
  (List.range 64).findSome? (fun r =>
    if readers.contains r then (writers.find? (fun w => w.bit != r)).map (fun w => (64 * n, r, w.taskId)) else none)

/-- R333: the lowest SIGCONF candidate: its line, reader's bit and writer. -/
def findSigconf (l : List MergeTask) (lines : List Nat) : Option (Nat × Nat × Nat) :=
  lines.foldl (fun acc n => match lineCand l n, acc with
    | some c, some a => if c.1 < a.1 then some c else some a
    | some c, none => some c
    | none, _ => acc) none

/-! ## Waiting for homes (R331) -/

/-- A request that a merge makes at a home, with what a record of its fault says. -/
structure MergeReq where
  core : Nat
  ctx : Nat
  epoch : Nat
  xl : Xl
  va : Nat
  taskid : Nat
  deriving DecidableEq, Repr

/-- The requests of a task's merge. -/
def MergeTask.reqs (t : MergeTask) : List MergeReq :=
  t.entries.map (fun p => ⟨p.core, p.ctx, p.epoch, p.w.xl, p.va, p.taskid⟩)
    ++ t.atoms.map (fun r => ⟨r.core, r.ctx, r.epoch, r.xl, r.va, r.taskid⟩)
    ++ t.words.map (fun w => ⟨t.core, t.ctx, 0, w.2.1, 0, t.taskId⟩)

/-- The subcode with which a write would fault, if it would. -/
def State.mergeFault (s : State) (core : Nat) (x : Xl) : Option Nat × State :=
  match s.routeOf core x with
  | (.error f, s) => (some f, s)
  | (.ok (p, _), s) =>
    if x.host || x.rmt then (none, s)
    else if isCtl x.ia then (s.ctlFault x false, s)
    else match s.xlate (pathBay p) x needW s.root with
      | (.error f, _, s) => (some f, s)
      | (.ok _, _, s) => (none, s)

/-- A merge looked at again some cycles from now, unless that is already due. -/
def State.mergeAgain (s : State) (set delay : Nat) : State :=
  if s.agenda.any (fun e => e.ev == .merge set && s.cycle < e.cycle) then s else s.at delay rkHome 0 (.merge set)

/-- R329, R331: whether what a task read, buffered or staged in its interval has still to reach its homes. -/
def State.mergeFlying (s : State) (t : MergeTask) : Bool :=
  let k := s.core t.core
  let out := (k.ctx t.ctx).detOut
  let running (c : Nat) : Bool := k.engines.entries.any (fun e => (e.2.queue ++ e.2.ending).any (fun d => d.detKey == c))
    || (k.walker.running && 2 * k.walker.id + 1 == c)
  t.flying.any out.contains || t.cmds.any running

/-- R331, R355: a request of a merge that faults parks in its core's side log with a record, and the merge waits for its replay; one
that a migration marks waits too. Whether the merge waits. (DESIGN CHOICE, log entry 64). -/
def State.mergeReach (s : State) (set : Nat) (r : MergeReq) : Bool × State :=
  let k := s.core r.core
  let mine (e : SideEnt) : Bool := e.ctx == r.ctx && e.epoch == r.epoch && e.ia == (xlPlace r.xl) && e.ev == .merge set
  if k.side.any mine then (true, s)
  else match s.mergeFault r.core r.xl with
    | (none, s) => if (s.migrOf r.xl.ia).isSome then (true, s.mergeAgain set 64) else (false, s)
    | (some f, s) =>
      if 256 ≤ k.side.length then (true, s.mergeAgain set 128)
      else
        let pos := ((List.range 256).find? (fun i => !(k.side.map (·.pos)).contains i)).getD 0
        let s := s.updCore r.core (fun k => { k with side := k.side ++ [⟨pos, r.ctx, r.epoch, (xlPlace r.xl), .merge set, 0, false⟩] })
        (true, s.record (s.memRecord r.core r.ctx 1 0 f r.xl r.va r.taskid pos 6 none) (recOrder r.core r.ctx 0))

/-- R331: whether a merge waits, after each of its requests has been looked at. -/
def State.mergeWaits (s : State) (set : Nat) (l : List MergeReq) : Bool × State :=
  l.foldl (fun acc r => let a := acc.2.mergeReach set r; (acc.1 || a.1, a.2)) (false, s)

/-! ## Application (R331) -/

/-- A write of a merge at its home, at which it does something with the line found. -/
def State.mergeAt (s : State) (core : Nat) (x : Xl) (home : State → Nat → Found → State) : State :=
  match s.routeOf core x with
  | (.error _, s) => s
  | (.ok (p, _), s) => match s.xlate (pathBay p) x needW s.root with
    | (.error _, _, s) => s
    | (.ok fd, _, s) => home s (pathBay p) fd

/-- R331: a task's log entry applied; keys play no part. Where contexts of the job differ in DET its data is open (R64). -/
def State.mergeEntry (s : State) (mixed : Bool) (p : LogPkt) : State :=
  let x := p.w.xl
  let f := s.free
  let s := if mixed then f.2 else s
  let d := if mixed then Config.mixedLine f.1 else p.w.data
  if x.host then { s with host := putLine s.host (x.ia / 64 * 64) d p.w.mask }
  else if x.rmt then s
  else if isCtl x.ia then
    s.ctlDeliver ⟨x.ia - ctlBase, d, p.w.mask, p.core, p.ctx, false, p.priv, x.ia, x.asid + 4096 * x.gen, p.taskid⟩
  else s.mergeAt p.core x (fun s bay fd =>
    ((s.writePlace bay fd.place d p.w.mask p.w.poison).setKeys fd.place p.w.mask (s.homeKey bay)).unpinLine x.ia)

/-- R236, R331: a buffered atomic or reduction applied. -/
def State.mergeAtom (s : State) (r : AtomReq) : State :=
  if r.xl.host || r.xl.rmt || isCtl r.xl.ia then s else s.mergeAt r.core r.xl (fun s bay fd => (s.atomWrite bay fd r).2)

/-- R331: a deferred publication or completion word written. -/
def State.mergeWord (s : State) (t : MergeTask) (x : Xl) (v : Word) : State :=
  let s := s.sink t.core 0
  if x.host then { s with host := putBytes s.host x.ia 8 v.toNat }
  else if x.rmt then s
  else if isCtl x.ia then
    let off := x.ia - ctlBase
    s.ctlDeliver ⟨off, BitVec.ofNat 512 (v.toNat * 256 ^ (off % 64)), byteMask (off % 64) 8, t.core, t.ctx, false, 0, x.ia,
      x.asid + 4096 * x.gen, t.taskId⟩
  else s.mergeAt t.core x (fun s bay fd => s.writeWord bay fd x v (coreDie t.core))

/-- R331: what a merge applies: all log entries, then all atomics, then all words, each in the order of the tasks. -/
def State.mergeApply (s : State) (mixed : Bool) (l : List MergeTask) : State :=
  let s := l.foldl (fun s t => t.entries.foldl (fun s p => s.mergeEntry mixed p) s) s
  let s := l.foldl (fun s t => t.atoms.foldl (fun s r => s.mergeAtom r) s) s
  l.foldl (fun s t => (t.words.filter (·.1 == 0) ++ t.words.filter (·.1 == 1)).foldl (fun s w => s.mergeWord t w.2.1 w.2.2) s) s

/-- R329, R331: the entries of merged intervals leave their segments, and every line of their cores' views is dropped. -/
def State.mergeClear (s : State) (l : List MergeTask) : State :=
  l.foldl (fun s t =>
    let gone (e : LogEnt) : Bool := e.sent && t.entries.any (fun p => p.epoch == e.epoch && p.pos == e.pos)
    let s := s.updCtx t.core t.ctx (fun x => { x with log := x.log.filter (fun e => !gone e) })
    s.updCore t.core (fun k => { (k.dropWhere (fun _ => true)) with viewGen := k.viewGen + 1, viewAll := k.viewGen + 1 })) s

/-- The step that waited for a merge. -/
def State.mergeThen (s : State) (m : MergeSet) : State :=
  match m.thenEv with
  | none => s
  | some ev => match ev with
    | .barrierPhaseComplete g b p => s.at 0 rkCore 0 (.barrierPhaseComplete g b p)
    | .joinCounterDecrement j => s.at 0 rkHome j.core (.joinCounterDecrement j)
    | ev => s.at 0 rkJob m.jobId ev

/-- R64: whether contexts of a job differ in DET. (DESIGN CHOICE, log entry 65). -/
def State.mixedDet (s : State) (key : Nat) : Bool :=
  s.cores.entries.any (fun k => k.2.ctxs.entries.any (fun c => c.2.status == .running && c.2.record.job == key && !c.2.det))

/-- R335, R336, R359: what a merge reports: its CONFLICT, its SIGCONF, or, where a candidate kills, the first of these alone.
(DEDUCED, log entry 66). -/
def State.mergeReport (s : State) (kill : Bool) (c : Option (Nat × Nat × Nat × Nat)) (g : Option (Nat × Nat × Nat)) : State :=
  let put (s : State) (cls sub w2 w3 w4 w5 : Nat) : State :=
    s.record ⟨ringWord0 0 s.pkgId 0 0 6 2 sub cls, BitVec.ofNat 64 w2, BitVec.ofNat 64 w3, BitVec.ofNat 64 w4, BitVec.ofNat 64 w5, 0, 0, none⟩ (512 * 64)
  let s := match c with | some (t, u, sub, a) => put s 9 sub t u a 0 | none => s
  match g with
  | some (a, r, w) => if kill && c.isSome then s else put s 0xA 1 0 w a r
  | none => s

/-- R331 to R333, R335: MERGE: when every request of a set's tasks has reached its home, conflicts are found; a candidate kills the job
where DETCTL.KILL is 1; else the set is applied, and the step that waited for it follows. (DESIGN CHOICE, log entry 64). -/
def execMerge (set : Nat) (s : State) : Out :=
  match s.merges.find? (fun m => m.id == set) with
  | none => .next s
  | some m =>
    if m.thenEv.isNone then .next s
    else
      let l := m.order
      if l.any s.mergeFlying then .next (s.mergeAgain set 1) else
      let w := s.mergeWaits set (l.flatMap MergeTask.reqs)
      if w.1 then w.2.out
      else
        let s := w.2
        let lines := touched l
        let kept := (List.range 64).map (s.signed lines)
        let conflict := findConflict l
        let sig := findSigconf l (kept.flatMap (·.1))
        let kill := s.ctl.detctl.getLsbD 0 && (conflict.isSome || sig.isSome)
        let s := kept.foldl (fun s k => if k.2 then
          s.record ⟨ringWord0 0 s.pkgId 0 0 6 2 2 0xA, 0, 0, 0, 0, 0, 0, none⟩ (512 * 64) else s) s
        let s := s.mergeReport kill conflict sig
        if kill then
          let mine (e : SideEnt) : Bool := match e.ev with | .merge n => s.merges.any (fun x => x.id == n && x.jobId == m.jobId) | _ => false
          let s := s.cores.entries.foldl (fun s k => if k.2.side.any mine then s.updCore k.1 (fun k => { k with side := k.side.filter (fun e => !mine e) }) else s) s
          let s : State := { s with merges := s.merges.filter (fun x => x.jobId != m.jobId) }
          let s := s.mergeClear l
          ((s.killJob m.jobId (if conflict.isSome then 9 else 0xA)).at 0 rkJob m.jobId .jobComplete).out
        else
          let s := (s.mergeApply (s.mixedDet m.jobId) l).mergeClear l
          (({ s with merges := s.merges.filter (fun x => x.id != set) }.mergeThen m).at 0 rkJob m.jobId .jobComplete).out

end Sys2Proof.Machine
end

