-- ==== Sys2Proof/Machine/Ras.lean ====
section
/-! DEFINITION. Recovery of the module's paths and the power manager (R373 to R386, R404 to R407): DRAM blocks in error, parity retries,
the scrubber, link CRC, throttling, and the predictive windows. -/

namespace Sys2Proof.Machine

open Sys2Proof

/-! ## Counters and logs -/

/-- A field of w bits at a place in a word, raised by 1 and saturating. -/
def raiseField (x : Word) (lo w : Nat) : Word := if x.toNat / 2 ^ lo % 2 ^ w = 2 ^ w - 1 then x else x + BitVec.ofNat 64 (2 ^ lo)

/-- A field of w bits at a place in a word, replaced. -/
def putField (x : Word) (lo w v : Nat) : Word :=
  BitVec.ofNat 64 (x.toNat - x.toNat / 2 ^ lo % 2 ^ w * 2 ^ lo + v % 2 ^ w * 2 ^ lo)

/-- R377: CHSTAT of a channel of the package changed. -/
def State.updChan (s : State) (c : Nat) (f : Word → Word) : State :=
  { s with ctl := { s.ctl with chstat := tset s.ctl.chstat widthReset c (f (tget s.ctl.chstat widthReset c)) } }

/-- R345: the die whose DRAM holds a physical address. -/
def dieOfPa (pa : Nat) : Nat := pa / Config.dieDram

/-- R378: a log's head after an entry: the index moves on, and an entry that was there counts as lost. -/
def headAfter (h : Word) (full : Bool) : Word :=
  let h := putField h 0 8 (h.toNat % 256 + 1)
  if full then raiseField h 32 32 else h

/-- R378: an ECC-log entry of a type, found by the scrubber or not. -/
def State.eccEntry (s : State) (ty : Nat) (scrub : Bool) (pa sym : Nat) : State :=
  let d := dieOfPa pa
  let h := tget s.ctl.eccHead 0 d
  let k := 256 * d + h.toNat % 256
  let w := ty * 2 ^ 60 + (if scrub then 2 ^ 59 else 0) + channelOf pa % 128 * 2 ^ 52 + sym % 32 * 2 ^ 47 + pa % 2 ^ 40
  { s with ctl := { s.ctl with eccLog := tset s.ctl.eccLog (0, 0) k (BitVec.ofNat 64 w, BitVec.ofNat 64 s.cycle)
                               eccHead := tset s.ctl.eccHead 0 d (headAfter h (tget s.ctl.eccLog (0, 0) k != (0, 0))) } }

/-- R378: a transfer-log entry. -/
def State.xferEntry (s : State) (outcome attempts : Nat) (groups : BitVec 8) (pa : Nat) : State :=
  let d := dieOfPa pa
  let h := tget s.ctl.xferHead 0 d
  let k := 256 * d + h.toNat % 256
  let w := outcome * 2 ^ 62 + attempts * 2 ^ 59 + channelOf pa % 128 * 2 ^ 52 + groups.toNat * 2 ^ 44 + pa % 2 ^ 40
  { s with ctl := { s.ctl with xferLog := tset s.ctl.xferLog (0, 0) k (BitVec.ofNat 64 w, BitVec.ofNat 64 s.cycle)
                               xferHead := tset s.ctl.xferHead 0 d (headAfter h (tget s.ctl.xferLog (0, 0) k != (0, 0))) } }

/-! ## Corrected-error counts (R385) -/

/-- R368: PFTHR. -/
def State.pfthr (s : State) : Nat := s.ctl.relctl.toNat / 2 ^ 32 % 2 ^ 16

/-- R385: a domain returns to nominal, and its undervolting is locked out until reset. -/
def State.revert (s : State) (k : Nat) : State :=
  { s with rel := { s.rel with steps := tset s.rel.steps 0 k 0, changed := s.rel.changed ||| BitVec.ofNat 32 (2 ^ k) }
           ctl := { s.ctl with relstat := s.ctl.relstat ||| BitVec.ofNat 64 (2 ^ k) } }

/-- R385: a corrected error of array i of a domain: a count that exceeds PFTHR below nominal voltage reverts the domain.
(DESIGN CHOICE, log entry 50). -/
def State.countError (s : State) (k i : Nat) : State :=
  let n := tget s.rel.counts 0 (65536 * k + i) + 1
  let s : State := { s with rel := { s.rel with counts := tset s.rel.counts 0 (65536 * k + i) n } }
  if s.pfthr < n && 0 < tget s.rel.steps 0 k then s.revert k else s

/-! ## DRAM blocks (R374, R381) -/

/-- R374: retirement of a block's segment is advised. -/
def State.advise (s : State) (scrub : Bool) (pa : Nat) : State :=
  (s.eccEntry 3 scrub pa 0).updChan (channelOf pa) (fun w => w ||| 4)

/-- R374: what the outcome code of a block's read logs and counts. (DESIGN CHOICE, log entry 50). -/
def State.eccOutcome (s : State) (pa outcome symbol : Nat) (scrub : Bool) : State :=
  let c := channelOf pa
  if outcome = 1 then
    ((s.eccEntry 0 scrub pa symbol).updChan c (fun w => raiseField w 16 16)).countError (8 * dieOfPa pa + 6) (c % 128)
  else if outcome = 2 then ((s.eccEntry 1 scrub pa 0).updChan c (fun w => raiseField w 32 16)).advise scrub pa
  else s

/-- R374, R381: DRAM_BLOCK_READ: a block delivered by its outcome code, whose corrected symbol or lost words its read has left in the
bay, logs and counts what it met; a tag that does not hold logs as one of its own. -/
def execDramBlockRead (pa outcome symbol : Nat) (enc tagOk : Bool) (s : State) : Out :=
  let s := s.eccOutcome pa outcome symbol false
  .next (if enc && !tagOk then (s.eccEntry 2 false pa 0).updChan (channelOf pa) (fun w => raiseField w 32 16) else s)

/-! ## Parity (R375, R376) -/

/-- The first of a block's coming attempts taken. -/
def State.popAttempt (s : State) (pa : Nat) : State :=
  { s with rel := { s.rel with parity := tset s.rel.parity [] (pa / 64) (tget s.rel.parity [] (pa / 64)).tail } }

/-- R375, R376: PARITY_RETRY: the retry of a block's transfer, 16 cycles after its failing attempt. A success writes the transfer's
entry; a fourth failure narrows the channel to the half that held no mismatch, or fails it. -/
def execParityRetry (pa attempt : Nat) (groups : BitVec 8) (s : State) : Out :=
  let c := channelOf pa
  if s.channelWidth c = 0 then .next s
  else
    let g := (s.mismatches pa).headD 0
    let s := (s.popAttempt pa).updChan c (fun w => raiseField w 8 8)
    if g = 0 then .next (s.xferEntry 0 attempt groups pa)
    else if attempt < 3 then .next (s.at 16 rkLast (pa / 64) (.parityRetry pa (attempt + 1) g))
    else if s.channelWidth c = 2 && oneHalf g then
      .next ({ s with rel := { s.rel with narrow := tset s.rel.narrow 0 c g } }.at 256 rkLast c (.channelNarrowComplete c pa))
    else .next ((s.updChan c (fun w => putField w 0 2 0)).xferEntry 2 4 g pa)

/-- R375: CHANNEL_NARROW_COMPLETE: the channel serves again at half width, and the block that narrowed it is transferred once more. -/
def execChannelNarrowComplete (channel pa : Nat) (s : State) : Out :=
  if s.channelWidth channel = 0 then .next s
  else
    let g := (s.mismatches pa).headD 0
    let s := (s.popAttempt pa).updChan channel (fun w => putField w 0 2 1)
    if g = 0 then .next (s.xferEntry 1 4 (tget s.rel.narrow 0 channel) pa)
    else .next (s.at 16 rkLast (pa / 64) (.parityRetry pa 1 g))

/-! ## The scrubber (R379, R380) -/

/-- R379: a block with an error in its cells, decoded by the scrubber; a symbol corrected on two passes in a row advises retirement.
(DEDUCED, log entry 51). -/
def State.scrubCell (s : State) (k : Nat) (c : CellErr) : State :=
  let pa := 64 * k
  let twice := c.outcome = 1 && tget s.rel.scrubBad false k
  let s := s.eccOutcome pa c.outcome c.symbol true
  let s := if twice then s.advise true pa else s
  let keep := !(c.outcome = 1 && s.ctl.scrubctl.getLsbD 1 && !c.hard)
  { s with rel := { s.rel with scrubBad := tset s.rel.scrubBad false k (decide (c.outcome = 1))
                               cells := if keep then s.rel.cells else tset s.rel.cells none k none } }

/-- R379: a block of an encrypted segment whose tag does not hold: an entry of its own, and the block poisoned in DRAM. (DEDUCED, log entry 51). -/
def State.scrubTag (s : State) (k : Nat) : State :=
  if s.tagHolds (64 * k) then s
  else
    { s.eccEntry 2 true (64 * k) 0 with
      dramPoison := (List.range 8).foldl (fun t i => tset t false (8 * k + i) true) s.dramPoison
      encAt := tset s.encAt 0 k (s.resets + 1) }

/-- R379, R380: SCRUB_BLOCK: one block of every channel, but for one that a store reaches in the same cycle, is decoded, its tag compared, and a
corrected block written back; the next follows 2^RATE cycles later. (DEDUCED, log entry 51). -/
def execScrubBlock (block : Nat) (s : State) : Out :=
  let other := s.agenda.any (fun d => match d.ev with | .scrubBlock _ => true | _ => false)
  if !s.ctl.scrubctl.getLsbD 0 || other then .next s
  else
    let here (k : Nat) : Bool := k % 2 ^ 24 == block && s.channelWidth (k / 2 ^ 24) != 0
    let cells := s.rel.cells.entries.filter (fun e => here e.1 && !e.2.any (fun c => c.stored == s.cycle + 1))
    let tags := s.encAt.entries.filter (fun e => here e.1)
    let clean (k : Nat) : Bool := here k && (tget s.rel.cells none k).isNone
    let s : State := { s with rel := { s.rel with scrubBad := tfilter s.rel.scrubBad (fun k _ => !clean k) } }
    let s := tags.foldl (fun s e => s.scrubTag e.1) s
    let s := cells.foldl (fun s e => match e.2 with | some c => s.scrubCell e.1 c | none => s) s
    let next := (block + 1) % 2 ^ 24
    let rate := min 20 (max 4 (s.ctl.scrubctl.toNat / 2 ^ 8 % 256))
    .next ({ s with rel := { s.rel with scrubAt := next } }.at (2 ^ rate) rkLast 0 (.scrubBlock next))

/-! ## Links (R321, R383, R384) -/

/-- A link's status word: LINKCTL of a Syrraul port, or from 64 on EDGESTAT of an edge link. -/
def State.linkWord (s : State) (l : Nat) : Word :=
  if l < 64 then tget s.ctl.linkctl linkctlReset l else tget s.ctl.edgestat widthReset (l - 64)

/-- A link's status word replaced. -/
def State.setLink (s : State) (l : Nat) (w : Word) : State :=
  if l < 64 then { s with ctl := { s.ctl with linkctl := tset s.ctl.linkctl linkctlReset l w } }
  else { s with ctl := { s.ctl with edgestat := tset s.ctl.edgestat widthReset (l - 64) w } }

/-- Where WIDTH stands in a link's status word. (DEDUCED, log entry 52). -/
def widthAt (l : Nat) : Nat := if l < 64 then 6 else 0

/-- A link's WIDTH. -/
def State.linkWidth (s : State) (l : Nat) : Nat := (s.linkWord l).toNat / 2 ^ widthAt l % 4

/-- R368, R383: failures of a lane counted in the current window of 2^LWIN cycles; the count after them. (DEDUCED, log entry 52). -/
def State.countLane (s : State) (l lane n : Nat) : Nat × State :=
  let win := s.cycle / 2 ^ min 40 (max 16 (s.ctl.relctl.toNat / 2 ^ 16 % 256))
  let key := 1024 * l + lane % 1024
  let old := tget s.rel.crc 0 key
  let c := n + if old / 2 ^ 32 = win then old % 2 ^ 32 else 0
  (c, { s with rel := { s.rel with crc := tset s.rel.crc 0 key (win * 2 ^ 32 + c % 2 ^ 32) } })

/-- R383: FLIT_CRC_REPLAY: a flit of a link replayed for a lane's CRC some times, 9 standing for one that failed all 8. A lane that
fails too often is dropped, and a flit that failed all its replays retrains the link.
(DESIGN CHOICE, log entry 7; DEDUCED, log entry 52; DESIGN CHOICE, log entry 53). -/
def execFlitCrcReplay (link lane replays : Nat) (s : State) : Out :=
  if s.linkWidth link = 0 || replays = 0 then .next s
  else
    let s := s.setLink link (raiseField (s.linkWord link) 16 16)
    let r := s.countLane link lane (min replays 9)
    let s := r.2
    let w := s.linkWidth link
    let drop := s.ctl.relctl.toNat / 2 ^ 24 % 256 < r.1
    let s := if drop then
        { s.setLink link (putField (s.linkWord link) (widthAt link) 2 (w - 1)) with
          rel := { s.rel with crc := tset s.rel.crc 0 (1024 * link + lane % 1024) 0 } }
      else s
    if replays < 9 || s.linkWidth link = 0 then .next s
    else
      let w := s.linkWidth link
      let f := s.free
      let s := f.2.setLink link (raiseField (f.2.linkWord link) 32 16)
      let s := if link < 64 then s.setLink link (putField (s.linkWord link) 6 2 0) else s
      .next (s.at 125000 rkLast link (.retrainComplete link (min w (Config.trainedLanes f.1 % 3))))

/-- R383: RETRAIN_COMPLETE: the link comes up with the lanes that trained; one with none stays down until reset. (DEDUCED, log entry 52). -/
def execRetrainComplete (link trained : Nat) (s : State) : Out :=
  .next (s.setLink link (putField (s.linkWord link) (widthAt link) 2 trained))

/-! ## Power and temperature (R404 to R407) -/

/-- The hottest junction of the module. -/
def State.hottest (s : State) : Nat := (List.range 4).foldl (fun m d => max m (tget s.rel.temps 0 d)) 0

/-- R405, R406, R414: THROTTLE_WINDOW_END, which follows the starts of its cycle: PWR is the power averaged over the window, and THR moves against
the cap; at 105 °C and above it
is held at 7. (DESIGN CHOICE, log entry 56). -/
def execThrottleWindowEnd (power : Nat) (s : State) : Out :=
  let pwr := power % 65536
  let cap := min 225 (s.ctl.pwrctl.toNat / 2 ^ 16 % 256)
  let thr := s.ctl.pwrstat.toNat / 2 ^ 16 % 8
  let thr := if 105 ≤ s.hottest then 7
    else if 16 * cap < pwr then min 7 (thr + 1) else if pwr < 15 * cap then thr - 1 else thr
  let w := putField (putField s.ctl.pwrstat 32 16 pwr) 16 3 thr
  let f := s.free
  .next ({ f.2 with ctl := { f.2.ctl with pwrstat := w } }.at (2 ^ 20) rkUpdate 0 (.throttleWindowEnd (Config.power f.1)))

/-- R404: JUNCTION_TEMPERATURE_CHANGE: the hottest junction of a die is at a temperature: TEMP reports the module's hottest, 105 °C
holds THR at 7, and 115 °C resets the module. (DESIGN CHOICE, log entries 7, 56). -/
def execJunctionTemperatureChange (die celsius : Nat) (s : State) : Out :=
  let s : State := { s with rel := { s.rel with temps := tset s.rel.temps 0 die celsius } }
  let t := s.hottest
  let w := putField s.ctl.pwrstat 24 8 (min t 255)
  let s : State := { s with ctl := { s.ctl with pwrstat := if 105 ≤ t then putField w 16 3 7 else w } }
  .next (if 115 ≤ t then s.at 0 rkDecide 0 (.reset 1) else s)

/-- R385, R407: one voltage domain at the end of a predictive window. -/
def State.domainEnd (s : State) (k : Nat) : State :=
  let counts := (s.rel.counts.entries.filter (fun e => e.1 / 65536 == k)).map (·.2)
  let st := tget s.rel.steps 0 k
  let exceeds := counts.any (fun n => s.pfthr < n)
  let s := if exceeds && 0 < st then s.revert k
    else if exceeds && !s.rel.changed.getLsbD k then
      { s with ctl := { s.ctl with relstat := s.ctl.relstat ||| BitVec.ofNat 64 (2 ^ (32 + k)) } }
    else s
  let down := s.ctl.pwrctl.getLsbD 0 && !s.ctl.relstat.getLsbD k && counts.all (· == 0) && st < 8
  let steps := if !s.ctl.pwrctl.getLsbD 0 then 0 else if down then st + 1 else tget s.rel.steps 0 k
  { s with rel := { s.rel with steps := tset s.rel.steps 0 k steps } }

/-- R385, R407: PREDICTIVE_WINDOW_END: every domain reverts, is declared or takes a step, and the counts begin anew. -/
def execPredictiveWindowEnd (s : State) : Out :=
  let s := (List.range 32).foldl State.domainEnd s
  let n := min 44 (max 24 (s.ctl.relctl.toNat / 2 ^ 48 % 256))
  .next ({ s with rel := { s.rel with counts := .empty, changed := 0 } }.at (2 ^ n) rkUpdate 0 .predictiveWindowEnd)

end Sys2Proof.Machine
end

