-- ==== Sys2Proof/Machine/ResetSeq.lean ====
section
/-! DEFINITION. Reset and bring-up (R408, R409, R411). -/

namespace Sys2Proof.Machine

open Sys2Proof

/-- R408, R411: what a reset leaves: every register at its reset value, every scratchpad, Hall and view-cache line cleared with its
poison, DRAM and host memory as they were. An encrypted block keeps the mark of the keys that it was written under.
(DESIGN CHOICE, log entry 9). -/
def State.cleared (s : State) : State :=
  { State.reset with
    agenda := State.reset.agenda.filter (fun d => 0 < d.cycle)
    dram := s.dram, dramPoison := s.dramPoison, host := s.host, encAt := s.encAt
    rel := { Rel.reset with cells := s.rel.cells, temps := s.rel.temps }
    hostReads := s.hostReads, hostRetries := s.hostRetries
    resets := s.resets + 1, freeCtr := s.freeCtr }

/-- R408: the step of bring-up that fails, if one does: those that may fail, and step 4 where the configuration names no host port.
(DESIGN CHOICE, log entry 8). -/
def State.failedStep (s : State) : Option Nat :=
  let n := Config.bringUpFails s.resets
  if n = 1 || n = 3 || (n = 4 && Config.hostPorts s.resets ≠ 0) then some n
  else if Config.hostPorts s.resets = 0 then some 4
  else if n = 5 then some 5 else none

/-- R408, R409: measurement k set from the firmware's image, table or configuration block. (DESIGN CHOICE, log entry 8). -/
def State.measure (s : State) (k : Nat) : State :=
  { s with ctl := { s.ctl with m := tset s.ctl.m 0 k (Config.firmwareDigest k) } }

/-- R321, R408: step 4: LINKCTL.HOST and SYRCTL.PKGID from the signed image. (DESIGN CHOICE, log entry 8). -/
def State.configure (s : State) : State :=
  let host := Config.hostPorts s.resets
  { s with ctl := { s.ctl with
      linkctl := (List.range 64).foldl (fun t p => if host.getLsbD p then tset t linkctlReset p (linkctlReset ||| 8) else t) s.ctl.linkctl
      syrctl := s.ctl.syrctl ||| BitVec.ofNat 64 ((Config.packageId s.resets).toNat * 2 ^ 32) } }

/-- R408: RESET: at power-on (0), a thermal trip (1) or the host's reset line (2), the module is cleared and the firmware's steps run in
order. The first that fails holds the module in reset, and nothing runs; else the firmware halts its own context, and the host's launch
may come. (DESIGN CHOICE, log entries 3, 8, 77). -/
def execReset (_cause : Nat) (s : State) : Out :=
  let s := s.cleared
  match s.failedStep with
  | some n =>
    let s := if 2 < n then s.measure 0 else s
    let s := if 4 < n then s.configure else s
    .next { s with holdStep := n, agenda := [] }
  | none =>
    let s := (((s.measure 0).configure).measure 1).measure 2
    .next ({ s with holdStep := 0 }.updCtx 0 0 (fun x => { x with halted := true }))

end Sys2Proof.Machine
end

