-- ==== Sys2Proof/Machine/Dispatch.lean ====
section
/-! DEFINITION. The dispatch: one arm for each constructor of `Instr`, each a call of that instruction's meaning. -/

namespace Sys2Proof.Machine

open Sys2Proof

/-- The meaning of one step of the machine. -/
def exec (i : Instr) (s : State) : Host.Outcome State Fault Refusal :=
  match i with
  | .bundleIssue core => Sys2Proof.Machine.execBundleIssue core s
  | .resultProduced p => Sys2Proof.Machine.execResultProduced p s
  | .pfqEntryArrival core ctx entry stamp => Sys2Proof.Machine.execPfqEntryArrival core ctx entry stamp s
  | .br f => Sys2Proof.Machine.execBr f s
  | .brc f => Sys2Proof.Machine.execBrc f s
  | .bri f => Sys2Proof.Machine.execBri f s
  | .call f => Sys2Proof.Machine.execCall f s
  | .calli f => Sys2Proof.Machine.execCalli f s
  | .ret f => Sys2Proof.Machine.execRet f s
  | .callr f => Sys2Proof.Machine.execCallr f s
  | .rep f => Sys2Proof.Machine.execRep f s
  | .spawn f => Sys2Proof.Machine.execSpawn f s
  | .spawnRecordPush core ctx epoch qsel r => Sys2Proof.Machine.execSpawnRecordPush core ctx epoch qsel r s
  | .join f => Sys2Proof.Machine.execJoin f s
  | .joinCounterDecrement j => Sys2Proof.Machine.execJoinCounterDecrement j s
  | .barr f => Sys2Proof.Machine.execBarr f s
  | .barra f => Sys2Proof.Machine.execBarra f s
  | .barrw f => Sys2Proof.Machine.execBarrw f s
  | .trap f => Sys2Proof.Machine.execTrap f s
  | .phase f => Sys2Proof.Machine.execPhase f s
  | .add f => Sys2Proof.Machine.execAdd f s
  | .sub f => Sys2Proof.Machine.execSub f s
  | .mul f => Sys2Proof.Machine.execMul f s
  | .mulh f => Sys2Proof.Machine.execMulh f s
  | .mulhu f => Sys2Proof.Machine.execMulhu f s
  | .div f => Sys2Proof.Machine.execDiv f s
  | .divu f => Sys2Proof.Machine.execDivu f s
  | .rem f => Sys2Proof.Machine.execRem f s
  | .remu f => Sys2Proof.Machine.execRemu f s
  | .and f => Sys2Proof.Machine.execAnd f s
  | .or f => Sys2Proof.Machine.execOr f s
  | .xor f => Sys2Proof.Machine.execXor f s
  | .andn f => Sys2Proof.Machine.execAndn f s
  | .shl f => Sys2Proof.Machine.execShl f s
  | .shr f => Sys2Proof.Machine.execShr f s
  | .sar f => Sys2Proof.Machine.execSar f s
  | .rotl f => Sys2Proof.Machine.execRotl f s
  | .clz f => Sys2Proof.Machine.execClz f s
  | .ctz f => Sys2Proof.Machine.execCtz f s
  | .popc f => Sys2Proof.Machine.execPopc f s
  | .min f => Sys2Proof.Machine.execMin f s
  | .max f => Sys2Proof.Machine.execMax f s
  | .minu f => Sys2Proof.Machine.execMinu f s
  | .maxu f => Sys2Proof.Machine.execMaxu f s
  | .sel f => Sys2Proof.Machine.execSel f s
  | .cmp f => Sys2Proof.Machine.execCmp f s
  | .li f => Sys2Proof.Machine.execLi f s
  | .mov f => Sys2Proof.Machine.execMov f s
  | .adda f => Sys2Proof.Machine.execAdda f s
  | .ext f => Sys2Proof.Machine.execExt f s
  | .ins f => Sys2Proof.Machine.execIns f s
  | .pand f => Sys2Proof.Machine.execPand f s
  | .por f => Sys2Proof.Machine.execPor f s
  | .pxor f => Sys2Proof.Machine.execPxor f s
  | .pnot f => Sys2Proof.Machine.execPnot f s
  | .unif f => Sys2Proof.Machine.execUnif f s
  | .mfs f => Sys2Proof.Machine.execMfs f s
  | .mts f => Sys2Proof.Machine.execMts f s
  | .pfq f => Sys2Proof.Machine.execPfq f s
  | .sfadd f => Sys2Proof.Machine.execSfadd f s
  | .sfmul f => Sys2Proof.Machine.execSfmul f s
  | .sffma f => Sys2Proof.Machine.execSffma f s
  | .sfcmp f => Sys2Proof.Machine.execSfcmp f s
  | .sfcvt f => Sys2Proof.Machine.execSfcvt f s
  | .vadd f => Sys2Proof.Machine.execVadd f s
  | .vsub f => Sys2Proof.Machine.execVsub f s
  | .vmul f => Sys2Proof.Machine.execVmul f s
  | .vfma f => Sys2Proof.Machine.execVfma f s
  | .vfms f => Sys2Proof.Machine.execVfms f s
  | .vmin f => Sys2Proof.Machine.execVmin f s
  | .vmax f => Sys2Proof.Machine.execVmax f s
  | .vabs f => Sys2Proof.Machine.execVabs f s
  | .vneg f => Sys2Proof.Machine.execVneg f s
  | .vcpys f => Sys2Proof.Machine.execVcpys f s
  | .viadd f => Sys2Proof.Machine.execViadd f s
  | .visub f => Sys2Proof.Machine.execVisub f s
  | .vimul f => Sys2Proof.Machine.execVimul f s
  | .vand f => Sys2Proof.Machine.execVand f s
  | .vor f => Sys2Proof.Machine.execVor f s
  | .vxor f => Sys2Proof.Machine.execVxor f s
  | .vshl f => Sys2Proof.Machine.execVshl f s
  | .vshr f => Sys2Proof.Machine.execVshr f s
  | .vsar f => Sys2Proof.Machine.execVsar f s
  | .vimin f => Sys2Proof.Machine.execVimin f s
  | .vimax f => Sys2Proof.Machine.execVimax f s
  | .vcmp f => Sys2Proof.Machine.execVcmp f s
  | .vsel f => Sys2Proof.Machine.execVsel f s
  | .mand f => Sys2Proof.Machine.execMand f s
  | .mor f => Sys2Proof.Machine.execMor f s
  | .mnot f => Sys2Proof.Machine.execMnot f s
  | .vcvt f => Sys2Proof.Machine.execVcvt f s
  | .vscl f => Sys2Proof.Machine.execVscl f s
  | .vfrexSig f => Sys2Proof.Machine.execVfrexSig f s
  | .vfrexExp f => Sys2Proof.Machine.execVfrexExp f s
  | .vrnd f => Sys2Proof.Machine.execVrnd f s
  | .vrcps f => Sys2Proof.Machine.execVrcps f s
  | .vrsqs f => Sys2Proof.Machine.execVrsqs f s
  | .vexp2f f => Sys2Proof.Machine.execVexp2f f s
  | .vlog2s f => Sys2Proof.Machine.execVlog2s f s
  | .vpoly f => Sys2Proof.Machine.execVpoly f s
  | .vperm f => Sys2Proof.Machine.execVperm f s
  | .vshuf f => Sys2Proof.Machine.execVshuf f s
  | .vbcst f => Sys2Proof.Machine.execVbcst f s
  | .vbcstLane f => Sys2Proof.Machine.execVbcstLane f s
  | .vextr f => Sys2Proof.Machine.execVextr f s
  | .vred f => Sys2Proof.Machine.execVred f s
  | .vscan f => Sys2Proof.Machine.execVscan f s
  | .tlatch f => Sys2Proof.Machine.execTlatch f s
  | .ttrn f => Sys2Proof.Machine.execTtrn f s
  | .tzero f => Sys2Proof.Machine.execTzero f s
  | .tmac f => Sys2Proof.Machine.execTmac f s
  | .trda f => Sys2Proof.Machine.execTrda f s
  | .twra f => Sys2Proof.Machine.execTwra f s
  | .tgang f => Sys2Proof.Machine.execTgang f s
  | .tileInstructionStart core id => Sys2Proof.Machine.execTileInstructionStart core id s
  | .tileInstructionComplete core id => Sys2Proof.Machine.execTileInstructionComplete core id s
  | .gangEntryArrival core g => Sys2Proof.Machine.execGangEntryArrival core g s
  | .gangShareDone core id => Sys2Proof.Machine.execGangShareDone core id s
  | .gangStatusDeposit gid gang => Sys2Proof.Machine.execGangStatusDeposit gid gang s
  | .ld f => Sys2Proof.Machine.execLd f s
  | .ldv f => Sys2Proof.Machine.execLdv f s
  | .st f => Sys2Proof.Machine.execSt f s
  | .stv f => Sys2Proof.Machine.execStv f s
  | .ldb f => Sys2Proof.Machine.execLdb f s
  | .disc f => Sys2Proof.Machine.execDisc f s
  | .discHome f => Sys2Proof.Machine.execDiscHome f s
  | .lpub f => Sys2Proof.Machine.execLpub f s
  | .lacq f => Sys2Proof.Machine.execLacq f s
  | .atomAdd f => Sys2Proof.Machine.execAtomAdd f s
  | .atomFadd f => Sys2Proof.Machine.execAtomFadd f s
  | .atomMin f => Sys2Proof.Machine.execAtomMin f s
  | .atomMax f => Sys2Proof.Machine.execAtomMax f s
  | .atomAnd f => Sys2Proof.Machine.execAtomAnd f s
  | .atomOr f => Sys2Proof.Machine.execAtomOr f s
  | .atomXor f => Sys2Proof.Machine.execAtomXor f s
  | .atomXchg f => Sys2Proof.Machine.execAtomXchg f s
  | .atomCas f => Sys2Proof.Machine.execAtomCas f s
  | .redAdd f => Sys2Proof.Machine.execRedAdd f s
  | .redFadd f => Sys2Proof.Machine.execRedFadd f s
  | .redMin f => Sys2Proof.Machine.execRedMin f s
  | .redMax f => Sys2Proof.Machine.execRedMax f s
  | .subs f => Sys2Proof.Machine.execSubs f s
  | .unsub f => Sys2Proof.Machine.execUnsub f s
  | .cpy f => Sys2Proof.Machine.execCpy f s
  | .gath f => Sys2Proof.Machine.execGath f s
  | .scat f => Sys2Proof.Machine.execScat f s
  | .collAllreduce f => Sys2Proof.Machine.execCollAllreduce f s
  | .collReduceScatter f => Sys2Proof.Machine.execCollReduceScatter f s
  | .collAllgather f => Sys2Proof.Machine.execCollAllgather f s
  | .collBroadcast f => Sys2Proof.Machine.execCollBroadcast f s
  | .ownEng f => Sys2Proof.Machine.execOwnEng f s
  | .ownThr f => Sys2Proof.Machine.execOwnThr f s
  | .sems f => Sys2Proof.Machine.execSems f s
  | .semsRem f => Sys2Proof.Machine.execSemsRem f s
  | .semw f => Sys2Proof.Machine.execSemw f s
  | .cmpl f => Sys2Proof.Machine.execCmpl f s
  | .xmit f => Sys2Proof.Machine.execXmit f s
  | .imux f => Sys2Proof.Machine.execImux f s
  | .itin f => Sys2Proof.Machine.execItin f s
  | .invalAll f => Sys2Proof.Machine.execInvalAll f s
  | .invalSeg f => Sys2Proof.Machine.execInvalSeg f s
  | .invalRegion f => Sys2Proof.Machine.execInvalRegion f s
  | .migr f => Sys2Proof.Machine.execMigr f s
  | .fringAck f => Sys2Proof.Machine.execFringAck f s
  | .fringBase f => Sys2Proof.Machine.execFringBase f s
  | .fringHead f => Sys2Proof.Machine.execFringHead f s
  | .almcQuery f => Sys2Proof.Machine.execAlmcQuery f s
  | .almcRec f => Sys2Proof.Machine.execAlmcRec f s
  | .almcPlay f => Sys2Proof.Machine.execAlmcPlay f s
  | .almcStop f => Sys2Proof.Machine.execAlmcStop f s
  | .vitqEntry f => Sys2Proof.Machine.execVitqEntry f s
  | .vitqRd f => Sys2Proof.Machine.execVitqRd f s
  | .vitqWr f => Sys2Proof.Machine.execVitqWr f s
  | .monStart f => Sys2Proof.Machine.execMonStart f s
  | .monStop f => Sys2Proof.Machine.execMonStop f s
  | .monRd f => Sys2Proof.Machine.execMonRd f s
  | .routineDispatchDecision core ctx epoch => Sys2Proof.Machine.execRoutineDispatchDecision core ctx epoch s
  | .nativeCallReturn core ctx epoch => Sys2Proof.Machine.execNativeCallReturn core ctx epoch s
  | .vitrineChangeover core index value => Sys2Proof.Machine.execVitrineChangeover core index value s
  | .logEntryArrival p => Sys2Proof.Machine.execLogEntryArrival p s
  | .logAck core ctx epoch pos => Sys2Proof.Machine.execLogAck core ctx epoch pos s
  | .publicationWrite core ctx epoch => Sys2Proof.Machine.execPublicationWrite core ctx epoch s
  | .lacqWordRead core ctx epoch index => Sys2Proof.Machine.execLacqWordRead core ctx epoch index s
  | .replayRefill core ctx epoch p => Sys2Proof.Machine.execReplayRefill core ctx epoch p s
  | .bayReadRequest r => Sys2Proof.Machine.execBayReadRequest r s
  | .viewFillArrival p => Sys2Proof.Machine.execViewFillArrival p s
  | .bayAtomic r => Sys2Proof.Machine.execBayAtomic r s
  | .tableWalkComplete bay id => Sys2Proof.Machine.execTableWalkComplete bay id s
  | .invalComplete core ctx epoch => Sys2Proof.Machine.execInvalComplete core ctx epoch s
  | .subsRequestArrival r => Sys2Proof.Machine.execSubsRequestArrival r s
  | .unsubRequestArrival r => Sys2Proof.Machine.execUnsubRequestArrival r s
  | .subsWindowTimeout core entry stamp => Sys2Proof.Machine.execSubsWindowTimeout core entry stamp s
  | .subscriptionUpdateApply u => Sys2Proof.Machine.execSubscriptionUpdateApply u s
  | .subsUpdateSavedImage u => Sys2Proof.Machine.execSubsUpdateSavedImage u s
  | .hostWriteArrival w => Sys2Proof.Machine.execHostWriteArrival w s
  | .hostRead ia size tag => Sys2Proof.Machine.execHostRead ia size tag s
  | .launchWrite block host => Sys2Proof.Machine.execLaunchWrite block host s
  | .startVectorLaunch launch => Sys2Proof.Machine.execStartVectorLaunch launch s
  | .taskLaunch launch => Sys2Proof.Machine.execTaskLaunch launch s
  | .ensembleDispatch launch => Sys2Proof.Machine.execEnsembleDispatch launch s
  | .recordPop core ctx => Sys2Proof.Machine.execRecordPop core ctx s
  | .agingRise die item => Sys2Proof.Machine.execAgingRise die item s
  | .groupPreempt gid => Sys2Proof.Machine.execGroupPreempt gid s
  | .groupKill gid => Sys2Proof.Machine.execGroupKill gid s
  | .groupHold gid => Sys2Proof.Machine.execGroupHold gid s
  | .groupRelease gid => Sys2Proof.Machine.execGroupRelease gid s
  | .preemptSave gid => Sys2Proof.Machine.execPreemptSave gid s
  | .preemptRelease gid => Sys2Proof.Machine.execPreemptRelease gid s
  | .barrierPhaseComplete gid bix phase => Sys2Proof.Machine.execBarrierPhaseComplete gid bix phase s
  | .doldrumsExpiry gid stamp => Sys2Proof.Machine.execDoldrumsExpiry gid stamp s
  | .engineCommandStart core eng => Sys2Proof.Machine.execEngineCommandStart core eng s
  | .engineCommandComplete core eng => Sys2Proof.Machine.execEngineCommandComplete core eng s
  | .ownFlipEffect core id => Sys2Proof.Machine.execOwnFlipEffect core id s
  | .remoteSemsArrival core sem inc => Sys2Proof.Machine.execRemoteSemsArrival core sem inc s
  | .collContribution set index pkg data => Sys2Proof.Machine.execCollContribution set index pkg data s
  | .collResultDelivery core data fail => Sys2Proof.Machine.execCollResultDelivery core data fail s
  | .collAbsentTimeout set index => Sys2Proof.Machine.execCollAbsentTimeout set index s
  | .presenceMessage jobid pkg => Sys2Proof.Machine.execPresenceMessage jobid pkg s
  | .faultRecordWrite r => Sys2Proof.Machine.execFaultRecordWrite r s
  | .heldAccessRemake who => Sys2Proof.Machine.execHeldAccessRemake who s
  | .sideLogReplay core segment => Sys2Proof.Machine.execSideLogReplay core segment s
  | .retryResponse id => Sys2Proof.Machine.execRetryResponse id s
  | .retryBackoffExpiry id => Sys2Proof.Machine.execRetryBackoffExpiry id s
  | .flitCrcReplay link lane replays => Sys2Proof.Machine.execFlitCrcReplay link lane replays s
  | .retrainComplete link trained => Sys2Proof.Machine.execRetrainComplete link trained s
  | .dramBlockRead pa outcome symbol enc tagOk => Sys2Proof.Machine.execDramBlockRead pa outcome symbol enc tagOk s
  | .parityRetry pa attempt groups => Sys2Proof.Machine.execParityRetry pa attempt groups s
  | .channelNarrowComplete channel pa => Sys2Proof.Machine.execChannelNarrowComplete channel pa s
  | .scrubBlock block => Sys2Proof.Machine.execScrubBlock block s
  | .throttleWindowEnd power => Sys2Proof.Machine.execThrottleWindowEnd power s
  | .junctionTemperatureChange die celsius => Sys2Proof.Machine.execJunctionTemperatureChange die celsius s
  | .monitorWindowEnd core monitor stamp => Sys2Proof.Machine.execMonitorWindowEnd core monitor stamp s
  | .merge set => Sys2Proof.Machine.execMerge set s
  | .almanacWaitTimeout core ctx stamp => Sys2Proof.Machine.execAlmanacWaitTimeout core ctx stamp s
  | .gustpathWrite die value => Sys2Proof.Machine.execGustpathWrite die value s
  | .tblwrWrite w => Sys2Proof.Machine.execTblwrWrite w s
  | .m3Extend w => Sys2Proof.Machine.execM3Extend w s
  | .quoteNonceWrite nonce => Sys2Proof.Machine.execQuoteNonceWrite nonce s
  | .quoteComplete stamp => Sys2Proof.Machine.execQuoteComplete stamp s
  | .controlRegisterWrite w => Sys2Proof.Machine.execControlRegisterWrite w s
  | .reset cause => Sys2Proof.Machine.execReset cause s
  | .nop => Sys2Proof.Machine.execNop s
  | .retr => Sys2Proof.Machine.execRetr s
  | .ckpt => Sys2Proof.Machine.execCkpt s
  | .retire => Sys2Proof.Machine.execRetire s
  | .yield => Sys2Proof.Machine.execYield s
  | .eret => Sys2Proof.Machine.execEret s
  | .halt => Sys2Proof.Machine.execHalt s
  | .phend => Sys2Proof.Machine.execPhend s
  | .itstop => Sys2Proof.Machine.execItstop s
  | .drain => Sys2Proof.Machine.execDrain s
  | .curatorDispatch => Sys2Proof.Machine.execCuratorDispatch s
  | .predictiveWindowEnd => Sys2Proof.Machine.execPredictiveWindowEnd s
  | .monitorPeriodicSample => Sys2Proof.Machine.execMonitorPeriodicSample s
  | .itinCommandNode => Sys2Proof.Machine.execItinCommandNode s
  | .itinConditionNode => Sys2Proof.Machine.execItinConditionNode s
  | .itinWhileNode => Sys2Proof.Machine.execItinWhileNode s
  | .itinJoinNode => Sys2Proof.Machine.execItinJoinNode s
  | .itinEndNode => Sys2Proof.Machine.execItinEndNode s
  | .docentPlacement => Sys2Proof.Machine.execDocentPlacement s
  | .docentPreemptionDecision => Sys2Proof.Machine.execDocentPreemptionDecision s
  | .looseRecordBinding => Sys2Proof.Machine.execLooseRecordBinding s
  | .groupRestore => Sys2Proof.Machine.execGroupRestore s
  | .cmplWrite => Sys2Proof.Machine.execCmplWrite s
  | .migrationCopy => Sys2Proof.Machine.execMigrationCopy s
  | .gangShareStart => Sys2Proof.Machine.execGangShareStart s
  | .routerPowerDown => Sys2Proof.Machine.execRouterPowerDown s
  | .routerWakeSignal => Sys2Proof.Machine.execRouterWakeSignal s
  | .routerWakeComplete => Sys2Proof.Machine.execRouterWakeComplete s
  | .jobComplete => Sys2Proof.Machine.execJobComplete s
  | .presenceTimeout => Sys2Proof.Machine.execPresenceTimeout s

end Sys2Proof.Machine
end

