-- ==== Sys2Proof/Machine/Step.lean ====
section
/-! DEFINITION. One step of the machine: what acts next acts, or the cycle ends. -/

namespace Sys2Proof.Machine

open Sys2Proof

/-- One step: the next event, bundle or unit acts, or time passes. A machine that touched a physical hole stays stopped. -/
def step (s : State) : Host.Outcome State Fault Refusal :=
  match s.stuck with
  | some f => .fault f
  | none => match s.advance with
    | (some i, t) => exec i t
    | (none, t) => t.out

/-- The state with a bundle placed where the next step fetches and issues it: its low bits are `w`. (DESIGN CHOICE, log entry 3). -/
def State.withFetchWord (s : State) (nbits w : Nat) : State := s.placeBundle (BitVec.ofNat 512 (w % 2 ^ nbits))

end Sys2Proof.Machine
end

