-- ==== Sys2Proof/Laws/PerInstr.lean ====
section
/-! SUPPORT. The family Encode, instruction by instruction: an instruction's encoding bears an opcode of its own, which the slot of a
NOP alone has 0 in (R71, R72). -/

namespace Sys2Proof.Laws

open Sys2Proof

/-- The low ten bits of a slot. -/
theorem slotOpc_append {n : Nat} (x : BitVec n) (op : BitVec 10) (h : n + 10 = 56) : slotOpc ((x ++ op).cast h) = op.toNat := by
  have e : ((x ++ op).cast h).toNat = x.toNat * 1024 + op.toNat := by
    rw [BitVec.toNat_cast, BitVec.toNat_append, Nat.shiftLeft_eq, Nat.mul_comm, ← Nat.two_pow_add_eq_or_of_lt op.isLt]
  have := op.isLt
  unfold slotOpc
  omega

theorem slotOpc_avt (f : AvtF) (op : BitVec 10) : slotOpc (f.toBits op) = op.toNat := slotOpc_append _ op rfl
theorem slotOpc_c (f : CF) (op : BitVec 10) : slotOpc (f.toBits op) = op.toNat := slotOpc_append _ op rfl
theorem slotOpc_m (f : MF) (op : BitVec 10) : slotOpc (f.toBits op) = op.toNat := slotOpc_append _ op rfl
theorem slotOpc_e (f : EF) (op : BitVec 10) : slotOpc (f.toBits op) = op.toNat := slotOpc_append _ op rfl

namespace Encode

/-- The opcode that an instruction's encoding bears is 0 for NOP alone. -/
def Statement (i : Instr) : Prop := ∀ c w, encodeSlot i = some (c, w) → (slotOpc w = 0 ↔ i = .nop)

theorem of_opcode {i : Instr} {c : Cls} {w : BitVec 56} (n : Nat) (e : encodeSlot i = some (c, w)) (h : slotOpc w = n) (hn : n ≠ 0) (hi : i ≠ .nop) :
    Statement i := by
  intro c' w' e'
  rw [e] at e'
  cases e'
  exact ⟨fun z => absurd (h.symm.trans z) hn, fun z => absurd z hi⟩

theorem of_none {i : Instr} (e : encodeSlot i = none) : Statement i := by
  intro c w h
  rw [e] at h
  cases h

theorem bundleIssue (core : Nat) : Statement (.bundleIssue core) := of_none rfl
theorem resultProduced (p : ResultP) : Statement (.resultProduced p) := of_none rfl
theorem pfqEntryArrival (core ctx entry stamp : Nat) : Statement (.pfqEntryArrival core ctx entry stamp) := of_none rfl
theorem br (f : CF) : Statement (.br f) := of_opcode 0x001 rfl (slotOpc_c f _) (by decide) nofun
theorem brc (f : CF) : Statement (.brc f) := of_opcode 0x002 rfl (slotOpc_c f _) (by decide) nofun
theorem bri (f : CF) : Statement (.bri f) := of_opcode 0x003 rfl (slotOpc_c f _) (by decide) nofun
theorem call (f : CF) : Statement (.call f) := of_opcode 0x004 rfl (slotOpc_c f _) (by decide) nofun
theorem calli (f : CF) : Statement (.calli f) := of_opcode 0x005 rfl (slotOpc_c f _) (by decide) nofun
theorem ret (f : CF) : Statement (.ret f) := of_opcode 0x006 rfl (slotOpc_c f _) (by decide) nofun
theorem callr (f : CF) : Statement (.callr f) := of_opcode 0x008 rfl (slotOpc_c f _) (by decide) nofun
theorem rep (f : CF) : Statement (.rep f) := of_opcode 0x010 rfl (slotOpc_c f _) (by decide) nofun
theorem spawn (f : CF) : Statement (.spawn f) := of_opcode 0x018 rfl (slotOpc_c f _) (by decide) nofun
theorem spawnRecordPush (core ctx epoch qsel : Nat) (r : RecP) : Statement (.spawnRecordPush core ctx epoch qsel r) := of_none rfl
theorem join (f : CF) : Statement (.join f) := of_opcode 0x019 rfl (slotOpc_c f _) (by decide) nofun
theorem joinCounterDecrement (j : JoinReq) : Statement (.joinCounterDecrement j) := of_none rfl
theorem barr (f : CF) : Statement (.barr f) := of_opcode 0x020 rfl (slotOpc_c f _) (by decide) nofun
theorem barra (f : CF) : Statement (.barra f) := of_opcode 0x021 rfl (slotOpc_c f _) (by decide) nofun
theorem barrw (f : CF) : Statement (.barrw f) := of_opcode 0x022 rfl (slotOpc_c f _) (by decide) nofun
theorem trap (f : CF) : Statement (.trap f) := of_opcode 0x028 rfl (slotOpc_c f _) (by decide) nofun
theorem phase (f : CF) : Statement (.phase f) := of_opcode 0x030 rfl (slotOpc_c f _) (by decide) nofun
theorem add (f : AvtF) : Statement (.add f) := of_opcode 0x001 rfl (slotOpc_avt f _) (by decide) nofun
theorem sub (f : AvtF) : Statement (.sub f) := of_opcode 0x002 rfl (slotOpc_avt f _) (by decide) nofun
theorem mul (f : AvtF) : Statement (.mul f) := of_opcode 0x003 rfl (slotOpc_avt f _) (by decide) nofun
theorem mulh (f : AvtF) : Statement (.mulh f) := of_opcode 0x004 rfl (slotOpc_avt f _) (by decide) nofun
theorem mulhu (f : AvtF) : Statement (.mulhu f) := of_opcode 0x005 rfl (slotOpc_avt f _) (by decide) nofun
theorem div (f : AvtF) : Statement (.div f) := of_opcode 0x006 rfl (slotOpc_avt f _) (by decide) nofun
theorem divu (f : AvtF) : Statement (.divu f) := of_opcode 0x007 rfl (slotOpc_avt f _) (by decide) nofun
theorem rem (f : AvtF) : Statement (.rem f) := of_opcode 0x008 rfl (slotOpc_avt f _) (by decide) nofun
theorem remu (f : AvtF) : Statement (.remu f) := of_opcode 0x009 rfl (slotOpc_avt f _) (by decide) nofun
theorem and (f : AvtF) : Statement (.and f) := of_opcode 0x010 rfl (slotOpc_avt f _) (by decide) nofun
theorem or (f : AvtF) : Statement (.or f) := of_opcode 0x011 rfl (slotOpc_avt f _) (by decide) nofun
theorem xor (f : AvtF) : Statement (.xor f) := of_opcode 0x012 rfl (slotOpc_avt f _) (by decide) nofun
theorem andn (f : AvtF) : Statement (.andn f) := of_opcode 0x013 rfl (slotOpc_avt f _) (by decide) nofun
theorem shl (f : AvtF) : Statement (.shl f) := of_opcode 0x014 rfl (slotOpc_avt f _) (by decide) nofun
theorem shr (f : AvtF) : Statement (.shr f) := of_opcode 0x015 rfl (slotOpc_avt f _) (by decide) nofun
theorem sar (f : AvtF) : Statement (.sar f) := of_opcode 0x016 rfl (slotOpc_avt f _) (by decide) nofun
theorem rotl (f : AvtF) : Statement (.rotl f) := of_opcode 0x017 rfl (slotOpc_avt f _) (by decide) nofun
theorem clz (f : AvtF) : Statement (.clz f) := of_opcode 0x018 rfl (slotOpc_avt f _) (by decide) nofun
theorem ctz (f : AvtF) : Statement (.ctz f) := of_opcode 0x019 rfl (slotOpc_avt f _) (by decide) nofun
theorem popc (f : AvtF) : Statement (.popc f) := of_opcode 0x01A rfl (slotOpc_avt f _) (by decide) nofun
theorem min (f : AvtF) : Statement (.min f) := of_opcode 0x020 rfl (slotOpc_avt f _) (by decide) nofun
theorem max (f : AvtF) : Statement (.max f) := of_opcode 0x021 rfl (slotOpc_avt f _) (by decide) nofun
theorem minu (f : AvtF) : Statement (.minu f) := of_opcode 0x022 rfl (slotOpc_avt f _) (by decide) nofun
theorem maxu (f : AvtF) : Statement (.maxu f) := of_opcode 0x023 rfl (slotOpc_avt f _) (by decide) nofun
theorem sel (f : AvtF) : Statement (.sel f) := of_opcode 0x024 rfl (slotOpc_avt f _) (by decide) nofun
theorem cmp (f : AvtF) : Statement (.cmp f) := of_opcode 0x028 rfl (slotOpc_avt f _) (by decide) nofun
theorem li (f : AvtF) : Statement (.li f) := of_opcode 0x030 rfl (slotOpc_avt f _) (by decide) nofun
theorem mov (f : AvtF) : Statement (.mov f) := of_opcode 0x031 rfl (slotOpc_avt f _) (by decide) nofun
theorem adda (f : AvtF) : Statement (.adda f) := of_opcode 0x032 rfl (slotOpc_avt f _) (by decide) nofun
theorem ext (f : AvtF) : Statement (.ext f) := of_opcode 0x033 rfl (slotOpc_avt f _) (by decide) nofun
theorem ins (f : AvtF) : Statement (.ins f) := of_opcode 0x034 rfl (slotOpc_avt f _) (by decide) nofun
theorem pand (f : AvtF) : Statement (.pand f) := of_opcode 0x040 rfl (slotOpc_avt f _) (by decide) nofun
theorem por (f : AvtF) : Statement (.por f) := of_opcode 0x041 rfl (slotOpc_avt f _) (by decide) nofun
theorem pxor (f : AvtF) : Statement (.pxor f) := of_opcode 0x042 rfl (slotOpc_avt f _) (by decide) nofun
theorem pnot (f : AvtF) : Statement (.pnot f) := of_opcode 0x043 rfl (slotOpc_avt f _) (by decide) nofun
theorem unif (f : AvtF) : Statement (.unif f) := of_opcode 0x044 rfl (slotOpc_avt f _) (by decide) nofun
theorem mfs (f : AvtF) : Statement (.mfs f) := of_opcode 0x050 rfl (slotOpc_avt f _) (by decide) nofun
theorem mts (f : AvtF) : Statement (.mts f) := of_opcode 0x051 rfl (slotOpc_avt f _) (by decide) nofun
theorem pfq (f : AvtF) : Statement (.pfq f) := of_opcode 0x052 rfl (slotOpc_avt f _) (by decide) nofun
theorem sfadd (f : AvtF) : Statement (.sfadd f) := of_opcode 0x060 rfl (slotOpc_avt f _) (by decide) nofun
theorem sfmul (f : AvtF) : Statement (.sfmul f) := of_opcode 0x061 rfl (slotOpc_avt f _) (by decide) nofun
theorem sffma (f : AvtF) : Statement (.sffma f) := of_opcode 0x062 rfl (slotOpc_avt f _) (by decide) nofun
theorem sfcmp (f : AvtF) : Statement (.sfcmp f) := of_opcode 0x063 rfl (slotOpc_avt f _) (by decide) nofun
theorem sfcvt (f : AvtF) : Statement (.sfcvt f) := of_opcode 0x064 rfl (slotOpc_avt f _) (by decide) nofun
theorem vadd (f : AvtF) : Statement (.vadd f) := of_opcode 0x001 rfl (slotOpc_avt f _) (by decide) nofun
theorem vsub (f : AvtF) : Statement (.vsub f) := of_opcode 0x002 rfl (slotOpc_avt f _) (by decide) nofun
theorem vmul (f : AvtF) : Statement (.vmul f) := of_opcode 0x003 rfl (slotOpc_avt f _) (by decide) nofun
theorem vfma (f : AvtF) : Statement (.vfma f) := of_opcode 0x004 rfl (slotOpc_avt f _) (by decide) nofun
theorem vfms (f : AvtF) : Statement (.vfms f) := of_opcode 0x005 rfl (slotOpc_avt f _) (by decide) nofun
theorem vmin (f : AvtF) : Statement (.vmin f) := of_opcode 0x006 rfl (slotOpc_avt f _) (by decide) nofun
theorem vmax (f : AvtF) : Statement (.vmax f) := of_opcode 0x007 rfl (slotOpc_avt f _) (by decide) nofun
theorem vabs (f : AvtF) : Statement (.vabs f) := of_opcode 0x008 rfl (slotOpc_avt f _) (by decide) nofun
theorem vneg (f : AvtF) : Statement (.vneg f) := of_opcode 0x009 rfl (slotOpc_avt f _) (by decide) nofun
theorem vcpys (f : AvtF) : Statement (.vcpys f) := of_opcode 0x00A rfl (slotOpc_avt f _) (by decide) nofun
theorem viadd (f : AvtF) : Statement (.viadd f) := of_opcode 0x040 rfl (slotOpc_avt f _) (by decide) nofun
theorem visub (f : AvtF) : Statement (.visub f) := of_opcode 0x041 rfl (slotOpc_avt f _) (by decide) nofun
theorem vimul (f : AvtF) : Statement (.vimul f) := of_opcode 0x042 rfl (slotOpc_avt f _) (by decide) nofun
theorem vand (f : AvtF) : Statement (.vand f) := of_opcode 0x043 rfl (slotOpc_avt f _) (by decide) nofun
theorem vor (f : AvtF) : Statement (.vor f) := of_opcode 0x044 rfl (slotOpc_avt f _) (by decide) nofun
theorem vxor (f : AvtF) : Statement (.vxor f) := of_opcode 0x045 rfl (slotOpc_avt f _) (by decide) nofun
theorem vshl (f : AvtF) : Statement (.vshl f) := of_opcode 0x046 rfl (slotOpc_avt f _) (by decide) nofun
theorem vshr (f : AvtF) : Statement (.vshr f) := of_opcode 0x047 rfl (slotOpc_avt f _) (by decide) nofun
theorem vsar (f : AvtF) : Statement (.vsar f) := of_opcode 0x048 rfl (slotOpc_avt f _) (by decide) nofun
theorem vimin (f : AvtF) : Statement (.vimin f) := of_opcode 0x049 rfl (slotOpc_avt f _) (by decide) nofun
theorem vimax (f : AvtF) : Statement (.vimax f) := of_opcode 0x04A rfl (slotOpc_avt f _) (by decide) nofun
theorem vcmp (f : AvtF) : Statement (.vcmp f) := of_opcode 0x010 rfl (slotOpc_avt f _) (by decide) nofun
theorem vsel (f : AvtF) : Statement (.vsel f) := of_opcode 0x011 rfl (slotOpc_avt f _) (by decide) nofun
theorem mand (f : AvtF) : Statement (.mand f) := of_opcode 0x012 rfl (slotOpc_avt f _) (by decide) nofun
theorem mor (f : AvtF) : Statement (.mor f) := of_opcode 0x013 rfl (slotOpc_avt f _) (by decide) nofun
theorem mnot (f : AvtF) : Statement (.mnot f) := of_opcode 0x014 rfl (slotOpc_avt f _) (by decide) nofun
theorem vcvt (f : AvtF) : Statement (.vcvt f) := of_opcode 0x020 rfl (slotOpc_avt f _) (by decide) nofun
theorem vscl (f : AvtF) : Statement (.vscl f) := of_opcode 0x021 rfl (slotOpc_avt f _) (by decide) nofun
theorem vfrexSig (f : AvtF) : Statement (.vfrexSig f) := of_opcode 0x022 rfl (slotOpc_avt f _) (by decide) nofun
theorem vfrexExp (f : AvtF) : Statement (.vfrexExp f) := of_opcode 0x022 rfl (slotOpc_avt f _) (by decide) nofun
theorem vrnd (f : AvtF) : Statement (.vrnd f) := of_opcode 0x023 rfl (slotOpc_avt f _) (by decide) nofun
theorem vrcps (f : AvtF) : Statement (.vrcps f) := of_opcode 0x030 rfl (slotOpc_avt f _) (by decide) nofun
theorem vrsqs (f : AvtF) : Statement (.vrsqs f) := of_opcode 0x031 rfl (slotOpc_avt f _) (by decide) nofun
theorem vexp2f (f : AvtF) : Statement (.vexp2f f) := of_opcode 0x032 rfl (slotOpc_avt f _) (by decide) nofun
theorem vlog2s (f : AvtF) : Statement (.vlog2s f) := of_opcode 0x033 rfl (slotOpc_avt f _) (by decide) nofun
theorem vpoly (f : AvtF) : Statement (.vpoly f) := of_opcode 0x034 rfl (slotOpc_avt f _) (by decide) nofun
theorem vperm (f : AvtF) : Statement (.vperm f) := of_opcode 0x050 rfl (slotOpc_avt f _) (by decide) nofun
theorem vshuf (f : AvtF) : Statement (.vshuf f) := of_opcode 0x051 rfl (slotOpc_avt f _) (by decide) nofun
theorem vbcst (f : AvtF) : Statement (.vbcst f) := of_opcode 0x054 rfl (slotOpc_avt f _) (by decide) nofun
theorem vbcstLane (f : AvtF) : Statement (.vbcstLane f) := of_opcode 0x054 rfl (slotOpc_avt f _) (by decide) nofun
theorem vextr (f : AvtF) : Statement (.vextr f) := of_opcode 0x055 rfl (slotOpc_avt f _) (by decide) nofun
theorem vred (f : AvtF) : Statement (.vred f) := of_opcode 0x052 rfl (slotOpc_avt f _) (by decide) nofun
theorem vscan (f : AvtF) : Statement (.vscan f) := of_opcode 0x053 rfl (slotOpc_avt f _) (by decide) nofun
theorem tlatch (f : AvtF) : Statement (.tlatch f) := of_opcode 0x001 rfl (slotOpc_avt f _) (by decide) nofun
theorem ttrn (f : AvtF) : Statement (.ttrn f) := of_opcode 0x00A rfl (slotOpc_avt f _) (by decide) nofun
theorem tzero (f : AvtF) : Statement (.tzero f) := of_opcode 0x002 rfl (slotOpc_avt f _) (by decide) nofun
theorem tmac (f : AvtF) : Statement (.tmac f) := of_opcode 0x003 rfl (slotOpc_avt f _) (by decide) nofun
theorem trda (f : AvtF) : Statement (.trda f) := of_opcode 0x005 rfl (slotOpc_avt f _) (by decide) nofun
theorem twra (f : AvtF) : Statement (.twra f) := of_opcode 0x006 rfl (slotOpc_avt f _) (by decide) nofun
theorem tgang (f : AvtF) : Statement (.tgang f) := of_opcode 0x008 rfl (slotOpc_avt f _) (by decide) nofun
theorem tileInstructionStart (core id : Nat) : Statement (.tileInstructionStart core id) := of_none rfl
theorem tileInstructionComplete (core id : Nat) : Statement (.tileInstructionComplete core id) := of_none rfl
theorem gangEntryArrival (core : Nat) (g : GangEntry) : Statement (.gangEntryArrival core g) := of_none rfl
theorem gangShareDone (core id : Nat) : Statement (.gangShareDone core id) := of_none rfl
theorem gangStatusDeposit (gid gang : Nat) : Statement (.gangStatusDeposit gid gang) := of_none rfl
theorem ld (f : MF) : Statement (.ld f) := of_opcode 0x001 rfl (slotOpc_m f _) (by decide) nofun
theorem ldv (f : MF) : Statement (.ldv f) := of_opcode 0x002 rfl (slotOpc_m f _) (by decide) nofun
theorem st (f : MF) : Statement (.st f) := of_opcode 0x008 rfl (slotOpc_m f _) (by decide) nofun
theorem stv (f : MF) : Statement (.stv f) := of_opcode 0x009 rfl (slotOpc_m f _) (by decide) nofun
theorem ldb (f : MF) : Statement (.ldb f) := of_opcode 0x010 rfl (slotOpc_m f _) (by decide) nofun
theorem disc (f : MF) : Statement (.disc f) := of_opcode 0x011 rfl (slotOpc_m f _) (by decide) nofun
theorem discHome (f : MF) : Statement (.discHome f) := of_opcode 0x011 rfl (slotOpc_m f _) (by decide) nofun
theorem lpub (f : MF) : Statement (.lpub f) := of_opcode 0x019 rfl (slotOpc_m f _) (by decide) nofun
theorem lacq (f : MF) : Statement (.lacq f) := of_opcode 0x01A rfl (slotOpc_m f _) (by decide) nofun
theorem atomAdd (f : MF) : Statement (.atomAdd f) := of_opcode 0x020 rfl (slotOpc_m f _) (by decide) nofun
theorem atomFadd (f : MF) : Statement (.atomFadd f) := of_opcode 0x020 rfl (slotOpc_m f _) (by decide) nofun
theorem atomMin (f : MF) : Statement (.atomMin f) := of_opcode 0x020 rfl (slotOpc_m f _) (by decide) nofun
theorem atomMax (f : MF) : Statement (.atomMax f) := of_opcode 0x020 rfl (slotOpc_m f _) (by decide) nofun
theorem atomAnd (f : MF) : Statement (.atomAnd f) := of_opcode 0x020 rfl (slotOpc_m f _) (by decide) nofun
theorem atomOr (f : MF) : Statement (.atomOr f) := of_opcode 0x020 rfl (slotOpc_m f _) (by decide) nofun
theorem atomXor (f : MF) : Statement (.atomXor f) := of_opcode 0x020 rfl (slotOpc_m f _) (by decide) nofun
theorem atomXchg (f : MF) : Statement (.atomXchg f) := of_opcode 0x020 rfl (slotOpc_m f _) (by decide) nofun
theorem atomCas (f : MF) : Statement (.atomCas f) := of_opcode 0x020 rfl (slotOpc_m f _) (by decide) nofun
theorem redAdd (f : MF) : Statement (.redAdd f) := of_opcode 0x021 rfl (slotOpc_m f _) (by decide) nofun
theorem redFadd (f : MF) : Statement (.redFadd f) := of_opcode 0x021 rfl (slotOpc_m f _) (by decide) nofun
theorem redMin (f : MF) : Statement (.redMin f) := of_opcode 0x021 rfl (slotOpc_m f _) (by decide) nofun
theorem redMax (f : MF) : Statement (.redMax f) := of_opcode 0x021 rfl (slotOpc_m f _) (by decide) nofun
theorem subs (f : MF) : Statement (.subs f) := of_opcode 0x028 rfl (slotOpc_m f _) (by decide) nofun
theorem unsub (f : MF) : Statement (.unsub f) := of_opcode 0x029 rfl (slotOpc_m f _) (by decide) nofun
theorem cpy (f : EF) : Statement (.cpy f) := of_opcode 0x001 rfl (slotOpc_e f _) (by decide) nofun
theorem gath (f : EF) : Statement (.gath f) := of_opcode 0x002 rfl (slotOpc_e f _) (by decide) nofun
theorem scat (f : EF) : Statement (.scat f) := of_opcode 0x003 rfl (slotOpc_e f _) (by decide) nofun
theorem collAllreduce (f : EF) : Statement (.collAllreduce f) := of_opcode 0x004 rfl (slotOpc_e f _) (by decide) nofun
theorem collReduceScatter (f : EF) : Statement (.collReduceScatter f) := of_opcode 0x004 rfl (slotOpc_e f _) (by decide) nofun
theorem collAllgather (f : EF) : Statement (.collAllgather f) := of_opcode 0x004 rfl (slotOpc_e f _) (by decide) nofun
theorem collBroadcast (f : EF) : Statement (.collBroadcast f) := of_opcode 0x004 rfl (slotOpc_e f _) (by decide) nofun
theorem ownEng (f : EF) : Statement (.ownEng f) := of_opcode 0x008 rfl (slotOpc_e f _) (by decide) nofun
theorem ownThr (f : EF) : Statement (.ownThr f) := of_opcode 0x008 rfl (slotOpc_e f _) (by decide) nofun
theorem sems (f : EF) : Statement (.sems f) := of_opcode 0x010 rfl (slotOpc_e f _) (by decide) nofun
theorem semsRem (f : EF) : Statement (.semsRem f) := of_opcode 0x010 rfl (slotOpc_e f _) (by decide) nofun
theorem semw (f : EF) : Statement (.semw f) := of_opcode 0x011 rfl (slotOpc_e f _) (by decide) nofun
theorem cmpl (f : EF) : Statement (.cmpl f) := of_opcode 0x018 rfl (slotOpc_e f _) (by decide) nofun
theorem xmit (f : EF) : Statement (.xmit f) := of_opcode 0x020 rfl (slotOpc_e f _) (by decide) nofun
theorem imux (f : EF) : Statement (.imux f) := of_opcode 0x021 rfl (slotOpc_e f _) (by decide) nofun
theorem itin (f : EF) : Statement (.itin f) := of_opcode 0x028 rfl (slotOpc_e f _) (by decide) nofun
theorem invalAll (f : EF) : Statement (.invalAll f) := of_opcode 0x030 rfl (slotOpc_e f _) (by decide) nofun
theorem invalSeg (f : EF) : Statement (.invalSeg f) := of_opcode 0x030 rfl (slotOpc_e f _) (by decide) nofun
theorem invalRegion (f : EF) : Statement (.invalRegion f) := of_opcode 0x030 rfl (slotOpc_e f _) (by decide) nofun
theorem migr (f : EF) : Statement (.migr f) := of_opcode 0x031 rfl (slotOpc_e f _) (by decide) nofun
theorem fringAck (f : EF) : Statement (.fringAck f) := of_opcode 0x032 rfl (slotOpc_e f _) (by decide) nofun
theorem fringBase (f : EF) : Statement (.fringBase f) := of_opcode 0x032 rfl (slotOpc_e f _) (by decide) nofun
theorem fringHead (f : EF) : Statement (.fringHead f) := of_opcode 0x032 rfl (slotOpc_e f _) (by decide) nofun
theorem almcQuery (f : EF) : Statement (.almcQuery f) := of_opcode 0x038 rfl (slotOpc_e f _) (by decide) nofun
theorem almcRec (f : EF) : Statement (.almcRec f) := of_opcode 0x038 rfl (slotOpc_e f _) (by decide) nofun
theorem almcPlay (f : EF) : Statement (.almcPlay f) := of_opcode 0x038 rfl (slotOpc_e f _) (by decide) nofun
theorem almcStop (f : EF) : Statement (.almcStop f) := of_opcode 0x038 rfl (slotOpc_e f _) (by decide) nofun
theorem vitqEntry (f : EF) : Statement (.vitqEntry f) := of_opcode 0x040 rfl (slotOpc_e f _) (by decide) nofun
theorem vitqRd (f : EF) : Statement (.vitqRd f) := of_opcode 0x040 rfl (slotOpc_e f _) (by decide) nofun
theorem vitqWr (f : EF) : Statement (.vitqWr f) := of_opcode 0x040 rfl (slotOpc_e f _) (by decide) nofun
theorem monStart (f : EF) : Statement (.monStart f) := of_opcode 0x048 rfl (slotOpc_e f _) (by decide) nofun
theorem monStop (f : EF) : Statement (.monStop f) := of_opcode 0x048 rfl (slotOpc_e f _) (by decide) nofun
theorem monRd (f : EF) : Statement (.monRd f) := of_opcode 0x048 rfl (slotOpc_e f _) (by decide) nofun
theorem routineDispatchDecision (core ctx epoch : Nat) : Statement (.routineDispatchDecision core ctx epoch) := of_none rfl
theorem nativeCallReturn (core ctx epoch : Nat) : Statement (.nativeCallReturn core ctx epoch) := of_none rfl
theorem vitrineChangeover (core : Nat) (index : Nat) (value : Word) : Statement (.vitrineChangeover core index value) := of_none rfl
theorem logEntryArrival (p : LogPkt) : Statement (.logEntryArrival p) := of_none rfl
theorem logAck (core ctx epoch pos : Nat) : Statement (.logAck core ctx epoch pos) := of_none rfl
theorem publicationWrite (core ctx epoch : Nat) : Statement (.publicationWrite core ctx epoch) := of_none rfl
theorem lacqWordRead (core ctx epoch index : Nat) : Statement (.lacqWordRead core ctx epoch index) := of_none rfl
theorem replayRefill (core ctx epoch : Nat) (p : FillP) : Statement (.replayRefill core ctx epoch p) := of_none rfl
theorem bayReadRequest (r : ReadReq) : Statement (.bayReadRequest r) := of_none rfl
theorem viewFillArrival (p : FillP) : Statement (.viewFillArrival p) := of_none rfl
theorem bayAtomic (r : AtomReq) : Statement (.bayAtomic r) := of_none rfl
theorem tableWalkComplete (bay id : Nat) : Statement (.tableWalkComplete bay id) := of_none rfl
theorem invalComplete (core ctx epoch : Nat) : Statement (.invalComplete core ctx epoch) := of_none rfl
theorem subsRequestArrival (r : SubsReq) : Statement (.subsRequestArrival r) := of_none rfl
theorem unsubRequestArrival (r : SubsReq) : Statement (.unsubRequestArrival r) := of_none rfl
theorem subsWindowTimeout (core entry stamp : Nat) : Statement (.subsWindowTimeout core entry stamp) := of_none rfl
theorem subscriptionUpdateApply (u : SubUpd) : Statement (.subscriptionUpdateApply u) := of_none rfl
theorem subsUpdateSavedImage (u : SubUpd) : Statement (.subsUpdateSavedImage u) := of_none rfl
theorem hostWriteArrival (w : HostWrite) : Statement (.hostWriteArrival w) := of_none rfl
theorem hostRead (ia size tag : Nat) : Statement (.hostRead ia size tag) := of_none rfl
theorem launchWrite (block : Line) (host : Bool) : Statement (.launchWrite block host) := of_none rfl
theorem startVectorLaunch (launch : Nat) : Statement (.startVectorLaunch launch) := of_none rfl
theorem taskLaunch (launch : Nat) : Statement (.taskLaunch launch) := of_none rfl
theorem ensembleDispatch (launch : Nat) : Statement (.ensembleDispatch launch) := of_none rfl
theorem recordPop (core ctx : Nat) : Statement (.recordPop core ctx) := of_none rfl
theorem agingRise (die item : Nat) : Statement (.agingRise die item) := of_none rfl
theorem groupPreempt (gid : Nat) : Statement (.groupPreempt gid) := of_none rfl
theorem groupKill (gid : Nat) : Statement (.groupKill gid) := of_none rfl
theorem groupHold (gid : Nat) : Statement (.groupHold gid) := of_none rfl
theorem groupRelease (gid : Nat) : Statement (.groupRelease gid) := of_none rfl
theorem preemptSave (gid : Nat) : Statement (.preemptSave gid) := of_none rfl
theorem preemptRelease (gid : Nat) : Statement (.preemptRelease gid) := of_none rfl
theorem barrierPhaseComplete (gid bix phase : Nat) : Statement (.barrierPhaseComplete gid bix phase) := of_none rfl
theorem doldrumsExpiry (gid stamp : Nat) : Statement (.doldrumsExpiry gid stamp) := of_none rfl
theorem engineCommandStart (core eng : Nat) : Statement (.engineCommandStart core eng) := of_none rfl
theorem engineCommandComplete (core eng : Nat) : Statement (.engineCommandComplete core eng) := of_none rfl
theorem ownFlipEffect (core id : Nat) : Statement (.ownFlipEffect core id) := of_none rfl
theorem remoteSemsArrival (core sem inc : Nat) : Statement (.remoteSemsArrival core sem inc) := of_none rfl
theorem collContribution (set index pkg : Nat) (data : List Word) : Statement (.collContribution set index pkg data) := of_none rfl
theorem collResultDelivery (core : Nat) (data : List Word) (fail : Word) : Statement (.collResultDelivery core data fail) := of_none rfl
theorem collAbsentTimeout (set index : Nat) : Statement (.collAbsentTimeout set index) := of_none rfl
theorem presenceMessage (jobid pkg : Nat) : Statement (.presenceMessage jobid pkg) := of_none rfl
theorem faultRecordWrite (r : RingRec) : Statement (.faultRecordWrite r) := of_none rfl
theorem heldAccessRemake (who : Agent) : Statement (.heldAccessRemake who) := of_none rfl
theorem sideLogReplay (core segment : Nat) : Statement (.sideLogReplay core segment) := of_none rfl
theorem retryResponse (id : Nat) : Statement (.retryResponse id) := of_none rfl
theorem retryBackoffExpiry (id : Nat) : Statement (.retryBackoffExpiry id) := of_none rfl
theorem flitCrcReplay (link lane replays : Nat) : Statement (.flitCrcReplay link lane replays) := of_none rfl
theorem retrainComplete (link trained : Nat) : Statement (.retrainComplete link trained) := of_none rfl
theorem dramBlockRead (pa outcome symbol : Nat) (enc tagOk : Bool) : Statement (.dramBlockRead pa outcome symbol enc tagOk) := of_none rfl
theorem parityRetry (pa attempt : Nat) (groups : BitVec 8) : Statement (.parityRetry pa attempt groups) := of_none rfl
theorem channelNarrowComplete (channel pa : Nat) : Statement (.channelNarrowComplete channel pa) := of_none rfl
theorem scrubBlock (block : Nat) : Statement (.scrubBlock block) := of_none rfl
theorem throttleWindowEnd (power : Nat) : Statement (.throttleWindowEnd power) := of_none rfl
theorem junctionTemperatureChange (die celsius : Nat) : Statement (.junctionTemperatureChange die celsius) := of_none rfl
theorem monitorWindowEnd (core monitor stamp : Nat) : Statement (.monitorWindowEnd core monitor stamp) := of_none rfl
theorem merge (set : Nat) : Statement (.merge set) := of_none rfl
theorem almanacWaitTimeout (core ctx stamp : Nat) : Statement (.almanacWaitTimeout core ctx stamp) := of_none rfl
theorem gustpathWrite (die : Nat) (value : Word) : Statement (.gustpathWrite die value) := of_none rfl
theorem tblwrWrite (w : CtlWrite) : Statement (.tblwrWrite w) := of_none rfl
theorem m3Extend (w : CtlWrite) : Statement (.m3Extend w) := of_none rfl
theorem quoteNonceWrite (nonce : BitVec 256) : Statement (.quoteNonceWrite nonce) := of_none rfl
theorem quoteComplete (stamp : Nat) : Statement (.quoteComplete stamp) := of_none rfl
theorem controlRegisterWrite (w : CtlWrite) : Statement (.controlRegisterWrite w) := of_none rfl
theorem reset (cause : Nat) : Statement (.reset cause) := of_none rfl
theorem nop : Statement .nop := by
  intro c w e
  cases e
  exact ⟨fun _ => rfl, fun _ => rfl⟩
theorem retr : Statement .retr := of_opcode _ rfl rfl (by decide) nofun
theorem ckpt : Statement .ckpt := of_opcode _ rfl rfl (by decide) nofun
theorem retire : Statement .retire := of_opcode _ rfl rfl (by decide) nofun
theorem yield : Statement .yield := of_opcode _ rfl rfl (by decide) nofun
theorem eret : Statement .eret := of_opcode _ rfl rfl (by decide) nofun
theorem halt : Statement .halt := of_opcode _ rfl rfl (by decide) nofun
theorem phend : Statement .phend := of_opcode _ rfl rfl (by decide) nofun
theorem itstop : Statement .itstop := of_opcode _ rfl rfl (by decide) nofun
theorem drain : Statement .drain := of_opcode _ rfl rfl (by decide) nofun
theorem curatorDispatch : Statement (.curatorDispatch) := of_none rfl
theorem predictiveWindowEnd : Statement (.predictiveWindowEnd) := of_none rfl
theorem monitorPeriodicSample : Statement (.monitorPeriodicSample) := of_none rfl
theorem itinCommandNode : Statement (.itinCommandNode) := of_none rfl
theorem itinConditionNode : Statement (.itinConditionNode) := of_none rfl
theorem itinWhileNode : Statement (.itinWhileNode) := of_none rfl
theorem itinJoinNode : Statement (.itinJoinNode) := of_none rfl
theorem itinEndNode : Statement (.itinEndNode) := of_none rfl
theorem docentPlacement : Statement (.docentPlacement) := of_none rfl
theorem docentPreemptionDecision : Statement (.docentPreemptionDecision) := of_none rfl
theorem looseRecordBinding : Statement (.looseRecordBinding) := of_none rfl
theorem groupRestore : Statement (.groupRestore) := of_none rfl
theorem cmplWrite : Statement (.cmplWrite) := of_none rfl
theorem migrationCopy : Statement (.migrationCopy) := of_none rfl
theorem gangShareStart : Statement (.gangShareStart) := of_none rfl
theorem routerPowerDown : Statement (.routerPowerDown) := of_none rfl
theorem routerWakeSignal : Statement (.routerWakeSignal) := of_none rfl
theorem routerWakeComplete : Statement (.routerWakeComplete) := of_none rfl
theorem jobComplete : Statement (.jobComplete) := of_none rfl
theorem presenceTimeout : Statement (.presenceTimeout) := of_none rfl

end Encode

end Sys2Proof.Laws
end

