-- ==== Sys2Proof/Safety.lean ====
section
/-! DEFINITION. What a safe run is, and the words in which statements speak of a step: the context that acts, one byte of a memory, what
a step leaves as it was, and the result that a slot puts on its way. -/

namespace Sys2Proof.Machine

open Sys2Proof

/-- A run is safe while the machine has not stopped: no access has touched a physical address that no DRAM holds. -/
def State.safe (s : State) : Prop := s.stuck = none

/-- The memories that bytes live in: a package's DRAM by physical address, Hall-placed data by IA, the host's memory, and the
scratchpad of a core by window address (R66, R200, R212). -/
inductive Space where
  | dram
  | hall
  | host
  | pad (core : Nat)
  deriving DecidableEq, Repr

/-- One byte of a memory. -/
def State.byteIn (s : State) (m : Space) (a : Nat) : Byte :=
  match m with
  | .dram => tget s.dram 0 a
  | .hall => tget s.hall 0 a
  | .host => tget s.host 0 a
  | .pad n => tget (s.core n).sp 0 a

/-- Every memory in its canonical form. -/
def State.memoryWf (s : State) : Prop :=
  Memory.wf s.dram = true ∧ Memory.wf s.hall = true ∧ Memory.wf s.host = true ∧ ∀ n, Memory.wf (s.core n).sp = true

/-- Every memory in its canonical form, and that of every core that a pre-emption has saved. -/
def State.Canonical (s : State) : Prop :=
  s.memoryWf ∧ ∀ key g, s.group key = some g → ∀ i, Memory.wf (tget g.saved .reset i).sp = true

/-- Every byte of every memory is as it was. -/
def SameMemory (s t : State) : Prop := ∀ m a, t.byteIn m a = s.byteIn m a

/-- The context whose slot acts. -/
def State.me (s : State) : Ctx := s.ctx s.issue.core s.issue.ctx

/-- What a step of the acting context leaves as it was: the module outside the cores and the agenda; in every core all but the
contexts; every other context; and every byte of memory. -/
structure OnlyActing (s t : State) : Prop where
  module : { t with cores := s.cores, agenda := s.agenda } = s
  cores : ∀ n, { t.core n with ctxs := (s.core n).ctxs } = s.core n
  contexts : ∀ n c, n ≠ s.issue.core ∨ c ≠ s.issue.ctx → t.ctx n c = s.ctx n c
  memory : SameMemory s t

/-- R46, R53, R87: a result put on its way by the slot that acts, with `lat` cycles of latency and three more when an operand came
through a port. The queue moves by one, its new entry, of the value's kind, is not produced yet, and the named destination has a write
outstanding; the value comes to them in the cycle given. Of the acting context nothing else changes: no named register, f
entry, predicate, mask, special register, program counter, trap or checkpoint state. -/
structure Yields (s t : State) (lat : Nat) (port : Bool) (v : Val) (dst : Option Nat) (pw : PredW) : Prop where
  rest : OnlyActing s t
  kept : { t.me with q := s.me.q, nextId := s.me.nextId, pend := s.me.pend } = s.me
  queue : t.me.q = (⟨s.me.nextId, ⟨v.vec, 0, 0⟩, false⟩ :: s.me.q).take 16
  named : ∀ n, dst = some n → t.me.settled (.reg v.vec n) = false
  comes : t.agenda = s.agenda ++ [⟨s.cycle + lat + (if port then 3 else 0), rkResult, s.issue.core,
    .resultProduced ⟨s.issue.core, s.issue.ctx, s.me.epoch, s.me.nextId, v, dst, pw⟩⟩]

/-- R55, R56, R128: what an A-class slot yields. Enabled, it yields a value with its poison, that of the governing mask joined; disabled,
its named destination's old value, or +0 where it names none, and it writes no predicate. -/
def AYields (s t : State) (f : AvtF) (lat : Nat) (port : Bool) (v : Word) (poison : Bool) (pw : PredW) : Prop :=
  if s.enabled f then Yields s t lat port (.scalar v (poison || (s.govern f).poison)) (s.dst f.dst) (predPoison (s.govern f).poison pw)
  else match s.dst f.dst with
    | some n => Yields s t lat port (.scalar (s.start.reg false n).word ((s.start.reg false n).sp || (s.govern f).poison)) (some n) .none
    | none => Yields s t lat port (.scalar 0 (s.govern f).poison) none .none

/-- The integer that an operand field gives in a slot's type (R97, R128). -/
def State.intOpnd (s : State) (f : AvtF) (b : BitVec 7) : Int := tyInt f.type (codeOf f.type (s.readS b f.type).1)

/-- Whether a scalar operand is poisoned. -/
def State.poisonOpnd (s : State) (f : AvtF) (b : BitVec 7) : Bool := (s.readS b f.type).2

/-- R55, R56, R93, R139: what a vector result holds: lane i is `lane i` where it is `on`, and else the lane of the named destination, or
+0. The poison of a 64-bit word is that of its lanes, or of the governing mask, which poisons every word. -/
def VYieldsOn (s t : State) (f : AvtF) (lat : Nat) (port : Bool) (on : Nat → Bool) (lane : Nat → Nat × Bool) : Prop :=
  let w := tyWidth f.type
  let old : Val := match s.dst f.dst with | some n => s.start.reg true n | none => .vzero
  ∃ v : Val, Yields s t lat port v (s.dst f.dst) .none ∧ v.vec = true
    ∧ (∀ i, i < 2048 / w → laneOf w v.bits i = if on i then (lane i).1 % 2 ^ w else laneOf w old.bits i)
    ∧ (∀ k, k < 32 → (v.poison.getLsbD k = true ↔ ((s.govern f).poison = true ∨ ∃ i, i < 2048 / w ∧ i * w / 64 = k ∧
        (if on i then (lane i).2 else old.poison.getLsbD k) = true)))

/-- What a V-class slot yields: the lanes that the governing mask enables are new. -/
def VYields (s t : State) (f : AvtF) (lat : Nat) (port : Bool) (lane : Nat → Nat × Bool) : Prop :=
  VYieldsOn s t f lat port (s.laneOn f (tyWidth f.type)) lane

/-- Lane i of a vector operand field in a slot's type, and the poison of the word that holds it. -/
def State.laneOpnd (s : State) (f : AvtF) (b : BitVec 7) (i : Nat) : Nat × Bool :=
  let v := s.readV b f.type
  (laneOf (tyWidth f.type) v.1 i, v.2.getLsbD (i * tyWidth f.type / 64))

/-- A step that hands exactly one packet to the network: its path and the event that it is on arrival. -/
def Sends (s t : State) (path : Path) (ev : Instr) : Prop :=
  ∃ p, t.gust.placing = s.gust.placing ++ [p] ∧ p.pkt.path = path ∧ p.pkt.ev = ev

/-- Every context but one is as it was. -/
def Others (s t : State) (core ctx : Nat) : Prop := ∀ n c, n ≠ core ∨ c ≠ ctx → t.ctx n c = s.ctx n c

/-- A slot's next entry reserved: the queue moves by one, and nothing else that code can name in the context changes. -/
def Reserves (s t : State) (vec : Bool) : Prop :=
  t.me.q = (⟨s.me.nextId, ⟨vec, 0, 0⟩, false⟩ :: s.me.q).take 16 ∧ t.me.reg = s.me.reg ∧ t.me.f = s.me.f ∧ t.me.c = s.me.c
    ∧ t.me.m = s.me.m ∧ t.me.sr = s.me.sr ∧ t.me.pc = s.me.pc ∧ t.me.link = s.me.link

/-- Where byte 0 of a line's place lies. -/
def Place.start (p : Place) : Space × Nat :=
  match p with
  | .hall ia => (.hall, ia)
  | .dram pa _ => (.dram, pa / 64 * 64)
  | .host a => (.host, a)

/-- A place at home that a write reaches as it is: Hall-placed, or in DRAM that is there, works, and needs no read first. -/
def State.lands (s : State) (p : Place) : Prop :=
  match p with
  | .hall _ => True
  | .dram pa enc => pa < Config.packageDram ∧ inExtension pa = false ∧ s.channelWidth (channelOf pa) ≠ 0 ∧ s.plainBlock pa enc = true
  | .host _ => False

/-- The memory after some bytes of a line's place took new values. -/
def Wrote (s t : State) (p : Place) (on : Nat → Bool) (d : Nat → Byte) : Prop :=
  ∀ m x, t.byteIn m x = if m = p.start.1 ∧ p.start.2 ≤ x ∧ x < p.start.2 + 64 ∧ on (x - p.start.2) = true
    then d (x - p.start.2) else s.byteIn m x

end Sys2Proof.Machine
end

