-- ==== Sys2Proof/Certificates/Slice0/Obligations.lean ====
section
/-! DEFINITION. The statements about the machine, each the definition of a proposition: what the rules of the spec say that each
instruction and each event does, its frame, and where it completes; decoding and encoding; and what reset leaves. -/

open Sys2Proof Sys2Proof.Machine

/-! ## The A class -/

/-- What an integer instruction of the A class yields: the code `c` of its type, of which `good` holds. -/
def IntYields (f : AvtF) (s : State) (i : Instr) (lat : Nat) (ops : List (BitVec 7)) (good : Nat → Prop) : Prop :=
  ∃ t c, exec i s = .next t ∧ c < 2 ^ tyWidth f.type ∧ good c
    ∧ AYields s t f lat (anyPort ops) (extendCode f.type c) (ops.any (s.poisonOpnd f)) .none

/-- R97, R128, R130: ADD, SUB and MUL wrap their exact result to the type's width, or clamp it to the type's range with SAT. They
complete from every state; the frame is that of `Yields`. -/
def AddSubMulResultRule : Prop :=
  ∀ (f : AvtF) (s : State), tyI f.type = true →
    let good (x : Int) (c : Nat) : Prop :=
      if f.sat = 1 then tyInt f.type c = max (tyMin f.type) (min (tyMax f.type) x)
      else (c : Int) = x % (2 ^ tyWidth f.type : Nat)
    IntYields f s (.add f) 1 [f.a, f.b] (good (s.intOpnd f f.a + s.intOpnd f f.b))
      ∧ IntYields f s (.sub f) 1 [f.a, f.b] (good (s.intOpnd f f.a - s.intOpnd f f.b))
      ∧ IntYields f s (.mul f) 3 [f.a, f.b] (good (s.intOpnd f f.a * s.intOpnd f f.b))

/-- R130: MULH and MULHU yield the high half of the double-width product; MIN, MAX, MINU and MAXU the lesser or greater operand. -/
def MulHighMinMaxResultRule : Prop :=
  ∀ (f : AvtF) (s : State), tyI f.type = true → f.sat = 0 →
    let a := s.intOpnd f f.a
    let b := s.intOpnd f f.b
    let w := tyWidth f.type
    let high (c : Nat) : Prop := (c : Int) = a * b % (2 ^ (2 * w) : Nat) / (2 ^ w : Nat)
    IntYields f s (.mulh f) 3 [f.a, f.b] high
      ∧ IntYields f s (.mulhu f) 3 [f.a, f.b] high
      ∧ IntYields f s (.min f) 1 [f.a, f.b] (fun c => tyInt f.type c = min a b)
      ∧ IntYields f s (.minu f) 1 [f.a, f.b] (fun c => tyInt f.type c = min a b)
      ∧ IntYields f s (.max f) 1 [f.a, f.b] (fun c => tyInt f.type c = max a b)
      ∧ IntYields f s (.maxu f) 1 [f.a, f.b] (fun c => tyInt f.type c = max a b)

/-- R97, R128, R130: ADD, SUB and MUL wrap their exact result to the type's width, or clamp it to the type's range with SAT. They
complete from every state; the frame is that of `Yields`.
R130: MULH and MULHU yield the high half of the double-width product; MIN, MAX, MINU and MAXU the lesser or greater operand. -/
def Obligations.IntegerArithmetic : Prop := AddSubMulResultRule ∧ MulHighMinMaxResultRule

/-- R130: the logic and shift instructions, bit by bit: bit j of the result from the bits of A and B; a shift's amount is B modulo the
width. -/
def LogicShiftBitsRule : Prop :=
  ∀ (f : AvtF) (s : State),
    let w := tyWidth f.type
    let a := codeOf f.type (s.readS f.a f.type).1
    let b := codeOf f.type (s.readS f.b f.type).1
    let n := b % w
    let bits (g : Nat → Bool) (c : Nat) : Prop := ∀ j, j < w → c.testBit j = g j
    IntYields f s (.and f) 1 [f.a, f.b] (bits (fun j => a.testBit j && b.testBit j))
      ∧ IntYields f s (.or f) 1 [f.a, f.b] (bits (fun j => a.testBit j || b.testBit j))
      ∧ IntYields f s (.xor f) 1 [f.a, f.b] (bits (fun j => a.testBit j ^^ b.testBit j))
      ∧ IntYields f s (.andn f) 1 [f.a, f.b] (bits (fun j => a.testBit j && !b.testBit j))
      ∧ IntYields f s (.shl f) 1 [f.a, f.b] (bits (fun j => decide (n ≤ j) && a.testBit (j - n)))
      ∧ IntYields f s (.shr f) 1 [f.a, f.b] (bits (fun j => decide (j + n < w) && a.testBit (j + n)))
      ∧ IntYields f s (.sar f) 1 [f.a, f.b] (bits (fun j => a.testBit (min (j + n) (w - 1))))
      ∧ IntYields f s (.rotl f) 1 [f.a, f.b] (bits (fun j => a.testBit ((j + w - n) % w)))

/-- R130: CLZ, CTZ and POPC: the zeros above A's highest one bit, those below its lowest, and the number of its one bits; the width
where A is 0. -/
def BitCountsRule : Prop :=
  ∀ (f : AvtF) (s : State), tyI f.type = true →
    let w := tyWidth f.type
    let a := codeOf f.type (s.readS f.a f.type).1
    IntYields f s (.clz f) 1 [f.a] (fun c => c ≤ w ∧ (∀ j, j < w → w - c ≤ j → a.testBit j = false) ∧ (c < w → a.testBit (w - 1 - c) = true))
      ∧ IntYields f s (.ctz f) 1 [f.a] (fun c => c ≤ w ∧ (∀ j, j < c → a.testBit j = false) ∧ (c < w → a.testBit c = true))
      ∧ IntYields f s (.popc f) 1 [f.a] (fun c => c = ((List.range w).filter (fun j => a.testBit j)).length)

/-- R130: the logic and shift instructions, bit by bit: bit j of the result from the bits of A and B; a shift's amount is B modulo the
width.
R130: CLZ, CTZ and POPC: the zeros above A's highest one bit, those below its lowest, and the number of its one bits; the width
where A is 0. -/
def Obligations.LogicShiftsAndCounts : Prop := LogicShiftBitsRule ∧ BitCountsRule

/-- What a division leaves: a result after its latency, counted from when the divider is free, and the divider taken until then. -/
def DivYields (f : AvtF) (s : State) (i : Instr) (good : Nat → Prop) : Prop :=
  let a := s.intOpnd f f.a
  let b := s.intOpnd f f.b
  let n := if b = 0 then 0 else bitLen a.natAbs + 1 - bitLen b.natAbs
  let lat := (s.core s.issue.core).divFree - s.cycle + (18 + (n + 3) / 4)
  let port := anyPort [f.a, f.b]
  ∃ t c, exec i s = .next (t.updCore s.issue.core (fun k => { k with divFree := s.cycle + lat + if port then 3 else 0 }))
    ∧ c < 2 ^ tyWidth f.type ∧ good c
    ∧ AYields s t f lat port (extendCode f.type c) (s.poisonOpnd f f.a || s.poisonOpnd f f.b) .none

/-- R131: DIV and REM on signed types: quotients round toward zero and remainders take the sign of the dividend; a zero divisor and the
one overflow have the values of the table; and the latency is 18 cycles and a quarter of the quotient's possible bits. -/
def SignedDivisionRule : Prop :=
  ∀ (f : AvtF) (s : State), tyIs f.type = true →
    let a := s.intOpnd f f.a
    let b := s.intOpnd f f.b
    DivYields f s (.div f) (fun c => tyInt f.type c =
        if b = 0 then (if 0 ≤ a then tyMax f.type else -1)
        else if a = tyMin f.type ∧ b = -1 then (if f.sat = 1 then tyMax f.type else tyMin f.type)
        else Int.tdiv a b)
      ∧ DivYields f s (.rem f) (fun c => tyInt f.type c = if b = 0 then a else if a = tyMin f.type ∧ b = -1 then 0 else Int.tmod a b)

/-- R131: DIVU and REMU on unsigned types, with all ones, and the dividend, for a zero divisor. -/
def UnsignedDivisionRule : Prop :=
  ∀ (f : AvtF) (s : State), tyIu f.type = true →
    let a := codeOf f.type (s.readS f.a f.type).1
    let b := codeOf f.type (s.readS f.b f.type).1
    DivYields f s (.divu f) (fun c => c = if b = 0 then 2 ^ tyWidth f.type - 1 else a / b)
      ∧ DivYields f s (.remu f) (fun c => c = if b = 0 then a else a % b)

/-- R131: DIV and REM on signed types: quotients round toward zero and remainders take the sign of the dividend; a zero divisor and the
one overflow have the values of the table; and the latency is 18 cycles and a quarter of the quotient's possible bits.
R131: DIVU and REMU on unsigned types, with all ones, and the dividend, for a zero divisor. -/
def Obligations.IntegerDivision : Prop := SignedDivisionRule ∧ UnsignedDivisionRule

/-- R132: CMP yields the truth of its condition, in the signedness of its type, and writes it to the predicate that its C field
names; SEL takes A where its predicate is 1 and B otherwise, with the poison of the one it takes. -/
def CompareSelectRule : Prop :=
  (∀ (f : AvtF) (s : State), f.x < 6 →
    let a := s.intOpnd f f.a
    let b := s.intOpnd f f.b
    let po := s.poisonOpnd f f.a || s.poisonOpnd f f.b
    ∃ t r, exec (.cmp f) s = .next t
      ∧ (f.x = 0 → (r = true ↔ a = b)) ∧ (f.x = 1 → (r = true ↔ a ≠ b)) ∧ (f.x = 2 → (r = true ↔ a < b))
      ∧ (f.x = 3 → (r = true ↔ a ≤ b)) ∧ (f.x = 4 → (r = true ↔ a > b)) ∧ (f.x = 5 → (r = true ↔ a ≥ b))
      ∧ AYields s t f 1 (anyPort [f.a, f.b]) (if r = true then 1 else 0) po (if f.c = 0 then .none else .c (f.c.toNat - 8) r po))
  ∧ (∀ (f : AvtF) (s : State),
    let p := s.readC f.c
    let taken := s.readS (if p.v = true then f.a else f.b) .i64
    ∃ t, exec (.sel f) s = .next t ∧ AYields s t f 1 (anyPort [f.a, f.b]) taken.1 (taken.2 || p.poison) .none)

/-- R132: LI yields its immediate or constant in its type, MOV the 64 bits and poison of A, ADDA the sum of A and B shifted; EXT a field
of A, zero past bit 63, extended from its top bit for a signed type; and INS C with A's low bits put in a field, those past bit 63
dropped. -/
def Obligations.MovesAndFields : Prop :=
  ∀ (f : AvtF) (s : State),
    let a := s.readS f.a .i64
    let b := s.readS f.b .i64
    (∃ t, exec (.li f) s = .next t
      ∧ AYields s t f 1 false (extendCode f.type ((s.readS f.a f.type).1.toNat % 2 ^ tyWidth f.type)) false .none)
    ∧ (∃ t, exec (.mov f) s = .next t ∧ AYields s t f 1 (anyPort [f.a]) a.1 a.2 .none)
    ∧ (∃ t, exec (.adda f) s = .next t
      ∧ AYields s t f 1 (anyPort [f.a, f.b]) (BitVec.ofNat 64 (a.1.toNat + b.1.toNat * 2 ^ (f.x % 8))) (a.2 || b.2) .none)
    ∧ (∀ u : Ty, (u = .i64 ∨ u = .u64) → f.type = u →
      let a := s.readS f.a u
      let b := s.readS f.b u
      let c := s.readS f.c u
      let len := if f.x % 64 = 0 then 64 else f.x % 64
      let pos := b.1.toNat % 64
      (∃ t v, exec (.ext f) s = .next t
      ∧ (∀ j, j < 64 → v.getLsbD j = if j < len then a.1.getLsbD (pos + j) else decide (u = .i64) && a.1.getLsbD (pos + len - 1))
      ∧ AYields s t f 1 (anyPort [f.a, f.b]) v (a.2 || b.2) .none)
      ∧ (∃ t v, exec (.ins f) s = .next t
      ∧ (∀ j, j < 64 → v.getLsbD j = if pos ≤ j ∧ j < pos + len then a.1.getLsbD (j - pos) else c.1.getLsbD j)
      ∧ AYields s t f 1 (anyPort [f.a, f.b, f.c]) v (a.2 || b.2 || c.2) .none))

/-- R118, R133: the predicate instructions: each yields its new bit as a scalar and writes it, with the poison of what it read, to the
predicate of its C field. UNIF tests the even bits of a mask for lanes of 64 bits and all of them otherwise, or a scalar.
Choices of the model that it rests on: log entry 31. -/
def PredicateInstructionsRule : Prop :=
  ∀ (f : AvtF) (s : State), f.c ≠ 0 →
    let a := s.readC f.a
    let b := s.readC f.b
    let yields (i : Instr) (port r po : Bool) : Prop :=
      ∃ t, exec i s = .next t ∧ AYields s t f 1 port (if r = true then 1 else 0) po (.c (f.c.toNat - 8) r po)
    yields (.pand f) false (a.v && b.v) (a.poison || b.poison)
      ∧ yields (.por f) false (a.v || b.v) (a.poison || b.poison)
      ∧ yields (.pxor f) false (a.v != b.v) (a.poison || b.poison)
      ∧ yields (.pnot f) false (!a.v) a.poison
      ∧ (f.x < 4 → ∃ r,
          let m := s.readM f.a
          let tested (i : Nat) : Prop := i < 64 ∧ (tyWidth f.type = 64 → i % 2 = 0)
          (f.x = 0 → (r = true ↔ ∃ i, tested i ∧ m.v.getLsbD i = true))
            ∧ (f.x = 1 → (r = true ↔ ∀ i, tested i → m.v.getLsbD i = true))
            ∧ (f.x = 2 → (r = true ↔ ∀ i, tested i → m.v.getLsbD i = false))
            ∧ (f.x = 3 → (r = true ↔ codeOf f.type (s.readS f.a f.type).1 ≠ 0))
            ∧ (if f.x = 3 then yields (.unif f) (anyPort [f.a]) r (s.poisonOpnd f f.a) else yields (.unif f) false r m.poison))

/-- R132: CMP yields the truth of its condition, in the signedness of its type, and writes it to the predicate that its C field
names; SEL takes A where its predicate is 1 and B otherwise, with the poison of the one it takes.
R118, R133: the predicate instructions: each yields its new bit as a scalar and writes it, with the poison of what it read, to the
predicate of its C field. UNIF tests the even bits of a mask for lanes of 64 bits and all of them otherwise, or a scalar.
Choices of the model that it rests on: log entry 31. -/
def Obligations.ComparesAndPredicates : Prop := CompareSelectRule ∧ PredicateInstructionsRule

/-! ## Operands, results, special registers and the prefetch queue -/

/-- R80 to R84, R121: what each operand specifier reads as a scalar: a queue entry by age, a named register (stepped in a repetition), an f
entry, an integer constant, a short immediate, or the long immediate, sign-extended for integers and in the high bits for FP64. -/
def OperandFormsRule : Prop :=
  ∀ (s : State) (b : BitVec 7) (t : Ty),
    let n := b.toNat
    (n < 16 → s.readS b t = (((s.start.q.getD n .fresh).val).word, ((s.start.q.getD n .fresh).val).sp))
    ∧ (16 ≤ n → n < 48 → let r := s.start.reg false ((n - 16 + (s.issue.rep - 1) * s.issue.rstr) % 32); s.readS b t = (r.word, r.sp))
    ∧ (48 ≤ n → n < 56 → let e := tget s.start.f .unbound (n - 48); s.readS b t = (e.val.word, e.val.sp))
    ∧ (tyI t = true → 56 ≤ n → n < 60 → (s.readS b t).1.toInt = [0, 1, 2, -1].getD (n - 56) 0 ∧ (s.readS b t).2 = false)
    ∧ (n = 64 → ∀ l, s.issue.limm = some l →
        (tyI t = true → (s.readS b t).1.toInt = l.toInt) ∧ (t = .f64 → (s.readS b t).1.toNat = l.toNat * 256) ∧ (s.readS b t).2 = false)
    ∧ (64 < n → (s.readS b t).1.toInt = (if n < 96 then (n : Int) - 64 else (n : Int) - 128) ∧ (s.readS b t).2 = false)

/-- R46, R53, R118, R259: when a result is produced, the entry of its reservation takes its value and the produced bit, at whatever age it then
has; while its write is outstanding the named destination takes the value, and the predicate or mask its bit with its poison; no
other register, predicate, mask, context or byte of memory changes. A result of a task that has ended otherwise than by yielding changes nothing.
The reply of an ATOM that its context waits for to acquire also empties the view of what is not pinned, and the counter that a reply carries raises the
counter of the core's die (R259, R262). -/
def ResultProducedRule : Prop :=
  ∀ (p : ResultP) (s : State),
    ((s.ctx p.core p.ctx).epoch = p.epoch → ∃ t, exec (.resultProduced p) s = .next t ∧
      let x := s.ctx p.core p.ctx
      let y := t.ctx p.core p.ctx
      let live := x.pend.any (fun e => e.id == p.id)
      (∀ (k : Nat) (e : QEntry), x.q[k]? = some e →
          y.q[k]? = some (if e.id = p.id ∧ e.produced = false then { e with val := p.val, produced := true } else e))
        ∧ (∀ vec n, y.reg vec n = if live = true ∧ p.dst = some n ∧ vec = p.val.vec then p.val else x.reg vec n)
        ∧ (∀ n, tget y.c .zero n = match (if live = true then p.pred else .none) with
            | .c k v po => if n = k then ⟨v, po⟩ else tget x.c .zero n
            | _ => tget x.c .zero n)
        ∧ (∀ n, tget y.m .zero n = match (if live = true then p.pred else .none) with
            | .m k v po => if n = k then ⟨v, po⟩ else tget x.m .zero n
            | _ => tget x.m .zero n)
        ∧ (∀ e, e ∈ y.pend ↔ e ∈ x.pend ∧ e.id ≠ p.id)
        ∧ y.pc = x.pc ∧ y.sr = x.sr ∧ y.link = x.link ∧ y.log = x.log
        ∧ Others s t p.core p.ctx ∧ { t with cores := s.cores, seq := s.seq } = s ∧ SameMemory s t
        ∧ (if x.wait = .acquire p.id ∧ x.det = false then ∀ k l, (t.core p.core).viewAt k = some l → l.pin ≠ []
            else (t.core p.core).view = (s.core p.core).view)
        ∧ ((∀ e, e ∈ x.carried → e.1 ≠ p.id) → t.seq = s.seq)
        ∧ (∀ d v, x.carried = [(p.id, d, v)] → d ≠ coreDie p.core →
            tget t.seq 0 (coreDie p.core) = max (tget s.seq 0 (coreDie p.core)) (v + 1)))
    ∧ ((s.ctx p.core p.ctx).epoch ≠ p.epoch → (∀ y, y ∈ (s.core p.core).yielded → y.2.epoch ≠ p.epoch) →
        exec (.resultProduced p) s = .next s)

/-- R61, R134: MFS yields, from every state, one cycle after issue, the value of the register that EXT names: each register of the list by its number, CYCLE
as it is in the cycle of issue, REPCNT and REPSTEP with the repetition in progress where there is one, and the range registers from 0x40. -/
def MfsReadsRule : Prop :=
  ∀ (f : AvtF) (s : State),
    let r := s.start.sr
    let p := s.me.rep
    let repeats := p.on = true ∧ 0 < p.left
    ∃ t v, exec (.mfs f) s = .next t ∧ AYields s t f 1 false v false .none
      ∧ (∀ w, (f.x, w) ∈ [(0x00, BitVec.ofNat 64 s.issue.ctx), (0x01, BitVec.ofNat 64 (s.pkgId * 512 + s.issue.core)), (0x02, r.taskId),
          (0x03, r.groupId), (0x04, r.jobId), (0x05, r.prio), (0x06, r.asid), (0x07, BitVec.ofNat 64 s.cycle), (0x08, r.fmode),
          (0x09, r.detmode), (0x0A, r.ckptMark), (0x0B, r.logTail), (0x0C, if repeats then BitVec.ofNat 64 p.left else r.repCnt),
          (0x0D, if repeats then BitVec.ofNat 64 p.j else r.repStep),
          (0x0E, (s.core s.issue.core).semSat.extractLsb' (64 * (r.semSel.toNat % 4)) 64), (0x0F, r.semSel), (0x10, r.trapCode),
          (0x11, r.trapPc), (0x12, r.trapTgt), (0x13, r.dlyPend), (0x14, r.trapAddr), (0x15, r.trapVec), (0x16, r.priv), (0x17, r.routIdx),
          (0x18, r.frame), (0x19, r.joinAddr), (0x1A, r.imgBase), (0x1B, r.imgRt)] → v = w)
      ∧ (0x40 ≤ f.x → f.x ≤ 0x5F → v = tget r.rng 0 (f.x - 0x40))

/-- R61, R62, R134: MTS. Below supervisor level a supervisor register traps PRIV and a disabled MTS does nothing; a value with a reserved
bit set, or out of its range, traps ILLFMT RESV in its slot; a poisoned value kills the task. Otherwise the register named reads as the value, every other register and all
else stay (SEMSEL alone changes which bits SEMSAT shows); and a write of SEMSAT clears the bits written as 1, of the 64 that SEMSEL selects.
Choices of the model that it rests on: log entries 28 and 44. -/
def MtsWritesRule : Prop :=
  ∀ (f : AvtF) (s : State),
    let v := s.readS f.a .i64
    let n := f.x
    let trap := sysSupervisor n = true ∧ s.start.sr.priv = 0
    (trap → exec (.mts f) s = .next (s.slotTrap ⟨6, 0, 0⟩))
    ∧ (¬trap → s.enabled f = false → exec (.mts f) s = .next s)
    ∧ (¬trap → s.enabled f = true → sysLegal n v.1 = false → exec (.mts f) s = .next (s.slotTrap ⟨2, 3, BitVec.ofNat 64 s.issue.slot⟩))
    ∧ (¬trap → s.enabled f = true → sysLegal n v.1 = true → (v.2 = true ∨ (s.govern f).poison = true) →
        exec (.mts f) s = .next (s.slotKill 5))
    ∧ (¬trap → s.enabled f = true → sysLegal n v.1 = true → v.2 = false → (s.govern f).poison = false →
        (sysAssigned n = true → sysReadOnly n = false → n ≠ 0x0E → ∃ t, exec (.mts f) s = .next t
          ∧ t.sysRead s.issue.core s.issue.ctx t.me n = v.1
          ∧ (∀ m, sysAssigned m = true → m ≠ n → (m ≠ 0x0E ∨ n ≠ 0x0F) →
              t.sysRead s.issue.core s.issue.ctx t.me m = s.sysRead s.issue.core s.issue.ctx s.me m)
          ∧ OnlyActing s t ∧ t.agenda = s.agenda ∧ { t.me with sr := s.me.sr } = s.me)
        ∧ (n = 0x0E → ∃ t, exec (.mts f) s = .next t
          ∧ (∀ j, j < 256 → (t.core s.issue.core).semSat.getLsbD j = ((s.core s.issue.core).semSat.getLsbD j
              && !(decide (j / 64 = s.start.sr.semSel.toNat % 4) && v.1.getLsbD (j % 64))))
          ∧ { t.core s.issue.core with semSat := (s.core s.issue.core).semSat } = s.core s.issue.core
          ∧ (∀ m, m ≠ s.issue.core → t.core m = s.core m) ∧ { t with cores := s.cores } = s))

/-- R61, R134: MFS yields, from every state, one cycle after issue, the value of the register that EXT names: each register of the list by its number, CYCLE
as it is in the cycle of issue, REPCNT and REPSTEP with the repetition in progress where there is one, and the range registers from 0x40.
R61, R62, R134: MTS. Below supervisor level a supervisor register traps PRIV and a disabled MTS does nothing; a value with a reserved
bit set, or out of its range, traps ILLFMT RESV in its slot; a poisoned value kills the task. Otherwise the register named reads as the value, every other register and all
else stay (SEMSEL alone changes which bits SEMSAT shows); and a write of SEMSAT clears the bits written as 1, of the 64 that SEMSEL selects.
Choices of the model that it rests on: log entries 28 and 44. -/
def Obligations.SystemRegisters : Prop := MfsReadsRule ∧ MtsWritesRule

/-- R54, R135: PFQ binds the f entries from its number on, modulo 8, each to the register that a field names, empty until its value arrives
three cycles later; and PFQ_ENTRY_ARRIVAL gives an entry that still has the same binding its register's value of that cycle. -/
def PrefetchQueueRule : Prop :=
  (∀ (f : AvtF) (s : State), ∃ t, exec (.pfq f) s = .next t ∧ OnlyActing s t
    ∧ { t.me with f := s.me.f, nextId := s.me.nextId } = s.me
    ∧ (∀ k p, (pfqBinds f)[k]? = some p →
        let e := tget t.me.f .unbound ((f.x % 8 + k) % 8)
        e.bound = true ∧ e.vec = p.1 ∧ e.reg = (p.2 + (s.issue.rep - 1) * s.issue.rstr) % 32 ∧ e.arrived = false
          ∧ ∃ d, d ∈ t.agenda ∧ d.cycle = s.cycle + 3 ∧ d.ev = .pfqEntryArrival s.issue.core s.issue.ctx ((f.x % 8 + k) % 8) e.stamp)
    ∧ (∀ j, (∀ k, k < (pfqBinds f).length → (f.x % 8 + k) % 8 ≠ j) → tget t.me.f .unbound j = tget s.me.f .unbound j))
  ∧ (∀ (core ctx entry stamp : Nat) (s : State), ∃ t, exec (.pfqEntryArrival core ctx entry stamp) s = .next t
    ∧ (let x := s.ctx core ctx
      let e := tget x.f .unbound entry
      t.ctx core ctx = if e.bound = true ∧ e.stamp = stamp
        then { x with f := tset x.f .unbound entry { e with arrived := true, val := x.reg e.vec e.reg } } else x)
    ∧ (∀ n c, n ≠ core ∨ c ≠ ctx → t.ctx n c = s.ctx n c) ∧ { t with cores := s.cores } = s ∧ SameMemory s t)

/-- R80 to R84, R121: what each operand specifier reads as a scalar: a queue entry by age, a named register (stepped in a repetition), an f
entry, an integer constant, a short immediate, or the long immediate, sign-extended for integers and in the high bits for FP64.
R46, R53, R118, R259: when a result is produced, the entry of its reservation takes its value and the produced bit, at whatever age it then
has; while its write is outstanding the named destination takes the value, and the predicate or mask its bit with its poison; no
other register, predicate, mask, context or byte of memory changes. A result of a task that has ended otherwise than by yielding changes nothing.
The reply of an ATOM that its context waits for to acquire also empties the view of what is not pinned, and the counter that a reply carries raises the
counter of the core's die (R259, R262).
R54, R135: PFQ binds the f entries from its number on, modulo 8, each to the register that a field names, empty until its value arrives
three cycles later; and PFQ_ENTRY_ARRIVAL gives an entry that still has the same binding its register's value of that cycle. -/
def Obligations.OperandsAndResults : Prop := OperandFormsRule ∧ ResultProducedRule ∧ PrefetchQueueRule

/-! ## Scalar floating point -/

/-- R94 to R96, R101 to R103: a value that a floating type represents is delivered as its own code, in every rounding mode: delivering
the value of a code that is no NaN gives the code back, without output flush.
Choices of the model that it rests on: log entry 31. -/
def ExactValuesKeepTheirCodeRule : Prop :=
  ∀ (t : Ty) (md : FMod) (x : Nat), tyIsFloat t = true → md.ftzo = false → x < 2 ^ tyWidth t → fpDecode t x ≠ .nan →
    fpRound t md (fpDecode t x) = x

/-- R136, R105 to R107: SFADD, SFMUL and SFFMA deliver the exact sum, product, or product with an addend, rounded once; a NaN operand
gives the canonical NaN; SFCMP compares, a NaN being unordered, and writes its predicate. Latencies 4, 4, 6 and 2. -/
def ScalarFloatRule : Prop :=
  ∀ (f : AvtF) (s : State),
    let ty := f.type
    let md := s.fmod f
    let A := fpRead ty md.ftzi (codeOf ty (s.readS f.a ty).1)
    let B := fpRead ty md.ftzi (codeOf ty (s.readS f.b ty).1)
    let C := fpRead ty md.ftzi (codeOf ty (s.readS f.c ty).1)
    let pab := s.poisonOpnd f f.a || s.poisonOpnd f f.b
    let sign (n : Nat) (v : Fp) : Fp := if f.x5 / n % 2 = 1 then v.neg else v
    (∃ t r, exec (.sfadd f) s = .next t ∧ r = fpRound ty md (fpSum md.rm [A, sign 1 B]) ∧ (A = .nan ∨ B = .nan → r = fpCanonNan ty)
      ∧ AYields s t f 4 (anyPort [f.a, f.b]) (extendCode ty r) pab .none)
    ∧ (∃ t r, exec (.sfmul f) s = .next t ∧ r = fpRound ty md (A.mul B) ∧ (A = .nan ∨ B = .nan → r = fpCanonNan ty)
      ∧ AYields s t f 4 (anyPort [f.a, f.b]) (extendCode ty r) pab .none)
    ∧ (∃ t r, exec (.sffma f) s = .next t ∧ r = fpRound ty md (fpSum md.rm [sign 2 (A.mul B), sign 1 C])
      ∧ (A = .nan ∨ B = .nan ∨ C = .nan → r = fpCanonNan ty)
      ∧ AYields s t f 6 (anyPort [f.a, f.b, f.c]) (extendCode ty r) (pab || s.poisonOpnd f f.c) .none)
    ∧ (∃ t r, exec (.sfcmp f) s = .next t ∧ r = fpCompare f.x5 A B
      ∧ (f.x5 < 8 → A = .nan ∨ B = .nan → (r = true ↔ f.x5 = 1 ∨ f.x5 = 6))
      ∧ AYields s t f 2 (anyPort [f.a, f.b]) (if r = true then 1 else 0) pab (if f.c = 0 then .none else .c (f.c.toNat - 8) r pab))

/-- R104, R136: SFCVT: an integer delivered in an integer type wraps, or clamps with SAT; an integer or a floating value delivered in a
floating type is rounded once; a finite floating value delivered in an integer type is its nearest integer by the rounding mode where the
type holds that. Latency 4. -/
def ScalarConversionRule : Prop :=
  ∀ (f : AvtF) (s : State),
    let ty := f.type
    let src : Ty := .ofBits (f.ext.truncate 4)
    let md := if cvtFloating f then s.fmod f else s.fmodPlain f
    let a := codeOf src (s.readS f.a src).1
    src ≠ .i4x → ∃ t c, exec (.sfcvt f) s = .next t
      ∧ (tyI src = true → tyI ty = true → if f.sat = 1 then tyInt ty c = max (tyMin ty) (min (tyMax ty) (tyInt src a))
          else (c : Int) = tyInt src a % (2 ^ tyWidth ty : Nat))
      ∧ (tyI src = true → tyIsFloat ty = true → c = fpRound ty md (.fin (tyInt src a < 0) (tyInt src a).natAbs 0))
      ∧ (tyIsFloat src = true → tyIsFloat ty = true → fpDecode src a ≠ .nan → c = fpRound ty md (fpRead src md.ftzi a))
      ∧ (tyIsFloat src = true → tyI ty = true → ∀ neg m e, fpRead src md.ftzi a = .fin neg m e →
          let n : Int := if neg = true then -(roundToMultiple md.rm true m e 0 : Nat) else (roundToMultiple md.rm false m e 0 : Nat)
          (tyMin ty ≤ n → n ≤ tyMax ty → tyInt ty c = n)
            ∧ (f.sat = 1 → tyInt ty c = max (tyMin ty) (min (tyMax ty) n)))
      ∧ AYields s t f 4 (anyPort [f.a]) (extendCode ty c) (s.readS f.a src).2 .none

/-- R136, R105 to R107: SFADD, SFMUL and SFFMA deliver the exact sum, product, or product with an addend, rounded once; a NaN operand
gives the canonical NaN; SFCMP compares, a NaN being unordered, and writes its predicate. Latencies 4, 4, 6 and 2.
R104, R136: SFCVT: an integer delivered in an integer type wraps, or clamps with SAT; an integer or a floating value delivered in a
floating type is rounded once; a finite floating value delivered in an integer type is its nearest integer by the rounding mode where the
type holds that. Latency 4.
R94 to R96, R101 to R103: a value that a floating type represents is delivered as its own code, in every rounding mode: delivering
the value of a code that is no NaN gives the code back, without output flush.
Choices of the model that it rests on: log entry 31. -/
def Obligations.ScalarFloatingPoint : Prop := ScalarFloatRule ∧ ScalarConversionRule ∧ ExactValuesKeepTheirCodeRule

/-! ## The V class -/

/-- What a vector instruction on one, two or three operands yields, lane by lane, with the poison of the words that its lanes come from. -/
def Lanes1 (f : AvtF) (s : State) (i : Instr) (lat : Nat) (g : Nat → Nat) : Prop :=
  ∃ t, exec i s = .next t ∧ VYields s t f lat (anyPort [f.a]) (fun j => let a := s.laneOpnd f f.a j; (g a.1, a.2))
def Lanes2 (f : AvtF) (s : State) (i : Instr) (lat : Nat) (g : Nat → Nat → Nat) : Prop :=
  ∃ t, exec i s = .next t ∧ VYields s t f lat (anyPort [f.a, f.b])
    (fun j => let a := s.laneOpnd f f.a j; let b := s.laneOpnd f f.b j; (g a.1 b.1, a.2 || b.2))
def Lanes3 (f : AvtF) (s : State) (i : Instr) (lat : Nat) (g : Nat → Nat → Nat → Nat) : Prop :=
  ∃ t, exec i s = .next t ∧ VYields s t f lat (anyPort [f.a, f.b, f.c])
    (fun j => let a := s.laneOpnd f f.a j; let b := s.laneOpnd f f.b j; let c := s.laneOpnd f f.c j; (g a.1 b.1 c.1, a.2 || b.2 || c.2))

/-- R105 to R107, R142, R149: the lane-wise floating instructions: each enabled lane is the exact sum, difference, product, or product with
an addend, rounded once; VMIN and VMAX take a lane of A or B, −0 below +0, and give the canonical NaN where either is a NaN; VSCL scales. -/
def VectorFloatLanesRule : Prop :=
  ∀ (f : AvtF) (s : State),
    let ty := f.type
    let md := s.fmod f
    let V (x : Nat) : Fp := fpRead ty md.ftzi x
    let pick (x : Nat) : Nat := fpFlush ty md.ftzo (fpFlush ty md.ftzi x)
    Lanes2 f s (.vadd f) 4 (fun a b => fpRound ty md (fpSum md.rm [V a, V b]))
      ∧ Lanes2 f s (.vsub f) 4 (fun a b => fpRound ty md (fpSum md.rm [V a, (V b).neg]))
      ∧ Lanes2 f s (.vmul f) 4 (fun a b => fpRound ty md ((V a).mul (V b)))
      ∧ Lanes3 f s (.vfma f) 6 (fun a b c => fpRound ty md (fpSum md.rm [(V a).mul (V b), V c]))
      ∧ Lanes3 f s (.vfms f) 6 (fun a b c => fpRound ty md (fpSum md.rm [((V a).mul (V b)).neg, V c]))
      ∧ Lanes2 f s (.vmin f) 2 (fun a b => if V a = .nan ∨ V b = .nan then fpCanonNan ty else if fpLt (V a) (V b) then pick a else pick b)
      ∧ Lanes2 f s (.vmax f) 2 (fun a b => if V a = .nan ∨ V b = .nan then fpCanonNan ty else if fpLt (V a) (V b) then pick b else pick a)
      ∧ Lanes2 f s (.vscl f) 4 (fpScale ty md)

/-- R143: VABS, VNEG and VCPYS change the top bit of each lane alone: to 0, to its opposite, to that of B. -/
def VectorSignBitsRule : Prop :=
  ∀ (f : AvtF) (s : State),
    let w := tyWidth f.type
    let top (x : Nat) : Bool := x.testBit (w - 1)
    let set (x : Nat) (b : Bool) : Nat := x % 2 ^ (w - 1) + if b then 2 ^ (w - 1) else 0
    Lanes1 f s (.vabs f) 2 (fun a => set a false)
      ∧ Lanes1 f s (.vneg f) 2 (fun a => set a (!top a))
      ∧ Lanes2 f s (.vcpys f) 2 (fun a b => set a (top b))

/-- R105 to R107, R142, R149: the lane-wise floating instructions: each enabled lane is the exact sum, difference, product, or product with
an addend, rounded once; VMIN and VMAX take a lane of A or B, −0 below +0, and give the canonical NaN where either is a NaN; VSCL scales.
R143: VABS, VNEG and VCPYS change the top bit of each lane alone: to 0, to its opposite, to that of B. -/
def Obligations.VectorFloatAndSign : Prop := VectorFloatLanesRule ∧ VectorSignBitsRule

/-- R97, R144: the lane-wise integer instructions: sums, differences and products wrap or clamp with SAT; logic bit by bit; shifts by B
modulo the width; and the lesser or greater lane. -/
def Obligations.VectorIntegerLanes : Prop :=
  ∀ (f : AvtF) (s : State), tyI f.type = true →
    let ty := f.type
    let w := tyWidth ty
    let fit (x : Int) : Nat := ((if f.sat = 1 then max (tyMin ty) (min (tyMax ty) x) else x) % (2 ^ w : Nat)).toNat
    Lanes2 f s (.viadd f) 2 (fun a b => fit (tyInt ty a + tyInt ty b))
      ∧ Lanes2 f s (.visub f) 2 (fun a b => fit (tyInt ty a - tyInt ty b))
      ∧ Lanes2 f s (.vimul f) 2 (fun a b => fit (tyInt ty a * tyInt ty b))
      ∧ Lanes2 f s (.vand f) 2 (fun a b => a &&& b) ∧ Lanes2 f s (.vor f) 2 (fun a b => a ||| b) ∧ Lanes2 f s (.vxor f) 2 (fun a b => a ^^^ b)
      ∧ Lanes2 f s (.vshl f) 2 (fun a b => a <<< (b % w) % 2 ^ w)
      ∧ Lanes2 f s (.vshr f) 2 (fun a b => a >>> (b % w))
      ∧ Lanes2 f s (.vsar f) 2 (fun a b => ((BitVec.ofNat w a).sshiftRight (b % w)).toNat)
      ∧ Lanes2 f s (.vimin f) 2 (fun a b => if tyInt ty a ≤ tyInt ty b then a else b)
      ∧ Lanes2 f s (.vimax f) 2 (fun a b => if tyInt ty a ≤ tyInt ty b then b else a)

/-- R149, R151, R152: the remaining lane-wise floating instructions: VFREX, VRND, the seeds of the reciprocal, reciprocal root, power
and logarithm, and VPOLY by Horner's rule with each step rounded once, whose unit is then held for its degree. -/
def VectorSplitSeedPolyRule : Prop :=
  ∀ (f : AvtF) (s : State),
    let ty := f.type
    let md := s.fmod f
    let d := f.x5
    let step (x : Nat) (p k : Nat) : Nat := fpFma ty md false false p x (s.laneOpnd f f.b k).1
    Lanes1 f s (.vfrexSig f) 4 (fun a => fpFlush ty md.ftzo (fpSig ty md.ftzi a))
      ∧ Lanes1 f s (.vfrexExp f) 4 (fpExp ty md.ftzi)
      ∧ Lanes1 f s (.vrnd f) 4 (fpIntegral ty md)
      ∧ Lanes1 f s (.vrcps f) 5 (seedRcp ty md.ftzi md.ftzo)
      ∧ Lanes1 f s (.vrsqs f) 5 (seedRsq ty md.ftzi md.ftzo)
      ∧ Lanes1 f s (.vexp2f f) 5 (seedExp2 ty md.ftzi md.ftzo)
      ∧ Lanes1 f s (.vlog2s f) 5 (seedLog2 ty md.ftzi md.ftzo)
      ∧ (∃ t, exec (.vpoly f) s = .next (t.updCore s.issue.core (fun k =>
            { k with vecFree := tset k.vecFree 0 s.issue.slot (s.cycle + d) }))
          ∧ VYields s t f (6 * d) (anyPort [f.a, f.b]) (fun j =>
            let a := s.laneOpnd f f.a j
            (((List.range d).reverse).foldl (step a.1) (s.laneOpnd f f.b d).1,
              a.2 || (List.range (d + 1)).any (fun k => (s.laneOpnd f f.b k).2))))

/-- R55, R145 to R147: VCMP writes a mask: a bit whose lanes are enabled is 1 where the condition holds in all of them, and keeps its old
value otherwise; VSEL takes each lane of A or B by a mask; MAND, MOR and MNOT combine masks. The masks are also pushed as scalars. -/
def MasksAndSelectRule : Prop :=
  ∀ (f : AvtF) (s : State),
    let w := tyWidth f.type
    let md := s.fmod f
    let holds (i : Nat) : Bool := laneCompare f.type md.ftzi f.x5 (s.laneOpnd f f.a i).1 (s.laneOpnd f f.b i).1
    let g := s.govern f
    let bitOfLane (i : Nat) : Nat := i * w / 32
    let yields (i : Instr) (lat : Nat) (port : Bool) (v : Word) (po : Bool) : Prop :=
      ∃ t, exec i s = .next t ∧ Yields s t lat port (.scalar v po) (s.dst f.dst) (.m (f.c.toNat - 8) v po)
    (∃ v, yields (.vcmp f) 2 (anyPort [f.a, f.b]) v ((s.readV f.a f.type).2 != 0 || (s.readV f.b f.type).2 != 0 || g.poison)
        ∧ ∀ k, k < 64 →
          let on := g.v.getLsbD (if w = 64 then k / 2 * 2 else k) ^^ (f.pinv == 1)
          (on = true → (v.getLsbD k = true ↔ ∀ i, i < 2048 / w → bitOfLane i = (if w = 64 then k / 2 * 2 else k) → holds i = true))
            ∧ (on = false → v.getLsbD k = (s.readM f.c).v.getLsbD k))
      ∧ (∃ t, exec (.vsel f) s = .next t ∧ VYields s t f 2 (anyPort [f.a, f.b]) (fun i =>
          let x := s.laneOpnd f (if (s.readM f.c).v.getLsbD (bitOfLane i) then f.a else f.b) i
          (x.1, x.2 || (s.readM f.c).poison)))
      ∧ yields (.mand f) 1 false ((s.readM f.a).v &&& (s.readM f.b).v) ((s.readM f.a).poison || (s.readM f.b).poison)
      ∧ yields (.mor f) 1 false ((s.readM f.a).v ||| (s.readM f.b).v) ((s.readM f.a).poison || (s.readM f.b).poison)
      ∧ yields (.mnot f) 1 false (~~~(s.readM f.a).v) (s.readM f.a).poison

/-- R98, R99, R104, R148: VCVT converts each lane from its source type: lane for lane, widening from the part that C names, or narrowing
into it, the other lanes then being B's whatever the predicate. An I4X source with a malformed block that feeds an enabled lane
traps FMTERR MARKER with the block's number. -/
def VectorConversionRule : Prop :=
  ∀ (f : AvtF) (s : State),
    let ty := f.type
    let src : Ty := .ofBits (f.ext.truncate 4)
    let ws := tyWidth src
    let wd := tyWidth ty
    let md := if cvtFloating f then s.fmod f else s.fmodPlain f
    let a := s.readV f.a src
    let conv (j : Nat) : Nat × Bool := (cvtElem ty md (elemOf src md.ftzi (laneOf ws a.1 j)), a.2.getLsbD (j * ws / 64))
    let part := f.c.toNat
    (∀ k, s.vcvtBad f = some k → exec (.vcvt f) s = .next (s.slotTrap ⟨3, 2, BitVec.ofNat 64 (2 ^ 63 + 16 * k)⟩))
      ∧ (src ≠ .i4x → wd = ws → ∃ t, exec (.vcvt f) s = .next t ∧ VYields s t f 4 (anyPort [f.a]) conv)
      ∧ (src ≠ .i4x → ws < wd → part < wd / ws → ∃ t, exec (.vcvt f) s = .next t
          ∧ VYields s t f 4 (anyPort [f.a]) (fun i => conv (part * (2048 / wd) + i)))
      ∧ (src ≠ .i4x → wd < ws → part < ws / wd → ∃ t, exec (.vcvt f) s = .next t
          ∧ (let n := 2048 / ws
            let here (i : Nat) : Bool := decide (part * n ≤ i) && decide (i < part * n + n)
            VYieldsOn s t f 4 (anyPort [f.a, f.b]) (fun i => !here i || s.laneOn f wd i)
              (fun i => if here i then conv (i - part * n) else s.laneOpnd f f.b i)))
      ∧ (src = .i4x → s.vcvtBad f = none → ∃ t, exec (.vcvt f) s = .next t
          ∧ VYields s t f 4 (anyPort [f.a]) (fun i =>
            let j := if wd = ws then i else part * (2048 / wd) + i
            (cvtElem ty md ((vecElems .i4x md.ftzi a.1).getD j (.int 0)), (elemsPoison .i4x a).getD j false)))

/-- R98, R99, R104, R148: VCVT converts each lane from its source type: lane for lane, widening from the part that C names, or narrowing
into it, the other lanes then being B's whatever the predicate. An I4X source with a malformed block that feeds an enabled lane
traps FMTERR MARKER with the block's number.
R149, R151, R152: the remaining lane-wise floating instructions: VFREX, VRND, the seeds of the reciprocal, reciprocal root, power
and logarithm, and VPOLY by Horner's rule with each step rounded once, whose unit is then held for its degree. -/
def Obligations.VectorConvertSplitSeed : Prop := VectorConversionRule ∧ VectorSplitSeedPolyRule

/-- R153, R154: VPERM takes lane B mod n of A for each lane of B; VSHUF its six patterns; VBCST a scalar, or one lane, in every lane;
and VEXTR one lane as a scalar, an index being read at the lane width; in every case with the poison of what a lane comes from.
Choices of the model that it rests on: log entry 32. -/
def PermutesAndBroadcastsRule : Prop :=
  ∀ (f : AvtF) (s : State),
    let w := tyWidth f.type
    let n := 2048 / w
    let h := n / 2
    let A := s.laneOpnd f f.a
    let B := s.laneOpnd f f.b
    let b := s.readS f.b .i64
    let c := s.readS f.c .i64
    let shuf (ports : List (BitVec 7)) (lane : Nat → Nat × Bool) : Prop :=
      ∃ t, exec (.vshuf f) s = .next t ∧ VYields s t f 4 (anyPort ports) lane
    (∃ t, exec (.vperm f) s = .next t ∧ VYields s t f 4 (anyPort [f.a, f.b]) (fun i => let x := A ((B i).1 % n); (x.1, x.2 || (B i).2)))
      ∧ (f.x = 0 → shuf [f.a, f.b] (fun i => if i % 2 = 0 then A (i / 2) else B (i / 2)))
      ∧ (f.x = 1 → shuf [f.a, f.b] (fun i => if i % 2 = 0 then A (h + i / 2) else B (h + i / 2)))
      ∧ (f.x = 2 → shuf [f.a, f.b] (fun i => if i < h then A (2 * i) else B (2 * (i - h))))
      ∧ (f.x = 3 → shuf [f.a, f.b] (fun i => if i < h then A (2 * i + 1) else B (2 * (i - h) + 1)))
      ∧ (f.x = 4 → shuf [f.a, f.b, f.c] (fun i =>
          let j := i + c.1.toNat % 2 ^ w % n
          let x := if j < n then A j else B (j - n)
          (x.1, x.2 || c.2)))
      ∧ (f.x = 5 → shuf [f.a] (fun i => A (n - 1 - i)))
      ∧ (∃ t, exec (.vbcst f) s = .next t ∧ VYields s t f 2 (anyPort [f.a]) (fun _ =>
          ((s.readS f.a f.type).1.toNat % 2 ^ w, (s.readS f.a f.type).2)))
      ∧ (∃ t, exec (.vbcstLane f) s = .next t ∧ VYields s t f 4 (anyPort [f.a, f.b]) (fun _ =>
          let x := A (b.1.toNat % 2 ^ w % n); (x.1, x.2 || b.2)))
      ∧ (∃ t, exec (.vextr f) s = .next t ∧ (let x := A (b.1.toNat % 2 ^ w % n)
          Yields s t 4 (anyPort [f.a, f.b]) (.scalar (extendCode f.type x.1) (x.2 || b.2)) (s.dst f.dst) .none))

/-- R55, R145 to R147: VCMP writes a mask: a bit whose lanes are enabled is 1 where the condition holds in all of them, and keeps its old
value otherwise; VSEL takes each lane of A or B by a mask; MAND, MOR and MNOT combine masks. The masks are also pushed as scalars.
R153, R154: VPERM takes lane B mod n of A for each lane of B; VSHUF its six patterns; VBCST a scalar, or one lane, in every lane;
and VEXTR one lane as a scalar, an index being read at the lane width; in every case with the poison of what a lane comes from.
Choices of the model that it rests on: log entry 32. -/
def Obligations.MasksPermutesBroadcasts : Prop := MasksAndSelectRule ∧ PermutesAndBroadcastsRule

/-- R107, R155: node i of the reduction tree over n leaves when the distances n/2, n/4, … have been taken as often as given: a node joins
itself and the one at the distance, an absent one giving nothing. -/
def nodeOf (g : Nat → Nat → Nat) (leaf : Nat → Option Nat) (n : Nat) : Nat → Nat → Option Nat
  | 0, i => leaf i
  | k + 1, i => match nodeOf g leaf n k i, nodeOf g leaf n k (i + n / 2 ^ (k + 1)) with
    | some a, some b => some (g a b)
    | some a, none => some a
    | none, b => b

/-- R107, R156: the running value of a scan before lane k: each enabled lane is joined to what came before, in ascending order. -/
def runOf (g : Nat → Nat → Nat) (out : Nat → Nat) (leaf : Nat → Option Nat) : Nat → Option Nat
  | 0 => none
  | k + 1 => match runOf g out leaf k, leaf k with
    | some a, some x => some (out (g a x))
    | none, some x => some (out x)
    | r, none => r

/-- R105 to R107, R155, R156: VRED of floating lanes: node 0 of the fixed tree over the enabled lanes, each add rounded, min and max by their
order, a NaN being canonical, input flush acting on the lanes and output flush on the result; and +0, +∞ or −∞ where no lane is enabled. VSCAN: the running values of the same operation from lane 0. -/
def ReductionTreeOrderRule : Prop :=
  ∀ (f : AvtF) (s : State), tyF f.type = true → f.x5 < 3 →
    let ty := f.type
    let md := s.fmod f
    let n := 2048 / tyWidth ty
    let inner : FMod := { md with ftzi := false }
    let g (a b : Nat) : Nat := if f.x5 = 0 then fpAdd ty inner a b else fpMinMax ty inner (f.x5 == 2) a b
    let leaf (i : Nat) : Option Nat := if s.laneOn f (tyWidth ty) i then some (fpFlush ty md.ftzi (s.laneOpnd f f.a i).1) else none
    let on (i : Nat) : Bool := s.laneOn f (tyWidth ty) i
    let out (v : Nat) : Nat := if fpIsNan ty v then fpCanonNan ty else fpFlush ty md.ftzo v
    (∃ t r, exec (.vscan f) s = .next t ∧ VYields s t f 10 (anyPort [f.a]) r
      ∧ ∀ i, i < n → on i = true → runOf g out leaf (i + 1) = some (r i).1
          ∧ ((r i).2 = true ↔ ∃ j, j ≤ i ∧ on j = true ∧ (s.laneOpnd f f.a j).2 = true))
    ∧ ∃ t c po, exec (.vred f) s = .next t
      ∧ Yields s t 10 (anyPort [f.a]) (.scalar (extendCode ty c) po) (s.dst f.dst) .none
      ∧ (po = true ↔ (s.govern f).poison = true ∨ ∃ i, i < n ∧ on i = true ∧ (s.laneOpnd f f.a i).2 = true)
      ∧ c = match nodeOf g leaf n (Nat.log2 n) 0 with
        | some v => out v
        | none => if f.x5 = 0 then 0 else fpInf ty (f.x5 == 2)

/-- R97, R155, R156: VRED and VSCAN on integer lanes: the wrapped sum, least or greatest of the enabled lanes, the type's own bound
where none is; and the running values from lane 0, a disabled lane being passed over, with the poison of the lanes up to each.
Choices of the model that it rests on: log entry 31. -/
def IntegerReductionsAndScansRule : Prop :=
  ∀ (f : AvtF) (s : State), tyI f.type = true →
    let ty := f.type
    let w := tyWidth ty
    let n := 2048 / w
    let on (i : Nat) : Bool := s.laneOn f w i
    let val (i : Nat) : Int := tyInt ty (s.laneOpnd f f.a i).1
    let live (k : Nat) : List Nat := (List.range k).filter (fun i => on i)
    (∃ t c po, exec (.vred f) s = .next t
        ∧ Yields s t 10 (anyPort [f.a]) (.scalar (extendCode ty c) po) (s.dst f.dst) .none
        ∧ (po = true ↔ (s.govern f).poison = true ∨ ∃ i, i < n ∧ on i = true ∧ (s.laneOpnd f f.a i).2 = true)
        ∧ (f.x5 = 0 → f.sat = 0 → (c : Int) = ((live n).map val).sum % (2 ^ w : Nat))
        ∧ (f.x5 = 1 → live n = [] → tyInt ty c = tyMax ty) ∧ (f.x5 = 2 → live n = [] → tyInt ty c = tyMin ty)
        ∧ (f.x5 = 1 → live n ≠ [] → (∃ i, i ∈ live n ∧ tyInt ty c = val i) ∧ ∀ i, i ∈ live n → tyInt ty c ≤ val i)
        ∧ (f.x5 = 2 → live n ≠ [] → (∃ i, i ∈ live n ∧ tyInt ty c = val i) ∧ ∀ i, i ∈ live n → val i ≤ tyInt ty c))
      ∧ (∃ t r, exec (.vscan f) s = .next t ∧ VYields s t f 10 (anyPort [f.a]) r
        ∧ ∀ i, i < n → on i = true →
          ((r i).2 = true ↔ ∃ j, j ≤ i ∧ on j = true ∧ (s.laneOpnd f f.a j).2 = true)
          ∧ (live i = [] → tyInt ty (r i).1 = val i)
          ∧ (f.x5 = 0 → f.sat = 0 → ((r i).1 : Int) = ((live (i + 1)).map val).sum % (2 ^ w : Nat))
          ∧ (f.x5 = 1 → (∃ j, j ≤ i ∧ on j = true ∧ tyInt ty (r i).1 = val j) ∧ ∀ j, j ≤ i → on j = true → tyInt ty (r i).1 ≤ val j)
          ∧ (f.x5 = 2 → (∃ j, j ≤ i ∧ on j = true ∧ tyInt ty (r i).1 = val j) ∧ ∀ j, j ≤ i → on j = true → val j ≤ tyInt ty (r i).1))

/-- R105 to R107, R155, R156: VRED of floating lanes: node 0 of the fixed tree over the enabled lanes, each add rounded, min and max by their
order, a NaN being canonical, input flush acting on the lanes and output flush on the result; and +0, +∞ or −∞ where no lane is enabled. VSCAN: the running values of the same operation from lane 0.
R97, R155, R156: VRED and VSCAN on integer lanes: the wrapped sum, least or greatest of the enabled lanes, the type's own bound
where none is; and the running values from lane 0, a disabled lane being passed over, with the poison of the lanes up to each.
Choices of the model that it rests on: log entry 31. -/
def Obligations.ReductionsAndScans : Prop := ReductionTreeOrderRule ∧ IntegerReductionsAndScansRule

/-! ## The C class -/

/-- A slot that only starts a delayed transfer: the acting context's transfer is set, and nothing else anywhere. -/
def Departs (s t : State) (x : Xfer) : Prop := OnlyActing s t ∧ t.agenda = s.agenda ∧ t.me = { s.me with xfer := x }

/-- R67, R89, R117 to R119: the delayed transfers: to the bundle at a displacement, or at the address in A with bits 5:0 cleared, three cycles
later where A comes through a port; BRC by its predicate, else past the delay bundle; CALL and CALLI also yield the link
pc + 128 one cycle later. A poisoned predicate or target kills the task. -/
def DelayedTransfersRule : Prop :=
  ∀ (f : CF) (s : State),
    let pc := s.issue.pc
    let near : Word := pc + BitVec.ofInt 64 (64 * f.imm.toInt)
    let a := s.readS f.a .i64
    let far : Word := a.1 &&& ~~~63#64
    let port := isPort f.a
    let ready := if port then s.cycle + 5 else 0
    let p := tget s.start.c .zero f.cond.toNat
    let linked (i : Instr) (port : Bool) (x : Xfer) : Prop :=
      ∃ u, Yields s u 1 port (.scalar (pc + 128) false) (s.dst f.dst) .none ∧ ∃ t, exec i s = .next t ∧ Departs u t x
    (∃ t, exec (.br f) s = .next t ∧ Departs s t (.goto near 0))
      ∧ (p.poison = false → ∃ t, exec (.brc f) s = .next t ∧ Departs s t (.goto (if (p.v != (f.cinv == 1)) = true then near else pc + 128) 0))
      ∧ (p.poison = true → exec (.brc f) s = .next (s.slotKill 2))
      ∧ linked (.call f) false (.goto near 0)
      ∧ (a.2 = false → (∃ t, exec (.bri f) s = .next t ∧ Departs s t (.goto far ready))
          ∧ (∃ t, exec (.ret f) s = .next t ∧ Departs s t (.goto far ready))
          ∧ linked (.calli f) port (.goto far ready))
      ∧ (a.2 = true → exec (.bri f) s = .next (s.slotKill 2) ∧ exec (.ret f) s = .next (s.slotKill 2) ∧ exec (.calli f) s = .next (s.slotKill 2))

/-- R67, R89, R119, R120: where a context goes when its bundle has acted: 64 bytes on, or, after a delay bundle, to the transfer's target,
no earlier than that allows; a RETR's delay bundle ends the routine at the link. -/
def BundleAdvancesPcRule : Prop :=
  ∀ (s : State) (core ctx : Nat) (pc : Word), s.issue.ckpt = false →
    (s.issue.jump = false →
      (let y := (s.advancePc core ctx .none pc).ctx core ctx
      y.pc = pc + 64 ∧ y.readyAt = max (s.ctx core ctx).readyAt (s.cycle + 1) ∧ y.sr = (s.ctx core ctx).sr ∧ y.q = (s.ctx core ctx).q))
    ∧ (∀ a r, let y := (s.advancePc core ctx (.goto a r) pc).ctx core ctx
      y.pc = a ∧ y.xfer = .none ∧ y.readyAt = max (max (s.ctx core ctx).readyAt (s.cycle + 1)) r ∧ y.sr = (s.ctx core ctx).sr)
    ∧ (let y := (s.advancePc core ctx .retr pc).ctx core ctx
      y.pc = (s.ctx core ctx).link ∧ y.xfer = .none ∧ y.inRoutine = false ∧ y.ckpt.valid = false)
    ∧ ∀ x, (∀ n c, n ≠ core ∨ c ≠ ctx → (s.advancePc core ctx x pc).ctx n c = s.ctx n c)

/-- R67, R89, R117 to R119: the delayed transfers: to the bundle at a displacement, or at the address in A with bits 5:0 cleared, three cycles
later where A comes through a port; BRC by its predicate, else past the delay bundle; CALL and CALLI also yield the link
pc + 128 one cycle later. A poisoned predicate or target kills the task.
R67, R89, R119, R120: where a context goes when its bundle has acted: 64 bytes on, or, after a delay bundle, to the transfer's target,
no earlier than that allows; a RETR's delay bundle ends the routine at the link. -/
def Obligations.DelayedTransfersAndPc : Prop := DelayedTransfersRule ∧ BundleAdvancesPcRule

/-- R120, R182: CALLR within a loaded image, of a routine that the core's cache holds, outside any routine, reads its table entry as an
instruction fetch and starts the call; an index past the table, or a call within a routine, traps OPND. RETR starts the return, and traps OPND
outside a routine. CKPT asks for an image within a routine alone; the next bundle issues two cycles later. -/
def RoutineCallsRule : Prop :=
  (∀ (f : CF) (s u : State) (v : Nat) (e : RtEnt),
    let sr := s.start.sr
    let ridx := f.imm.toNat % 65536
    let a := (sr.imgBase + BitVec.ofNat 64 (sr.imgRt.toNat % 2 ^ 48 + 32 * ridx)).toNat
    sr.imgBase ≠ 0 → ridx < sr.imgRt.toNat / 2 ^ 48 % 2048 → s.start.inRoutine = false →
    s.fetchRun s.issue.core sr.rng a 32 = (.ok (v, false), u) → u.safe → u.issue = s.issue →
    (u.core s.issue.core).rtFind sr.imgBase ridx = some e →
    ∃ t, exec (.callr f) s = .next t
      ∧ Departs u t (.callr ridx (BitVec.ofNat 256 v) e.vclob (sr.imgBase + BitVec.ofNat 64 (v % 2 ^ 64))))
  ∧ (∀ (f : CF) (s : State), (s.start.sr.imgBase = 0 ∨ s.start.sr.imgRt.toNat / 2 ^ 48 % 2048 ≤ f.imm.toNat % 65536 ∨ s.start.inRoutine = true) →
    exec (.callr f) s = .next (s.slotTrap ⟨2, 4, BitVec.ofNat 64 s.issue.slot⟩))
  ∧ (∀ s : State, s.start.inRoutine = true → ∃ t, exec .retr s = .next t ∧ Departs s t .retr)
  ∧ (∀ s : State, s.start.inRoutine = false → exec .retr s = .next (s.slotTrap ⟨2, 4, BitVec.ofNat 64 s.issue.slot⟩))
  ∧ (∀ s : State, ∃ t, exec .ckpt s = .next t ∧ t.issue.ckpt = (s.issue.ckpt || s.start.inRoutine)
    ∧ t.me = { s.me with readyAt := max s.me.readyAt (s.cycle + 2) } ∧ SameMemory s t
    ∧ ∀ n c, n ≠ s.issue.core ∨ c ≠ s.issue.ctx → t.ctx n c = s.ctx n c)

/-- R49, R121: REP sets its bundle repeating as often as its immediate, or operand A up to 65,536, says, and REPCNT and REPSTEP show the
first repetition; a poisoned count kills the task. -/
def RepeatCountRule : Prop :=
  ∀ (f : CF) (s : State),
    let a := s.readS f.a .i64
    let k := f.imm.toNat % 128
    let n := if k ≠ 0 then k else min a.1.toNat 65536
    (k ≠ 0 ∨ a.2 = false → ∃ t, exec (.rep f) s = .next t ∧ OnlyActing s t ∧ t.agenda = s.agenda
        ∧ t.me.rep.on = true ∧ t.me.rep.left = n ∧ t.me.rep.j = 1
        ∧ t.me.sr.repCnt.toNat = n ∧ t.me.sr.repStep.toNat = (if n = 0 then 0 else 1)
        ∧ { t.me with rep := s.me.rep, sr := { t.me.sr with repCnt := s.me.sr.repCnt, repStep := s.me.sr.repStep } } = s.me)
      ∧ (k = 0 → a.2 = true → exec (.rep f) s = .next (s.slotKill 2))

/-- R120, R182: CALLR within a loaded image, of a routine that the core's cache holds, outside any routine, reads its table entry as an
instruction fetch and starts the call; an index past the table, or a call within a routine, traps OPND. RETR starts the return, and traps OPND
outside a routine. CKPT asks for an image within a routine alone; the next bundle issues two cycles later.
R49, R121: REP sets its bundle repeating as often as its immediate, or operand A up to 65,536, says, and REPCNT and REPSTEP show the
first repetition; a poisoned count kills the task. -/
def Obligations.RoutinesAndRepeats : Prop := RoutineCallsRule ∧ RepeatCountRule

/-- R122, R267: SPAWN of a well-formed record in the core's window, of no higher urgency than the task may name, with room in its queue:
the record is pushed no earlier than six cycles later. A malformed record traps OPND with its address, and one above the task's own
urgency, at task level, PRIV. SPAWN_RECORD_PUSH puts it at the tail of the core's or the group's queue, or among the die's items. -/
def Obligations.SpawnPushesRecord : Prop :=
  (∀ (f : CF) (s : State),
    let a := s.readS f.a .i64
    let va := a.1.toNat / 32 * 32
    let q := f.imm.toNat % 4
    let k := s.core s.issue.core
    let r : RecP := ⟨BitVec.ofNat 256 (k.spRead va 32).1, va, s.start.record.job, false⟩
    s.safe → a.2 = false → va + 32 ≤ 0x100000 → k.meets s.cycle va 32 false = .ok →
      (malformedRecord r.bits = true → exec (.spawn f) s = .next (s.slotTrap ⟨2, 4, BitVec.ofNat 64 va⟩))
      ∧ (malformedRecord r.bits = false → s.start.sr.priv = 0 → recPrio r < s.start.sr.prio.toNat →
          exec (.spawn f) s = .next (s.slotTrap ⟨6, 0, 0⟩))
      ∧ (malformedRecord r.bits = false → (s.start.sr.priv = 0 → s.start.sr.prio.toNat ≤ recPrio r) →
          (q = 2 → s.waiting (coreDie s.issue.core) < dieLimit) → (q < 2 → s.queueFull s.issue.core q = false) →
          ∃ t d, exec (.spawn f) s = .next t ∧ t.agenda = s.agenda ++ [d] ∧ s.cycle + 6 ≤ d.cycle
            ∧ d.ev = .spawnRecordPush s.issue.core s.issue.ctx s.start.epoch q r ∧ SameMemory s t ∧ ∀ n c, t.ctx n c = s.ctx n c))
  ∧ (∀ (core ctx epoch : Nat) (r : RecP) (s : State), s.queueFull core 0 = false →
    ∃ t, exec (.spawnRecordPush core ctx epoch 0 r) s = .next t ∧ (t.core core).queue = (s.core core).queue ++ [r]
      ∧ SameMemory s t ∧ ∀ n c, t.ctx n c = s.ctx n c)
  ∧ (∀ (core ctx epoch gid : Nat) (g : Group) (r : RecP) (s : State), (s.core core).group = some gid → s.group gid = some g →
    s.queueFull core 1 = false →
    ∃ t h, exec (.spawnRecordPush core ctx epoch 1 r) s = .next t ∧ t.group gid = some h ∧ h.queue = g.queue ++ [r]
      ∧ SameMemory s t ∧ ∀ n c, t.ctx n c = s.ctx n c)
  ∧ (∀ (core ctx epoch : Nat) (r : RecP) (s : State),
    ∃ t i, exec (.spawnRecordPush core ctx epoch 2 r) s = .next t
      ∧ (tget t.docents .reset (coreDie core)).items = (tget s.docents .reset (coreDie core)).items ++ [i]
      ∧ i.kind = .loose r r.job ∧ i.level = recPrio r ∧ i.time = s.cycle ∧ SameMemory s t ∧ Others s t core ctx
      ∧ t.ctx core ctx = { s.ctx core ctx with carried := (s.ctx core ctx).carried.filter (fun e => e.1 != ackRecord) })

/-- A context with nothing outstanding: no operation, atomic or log entry of its own, and nothing parked on its core. -/
def Quiet (s : State) : Prop :=
  s.me.ops = [] ∧ s.me.atoms = 0 ∧ s.me.log = [] ∧ (s.core s.issue.core).side = [] ∧ s.me.det = false ∧ s.start.det = false

/-- R123, R124, R233, R289: with nothing outstanding a DRAIN completes at once, the next bundle issuing from the next cycle on; a
RETIRE without JOINADDR, and a HALT, leave the context idle, to pop a record unless it halts; and the program counter is kept.
Choices of the model that it rests on: log entries 40 and 63. -/
def DrainRetireHaltRule : Prop :=
  ∀ s : State, Quiet s → (s.core s.issue.core).group = none →
    let idle (t : State) : Prop := t.me.status = .idle ∧ t.me.ops = [] ∧ t.issue.jump = true ∧ t.me.reg = s.me.reg ∧ SameMemory s t
      ∧ (∃ d, d ∈ t.agenda ∧ d.ev = .recordPop s.issue.core s.issue.ctx) ∧ (∃ d, d ∈ t.agenda ∧ d.ev = .jobComplete ∧ d.unit = s.me.record.job)
    (∃ t, exec .drain s = .next t ∧ t.me.ops = [] ∧ s.cycle + 1 ≤ t.me.readyAt ∧ t.unblocked s.issue.core t.me = true
        ∧ t.me.reg = s.me.reg ∧ t.me.sr = s.me.sr ∧ t.me.q = s.me.q ∧ SameMemory s t)
      ∧ (s.start.sr.joinAddr = 0 → s.me.sr.joinAddr = 0 → ∃ t, exec .retire s = .next t ∧ idle t ∧ t.me.halted = s.me.halted)
      ∧ (∃ t, exec .halt s = .next t ∧ idle t ∧ t.me.halted = true)

/-- R123, R417: JOIN reserves its result, and, its drain being complete, sends the decrement of its join block, at the address in A rounded
down to 64 bytes, to the block's home. A block in the window or in host memory traps RANGE; a poisoned address kills the task. -/
def JoinSendsDecrementRule : Prop :=
  ∀ (f : CF) (s : State),
    let a := s.readS f.a .i64
    let va := a.1.toNat / 64 * 64
    (a.2 = true → exec (.join f) s = .next (s.slotKill 2))
      ∧ (a.2 = false → va < 0x100000 → ∃ sub, exec (.join f) s = .next (s.slotTrap ⟨7, sub, BitVec.ofNat 64 va⟩))
      ∧ (∀ x, a.2 = false → Quiet s → s.place va 64 needRW false = .shared x → x.host = false →
          ∃ u j, exec (.join f) s = .next (u.sendJoin s.issue.core s.issue.ctx j)
            ∧ j.core = s.issue.core ∧ j.ctx = s.issue.ctx ∧ j.epoch = s.me.epoch ∧ j.id = some s.me.nextId ∧ j.dst = s.dst f.dst
            ∧ j.xl = x ∧ j.va = va ∧ j.jobid = s.me.record.job ∧ j.port = isPort f.a
            ∧ u.me.q = (⟨s.me.nextId, ⟨false, 0, 0⟩, false⟩ :: s.me.q).take 16 ∧ u.me.ops = [] ∧ u.me.reg = s.me.reg ∧ u.me.sr = s.me.sr
            ∧ (∀ n c, n ≠ s.issue.core ∨ c ≠ s.issue.ctx → u.ctx n c = s.ctx n c) ∧ SameMemory s u)

/-- R124, R290: a YIELD with no record of equal or higher urgency waiting does nothing; otherwise the context waits, to be saved once all
that it has issued is done. -/
def YieldToWaitingRecordsRule : Prop :=
  ∀ s : State,
    let k := s.core s.issue.core
    let records := k.queue ++ (match k.group.bind s.group with | some g => g.queue | none => [])
    ((∀ r, r ∈ records → s.start.sr.prio.toNat < recPrio r) → exec .yield s = .next s)
      ∧ ((∃ r, r ∈ records ∧ recPrio r ≤ s.start.sr.prio.toNat) →
          ∃ t, exec .yield s = .next t ∧ OnlyActing s t ∧ t.agenda = s.agenda ∧ t.me = { s.me with wait := .yield })

/-- R124, R290: a YIELD with no record of equal or higher urgency waiting does nothing; otherwise the context waits, to be saved once all
that it has issued is done.
R123, R124, R233, R289: with nothing outstanding a DRAIN completes at once, the next bundle issuing from the next cycle on; a
RETIRE without JOINADDR, and a HALT, leave the context idle, to pop a record unless it halts; and the program counter is kept.
Choices of the model that it rests on: log entries 40 and 63. -/
def Obligations.EndsOfTasks : Prop := YieldToWaitingRecordsRule ∧ DrainRetireHaltRule

/-- R125, R303: an arrival, BARR, BARRA or PHASE, at a barrier that the core's group is granted joins the phase in progress once, and
BARR and PHASE then wait for it; BARRW waits for the phase of an outstanding arrival and, with none, yields the status of the last phase.
A barrier outside the grant traps OPND, and PHASE in transfer mode traps MODE. -/
def BarrierArrivalsRule : Prop :=
  ∀ (f : CF) (s : State) (gid : Nat) (g : Group),
    let i := s.issue
    let bix := f.imm.toNat % 64
    let pix := f.imm.toNat / 8 % 64
    let opnd := Host.Outcome.next (s.slotTrap ⟨2, 4, BitVec.ofNat 64 i.slot⟩)
    let arrives (t : State) (b : Nat) : Prop :=
      ∃ h, t.group gid = some h ∧ (i.core, i.ctx) ∈ (h.barrier b).arrived ∧ (h.barrier b).phase = (g.barrier b).phase ∧ SameMemory s t
    (s.core i.core).group = some gid → s.group gid = some g → s.me.det = false → (s.core i.core).fwds = [] → s.me.arrived = [] →
      s.start.transfer = false →
      (bix < g.bars.length →
        (∃ t, exec (.barr f) s = .next t ∧ arrives t bix ∧ t.me.wait = .barrier bix (g.barrier bix).phase
            ∧ t.me.q = (⟨s.me.nextId, ⟨false, 0, 0⟩, false⟩ :: s.me.q).take 16 ∧ t.me.barRes = some (s.me.nextId, s.dst f.dst))
        ∧ (∃ t, exec (.barra f) s = .next t ∧ arrives t bix ∧ t.me.wait = s.me.wait ∧ t.me.q = s.me.q)
        ∧ (∃ t, exec (.barrw f) s = .next t ∧ Yields s t 1 false (.scalar (g.barrier bix).prev false) (s.dst f.dst) .none))
      ∧ (pix < g.bars.length → ∃ t, exec (.phase f) s = .next t ∧ arrives t pix ∧ t.me.wait = .barrier pix (g.barrier pix).phase
            ∧ t.me.phaseOf = some (f.imm.toNat % 8) ∧ t.me.phaseAt = i.pc + 64 ∧ t.me.q = s.me.q)
      ∧ (g.bars.length ≤ bix → exec (.barr f) s = opnd ∧ exec (.barra f) s = opnd ∧ exec (.barrw f) s = opnd)
      ∧ (g.bars.length ≤ pix → exec (.phase f) s = opnd)

/-- R125: a wait at a barrier with an arrival outstanding, and its completion: when the phase that is due completes, a member that waits
goes on from the next cycle, its result being the status word, of which bit 63 says that a member died; the next phase begins with nobody
arrived. A completion that is no longer of the phase in progress does nothing.
Choices of the model that it rests on: log entry 26. -/
def BarrierCompletesRule : Prop :=
  (∀ (f : CF) (s : State) (phase : Nat),
    let bix := f.imm.toNat % 64
    s.granted s.issue.core bix = true → s.me.arrived = [(bix, phase)] →
      ∃ t, exec (.barrw f) s = .next t ∧ t.me.wait = .barrier bix phase ∧ t.me.q = (⟨s.me.nextId, ⟨false, 0, 0⟩, false⟩ :: s.me.q).take 16
        ∧ t.me.barRes = some (s.me.nextId, s.dst f.dst) ∧ t.me.arrived = s.me.arrived ∧ SameMemory s t)
  ∧ (∀ (gid bix core ctx id : Nat) (dst : Option Nat) (g : Group) (s : State),
    let b := g.barrier bix
    let x := s.ctx core ctx
    s.group gid = some g → b.due = true → b.gangs = 0 → b.updates = 0 → b.tw = none → s.merges = [] → b.arrived = [(core, ctx)] →
      x.wait = .barrier bix b.phase → x.again = none → x.phaseOf = none → x.barRes = some (id, dst) →
      ∃ t h, exec (.barrierPhaseComplete gid bix b.phase) s = .next t ∧ t.group gid = some h
        ∧ (h.barrier bix).phase = b.phase + 1 ∧ (h.barrier bix).arrived = [] ∧ (h.barrier bix).prev = statusWord b
        ∧ (∀ j, j ≠ bix → h.barrier j = g.barrier j)
        ∧ (t.ctx core ctx).wait = .none ∧ s.cycle + 1 ≤ (t.ctx core ctx).readyAt
        ∧ t.agenda = s.agenda ++ [⟨s.cycle, rkResult, core, .resultProduced ⟨core, ctx, x.epoch, id, .scalar (statusWord b) false, dst, .none⟩⟩]
        ∧ ((statusWord b).getLsbD 63 = b.died) ∧ SameMemory s t)
  ∧ (∀ (gid bix phase : Nat) (s : State), (∀ g, s.group gid = some g → (g.barrier bix).phase ≠ phase) →
      exec (.barrierPhaseComplete gid bix phase) s = .next s)

/-- R125, R303: an arrival, BARR, BARRA or PHASE, at a barrier that the core's group is granted joins the phase in progress once, and
BARR and PHASE then wait for it; BARRW waits for the phase of an outstanding arrival and, with none, yields the status of the last phase.
A barrier outside the grant traps OPND, and PHASE in transfer mode traps MODE.
R125: a wait at a barrier with an arrival outstanding, and its completion: when the phase that is due completes, a member that waits
goes on from the next cycle, its result being the status word, of which bit 63 says that a member died; the next phase begins with nobody
arrived. A completion that is no longer of the phase in progress does nothing.
Choices of the model that it rests on: log entry 26. -/
def Obligations.Barriers : Prop := BarrierArrivalsRule ∧ BarrierCompletesRule

/-- R51, R65, R89, R126: what taking a trap does outside a routine, where a handler is named and no trap of supervisor code is open: TRAPCODE
takes class and subcode, TRAPPC the address, TRAPADDR its own; the shadow keeps the queue, predicates, masks, repeat and level; the
level is at least 1, and the handler's first bundle issues four cycles later. A delay bundle's trap sets DLYPEND and keeps its target
in TRAPTGT. Named registers, f entries, link and memory stay. -/
def TrapIsTakenRule : Prop :=
  ∀ (s : State) (core ctx : Nat) (x : Ctx) (e : TrapInfo) (pc : Word),
    x.inRoutine = false → x.sr.trapVec ≠ 0 → (x.sr.priv = 0 ∨ x.shadow.occupied = false) → e.cls < 65536 → e.sub < 65536 →
      let t := s.takeTrap core ctx x e pc
      let y := t.ctx core ctx
      y.sr.trapCode.toNat = e.sub * 65536 + e.cls ∧ y.sr.trapPc = pc ∧ y.sr.trapAddr = e.addr
        ∧ y.pc = x.sr.trapVec &&& ~~~63#64 ∧ y.readyAt = s.cycle + 4 ∧ y.sr.priv.toNat = max 1 x.sr.priv.toNat
        ∧ (y.sr.dlyPend = if x.xfer = .none then 0 else 1) ∧ (∀ a r, x.xfer = .goto a r → y.sr.trapTgt = a) ∧ (x.xfer = .retr → y.sr.trapTgt = x.link)
        ∧ (x.xfer = .none → y.sr.trapTgt = x.sr.trapTgt)
        ∧ y.shadow.occupied = true ∧ y.shadow.q = x.q ∧ y.shadow.c = x.c ∧ y.shadow.m = x.m ∧ y.shadow.repCnt = x.sr.repCnt
        ∧ y.shadow.repStep = x.sr.repStep ∧ y.shadow.priv = x.sr.priv ∧ y.shadow.xfer = x.xfer ∧ y.shadow.rep = x.rep
        ∧ y.xfer = .none ∧ y.rep = .off ∧ y.transfer = false
        ∧ { y with shadow := x.shadow, sr := x.sr, pc := x.pc, xfer := x.xfer, rep := x.rep, transfer := x.transfer, readyAt := x.readyAt } = x
        ∧ (∀ n c, n ≠ core ∨ c ≠ ctx → t.ctx n c = s.ctx n c) ∧ t.agenda = s.agenda ∧ SameMemory s t

/-- R51, R126, R369: a trap at supervisor level while one is open kills the task with class DOUBLE, and one of a job without a handler with
its own class: the context is idle, a report is on its way to the fault ring, what its log had not sent is gone, and its job fails. -/
def UntakenTrapKillsRule : Prop :=
  ∀ (s : State) (core ctx : Nat) (x : Ctx) (e : TrapInfo) (pc : Word) (j : Job),
    x.inRoutine = false → (s.core core).group = none → s.job x.record.job = some j → j.fail = false →
      let double := 1 ≤ x.sr.priv.toNat ∧ x.shadow.occupied = true
      (double ∨ x.sr.trapVec = 0) →
      let cls := if 1 ≤ x.sr.priv.toNat ∧ x.shadow.occupied = true then 0x10 else e.cls
      let t := s.takeTrap core ctx x e pc
      (t.ctx core ctx).status = .idle ∧ (∀ l, l ∈ (t.ctx core ctx).log → l.sent = true) ∧ (t.ctx core ctx).loads = []
        ∧ (∃ d r, d ∈ t.agenda ∧ d.ev = .faultRecordWrite r ∧ r.word0.toNat % 65536 = cls % 65536 ∧ r.word3 = pc ∧ r.word4 = e.addr)
        ∧ (∃ k, t.job x.record.job = some k ∧ k.fail = true ∧ k.cls = cls)
        ∧ (∀ n c, n ≠ core ∨ c ≠ ctx → t.ctx n c = s.ctx n c) ∧ SameMemory s t

/-- R127: TRAP takes the trap TRAP, its code the subcode, from the state that its bundle leaves, with TRAPPC at the bundle after its own; ERET
restores the queue, predicates, masks, repeat and level from the shadow and resumes at TRAPPC, first through the delay bundle where DLYPEND
is 1, after which it goes to TRAPTGT, by the call or return that was pending where one was; both leave the program counter as they set it. -/
def TrapAndReturnRule : Prop :=
  (∀ (f : CF) (s : State), s.me.inRoutine = false → s.me.sr.trapVec ≠ 0 → (s.me.sr.priv = 0 ∨ s.me.shadow.occupied = false) →
    ∃ t, exec (.trap f) s = .next t ∧ t.issue.jump = true ∧ t.me.sr.trapCode.toNat = f.imm.toNat % 65536 * 65536 + 0xF
      ∧ t.me.sr.trapPc = s.issue.pc + 64 ∧ t.me.sr.trapAddr = 0 ∧ t.me.pc = s.me.sr.trapVec &&& ~~~63#64 ∧ t.me.readyAt = s.cycle + 4
      ∧ t.me.sr.priv.toNat = max 1 s.me.sr.priv.toNat ∧ t.me.shadow.q = s.me.q ∧ t.me.shadow.priv = s.me.sr.priv ∧ t.me.reg = s.me.reg
      ∧ (∀ n c, n ≠ s.issue.core ∨ c ≠ s.issue.ctx → t.ctx n c = s.ctx n c) ∧ t.agenda = s.agenda ∧ SameMemory s t)
  ∧ (∀ s : State, ∃ t, exec .eret s = .next t ∧ t.issue.jump = true ∧
    let x := s.me
    let y := t.me
    let tgt := x.sr.trapTgt &&& ~~~63#64
    y.pc = x.sr.trapPc &&& ~~~63#64 ∧ y.readyAt = s.cycle + 4 ∧ y.shadow = .empty ∧ y.sr.dlyPend = 0
      ∧ (x.shadow.occupied = true → y.q = x.shadow.q ∧ y.c = x.shadow.c ∧ y.m = x.shadow.m ∧ y.sr.repCnt = x.shadow.repCnt
          ∧ y.sr.repStep = x.shadow.repStep ∧ y.sr.priv = x.shadow.priv)
      ∧ (x.shadow.occupied = false → y.q = x.q ∧ y.c = x.c ∧ y.m = x.m ∧ y.sr.priv = x.sr.priv)
      ∧ (x.sr.dlyPend.getLsbD 0 = false → y.xfer = .none)
      ∧ (x.sr.dlyPend.getLsbD 0 = true →
          (x.shadow.xfer = .none ∨ (∃ a r, x.shadow.xfer = .goto a r) → y.xfer = .goto tgt 0)
            ∧ (x.shadow.xfer = .retr → y.xfer = .retr ∧ y.link = tgt)
            ∧ (∀ r e v b, x.shadow.xfer = .callr r e v b → y.xfer = .callr r e v tgt))
      ∧ (x.sr.dlyPend.getLsbD 0 = false ∨ x.shadow.xfer ≠ .retr → y.link = x.link)
      ∧ y.reg = x.reg ∧ y.f = x.f ∧ y.log = x.log
      ∧ (∀ n c, n ≠ s.issue.core ∨ c ≠ s.issue.ctx → t.ctx n c = s.ctx n c) ∧ t.agenda = s.agenda ∧ SameMemory s t)

/-- R51, R65, R89, R126: what taking a trap does outside a routine, where a handler is named and no trap of supervisor code is open: TRAPCODE
takes class and subcode, TRAPPC the address, TRAPADDR its own; the shadow keeps the queue, predicates, masks, repeat and level; the
level is at least 1, and the handler's first bundle issues four cycles later. A delay bundle's trap sets DLYPEND and keeps its target
in TRAPTGT. Named registers, f entries, link and memory stay.
R51, R126, R369: a trap at supervisor level while one is open kills the task with class DOUBLE, and one of a job without a handler with
its own class: the context is idle, a report is on its way to the fault ring, what its log had not sent is gone, and its job fails.
R127: TRAP takes the trap TRAP, its code the subcode, from the state that its bundle leaves, with TRAPPC at the bundle after its own; ERET
restores the queue, predicates, masks, repeat and level from the shadow and resumes at TRAPPC, first through the delay bundle where DLYPEND
is 1, after which it goes to TRAPTGT, by the call or return that was pending where one was; both leave the program counter as they set it. -/
def Obligations.TrapsTakenOrFatal : Prop := TrapIsTakenRule ∧ UntakenTrapKillsRule ∧ TrapAndReturnRule

/-! ## The M class -/

/-- R226, R227: the effective address of an M-class access of n bytes is base plus index plus the offset, stepped in a repetition, in units
of min(n, 64), modulo 2^64 and rounded down to such a unit. Poison in it kills the task, and a window access that crosses the window's end
traps RANGE SPAN. -/
def EffectiveAddressRule : Prop :=
  ∀ (f : MF) (s : State),
    let n := sizeBytes f.size
    let u := min n 64
    let b := s.readS f.base .i64
    let i := s.readS f.index .i64
    let a := s.effAddr f.base f.index f.off n
    let span := Host.Outcome.next (s.slotTrap ⟨7, 2, a.1⟩)
    (f.size.toNat < 6 → n = [1, 2, 4, 8, 64, 256].getD f.size.toNat 0)
      ∧ (∃ (w : Nat) (k : Int), w < 2 ^ 64 ∧ a.1.toNat = w / u * u
          ∧ (w : Int) = b.1.toInt + i.1.toInt + (f.off.toInt + ((s.issue.rep : Int) - 1) * s.issue.ostr) * (u : Int) + 2 ^ 64 * k)
      ∧ (a.2 = true ↔ b.2 = true ∨ i.2 = true)
      ∧ (s.safe → a.2 = true → exec (.ld f) s = .next (s.slotKill 1) ∧ exec (.ldv f) s = .next (s.slotKill 1)
          ∧ exec (.st f) s = .next (s.slotKill 1) ∧ exec (.stv f) s = .next (s.slotKill 1))
      ∧ (s.safe → a.2 = false → a.1.toNat < 0x100000 → 0x100000 < a.1.toNat + n →
          exec (.ld f) s = span ∧ exec (.ldv f) s = span ∧ exec (.st f) s = span ∧ exec (.stv f) s = span)

/-- R160, R164, R200, R205, R229: LD and LDV of the window yield its bytes, zero-extended, with the poison of every word read, six cycles after
issue and later while a bank that they need is taken. An engine-owned tile traps TILEOWN with the address, and a tile that is still
written, or about to be given to the threads, stalls the bundle. -/
def WindowLoadsRule : Prop :=
  ∀ (f : MF) (s : State),
    let n := sizeBytes f.size
    let a := s.effAddr f.base f.index f.off n
    let b := a.1.toNat
    let core := s.issue.core
    let k := s.core core
    let yields (i : Instr) (P : Val → Prop) : Prop :=
      ∃ u t w v, exec i s = .next t ∧ (∃ g, u = s.updCore core (fun k => { k with banks := g }))
        ∧ (k.banksFree s.cycle (tilesOf b n) = true → w = 0)
        ∧ Yields u t (6 + w) (isPort f.base || isPort f.index) v (s.dst f.dst) .none ∧ P v
    s.safe → a.2 = false → b + n ≤ 0x100000 →
      (Memory.wf k.sp = true → k.meets s.cycle b n false = .ok →
        (f.size.toNat < 4 → yields (.ld f) (fun v => v.vec = false ∧ v.word.toNat < 256 ^ n ∧ v.sp = tget k.spPoison false (b / 8)
            ∧ ∀ j, j < n → BitVec.ofNat 8 (v.word.toNat / 256 ^ j) = s.byteIn (.pad core) (b + j)))
        ∧ (f.size = 4 ∨ f.size = 5 → yields (.ldv f) (fun v => v.vec = true ∧ v.bits.toNat < 256 ^ n
            ∧ (∀ j, j < n → BitVec.ofNat 8 (v.bits.toNat / 256 ^ j) = s.byteIn (.pad core) (b + j))
            ∧ ∀ j, j < 32 → v.poison.getLsbD j = (decide (j < n / 8) && tget k.spPoison false (b / 8 + j)))))
      ∧ (∀ o, k.meets s.cycle b n false = .own o →
          exec (.ld f) s = .next (s.slotTrap ⟨4, 0, BitVec.ofNat 64 o⟩) ∧ exec (.ldv f) s = .next (s.slotTrap ⟨4, 0, BitVec.ofNat 64 o⟩))
      ∧ (k.meets s.cycle b n false = .wait → exec (.ld f) s = .next s.slotStall ∧ exec (.ldv f) s = .next s.slotStall)

/-- R166, R200, R205, R229, R370: ST and STV of the window store the low n bytes of their data at the address, and the poison of the words they
touch, a whole word taking that of the data and a part of one joining it; every other byte of every memory, every context, and, where nothing
subscribes to the core's window, all else but the bank's grant stays. Beside a T slot that checks markers the store is kept for it to make.
TILEOWN and stalls are as for loads.
Choices of the model that it rests on: log entry 75. -/
def WindowStoresRule : Prop :=
  ∀ (f : MF) (s : State),
    let n := sizeBytes f.size
    let a := s.effAddr f.base f.index f.off n
    let b := a.1.toNat
    let core := s.issue.core
    let k := s.core core
    let stores (i : Instr) (d : Nat) (p : Nat → Bool) : Prop :=
      ∃ t, exec i s = .next t
        ∧ (∀ j, j < n → t.byteIn (.pad core) (b + j) = BitVec.ofNat 8 (d / 256 ^ j))
        ∧ (∀ m x, ¬ (m = .pad core ∧ b ≤ x ∧ x < b + n) → t.byteIn m x = s.byteIn m x)
        ∧ (∀ w, tget (t.core core).spPoison false w = if b / 8 ≤ w ∧ w ≤ (b + n - 1) / 8 then p w else tget k.spPoison false w)
        ∧ (∀ e c, t.ctx e c = s.ctx e c)
        ∧ (k.fwds = [] → (∃ g, { t.core core with sp := k.sp, spPoison := k.spPoison } = { k with banks := g })
            ∧ { t with cores := s.cores } = s ∧ ∀ e, e ≠ core → t.core e = s.core e)
    let kept (w : SpWrite) : Host.Outcome State Fault Refusal := .next { s with issue := { s.issue with spw := some w } }
    let d := s.readS f.data .i64
    let v := s.readV f.data .i64
    a.2 = false → b + n ≤ 0x100000 →
      (k.meets s.cycle b n true = .ok → s.issue.checks = false →
        (f.size.toNat < 4 → stores (.st f) d.1.toNat (fun w => d.2 || (decide (n < 8) && tget k.spPoison false w)))
        ∧ (f.size = 4 ∨ f.size = 5 → stores (.stv f) v.1.toNat (fun w => v.2.getLsbD (w - b / 8))))
      ∧ (k.meets s.cycle b n true = .ok → s.issue.checks = true →
        exec (.st f) s = kept ⟨b, n, d.1.toNat % 256 ^ n, if d.2 then 1 else 0⟩
        ∧ exec (.stv f) s = kept ⟨b, n, v.1.toNat % 256 ^ n, v.2.toNat % 2 ^ (n / 8)⟩)
      ∧ (∀ o, k.meets s.cycle b n true = .own o →
          exec (.st f) s = .next (s.slotTrap ⟨4, 0, BitVec.ofNat 64 o⟩) ∧ exec (.stv f) s = .next (s.slotTrap ⟨4, 0, BitVec.ofNat 64 o⟩))
      ∧ (k.meets s.cycle b n true = .wait → exec (.st f) s = .next s.slotStall ∧ exec (.stv f) s = .next s.slotStall)

/-- R160, R164, R200, R205, R229: LD and LDV of the window yield its bytes, zero-extended, with the poison of every word read, six cycles after
issue and later while a bank that they need is taken. An engine-owned tile traps TILEOWN with the address, and a tile that is still
written, or about to be given to the threads, stalls the bundle.
R166, R200, R205, R229, R370: ST and STV of the window store the low n bytes of their data at the address, and the poison of the words they
touch, a whole word taking that of the data and a part of one joining it; every other byte of every memory, every context, and, where nothing
subscribes to the core's window, all else but the bank's grant stays. Beside a T slot that checks markers the store is kept for it to make.
TILEOWN and stalls are as for loads.
Choices of the model that it rests on: log entry 75. -/
def Obligations.WindowAccesses : Prop := WindowLoadsRule ∧ WindowStoresRule

/-- R203: what the range sets make of a shared access: the lowest enabled set that holds its first byte serves it, MISS 1 where none
does; beyond that set's end it is SPAN 2, without the permission PERM 3; and the IA is the address's offset in the set added to the set's base,
in 57 bits. LD, LDV, ST and STV trap RANGE with that subcode. -/
def RangeChecksRule : Prop :=
  (∀ (rng : Tbl Word) (a n : Nat) (nd : Need),
    let w (i j : Nat) : Nat := (tget rng 0 (4 * i + j)).toNat
    let holds (i : Nat) : Prop := i < 8 ∧ (w i 3).testBit 0 = true ∧ w i 0 ≤ a ∧ a < w i 1
    ((∀ i, ¬ holds i) → rangeXl rng a n nd = .error 1)
      ∧ ∀ i, holds i → (∀ j, j < i → ¬ holds j) →
          (w i 1 < a + n → rangeXl rng a n nd = .error 2)
          ∧ (a + n ≤ w i 1 →
              let denied := (nd.x = true ∧ (w i 3).testBit 3 = false) ∨ (nd.w = true ∧ (w i 3).testBit 2 = false)
                ∨ (nd.r = true ∧ (w i 3).testBit 1 = false)
              (denied → rangeXl rng a n nd = .error 3)
              ∧ (¬ denied → a - w i 0 + w i 2 < 2 ^ 57 → ∃ x, rangeXl rng a n nd = .ok x ∧ x.ia = a - w i 0 + w i 2
                  ∧ x.asid = w i 3 / 2 ^ 16 % 2 ^ 12 ∧ x.gen = w i 3 / 2 ^ 28 % 2 ^ 4 ∧ (x.host = true ↔ (w i 3).testBit 5 = true)
                  ∧ (x.rmt = true ↔ (w i 3).testBit 47 = true) ∧ x.pkg = w i 3 / 2 ^ 48 % 2 ^ 10)))
  ∧ (∀ (f : MF) (s : State) (e : Nat),
    let n := sizeBytes f.size
    let a := s.effAddr f.base f.index f.off n
    let trap := Host.Outcome.next (s.slotTrap ⟨7, e, a.1⟩)
    s.safe → a.2 = false → 0x100000 ≤ a.1.toNat →
      (rangeXl s.start.sr.rng a.1.toNat n needR = .error e → exec (.ld f) s = trap ∧ exec (.ldv f) s = trap)
      ∧ (rangeXl s.start.sr.rng a.1.toNat n needW = .error e → exec (.st f) s = trap ∧ exec (.stv f) s = trap))

/-- R226, R227: the effective address of an M-class access of n bytes is base plus index plus the offset, stepped in a repetition, in units
of min(n, 64), modulo 2^64 and rounded down to such a unit. Poison in it kills the task, and a window access that crosses the window's end
traps RANGE SPAN.
R203: what the range sets make of a shared access: the lowest enabled set that holds its first byte serves it, MISS 1 where none
does; beyond that set's end it is SPAN 2, without the permission PERM 3; and the IA is the address's offset in the set added to the set's base,
in 57 bits. LD, LDV, ST and STV trap RANGE with that subcode. -/
def Obligations.AddressesAndRanges : Prop := EffectiveAddressRule ∧ RangeChecksRule

/-- R207, R209, R213, R229: LD and LDV of shared memory reserve their entry, whatever they meet. An access in one line that the view holds,
with no store of the core to it in its log, yields the view's bytes 14 cycles after issue; one that it does not hold asks the line's home. The
home answers a read with the line, in three flits, or with its fault, its bank serving one request in a cycle and the next ones a cycle later; and the line that comes is what the load that waits for it
yields, at once.
Choices of the model that it rests on: log entries 13 and 17. -/
def Obligations.SharedLoads : Prop :=
  (∀ (f : MF) (s : State) (x : Xl) (vec : Bool),
    let n := sizeBytes f.size
    let a := s.effAddr f.base f.index f.off n
    let i := s.issue
    let k := s.core i.core
    let line := xlAt x (x.ia / 64 * 64)
    let op : Instr := if vec = true then .ldv f else .ld f
    s.safe → a.2 = false → s.place a.1.toNat n needR true = .shared x →
      (∃ t, exec op s = .next t ∧ Reserves s t vec ∧ Others s t i.core i.ctx ∧ SameMemory s t)
      ∧ (x.ia % 64 + n ≤ 64 → x.ia % 64 = a.1.toNat % 64 → x.host = false → isCtl x.ia = false → k.seenLog i.ctx = [] →
          (∀ w l, vec = true ∨ n ≤ 8 → k.viewFind line = some (w, l) → ∃ t v, exec op s = .next t ∧ v.vec = vec
            ∧ ⟨s.cycle + 14 + (if (isPort f.base || isPort f.index) = true then 3 else 0), rkResult, i.core,
                .resultProduced ⟨i.core, i.ctx, s.me.epoch, s.me.nextId, v, s.dst f.dst, .none⟩⟩ ∈ t.agenda
            ∧ ∀ j, j < n → BitVec.ofNat 8 (v.bits.toNat / 256 ^ j) = l.data.extractLsb' (8 * (x.ia % 64 + j)) 8)
          ∧ (∀ path extra u, k.viewFind line = none → s.refused = [] → s.me.loads = [] → s.routeOf i.core line = (.ok (path, extra), u) →
              ∃ t r, exec op s = .next t ∧ Sends u t path (.bayReadRequest r) ∧ r.core = i.core ∧ r.ctx = i.ctx ∧ r.epoch = s.me.epoch
                ∧ r.xl = line ∧ r.path = path)))
  ∧ (∀ (r : ReadReq) (s u : State),
    let taken := s.useBank (pathBay r.path) r.xl
    r.via = none → r.replay = false → s.refused = [] → s.mustWalk (pathBay r.path) r.xl = false → s.bankFree (pathBay r.path) r.xl = true → u.safe →
      (∀ v d, taken.homeRead (pathBay r.path) r.xl needR false r.priv = (.ok (v, d), u) →
        ∃ t, exec (.bayReadRequest r) s = .next t
          ∧ Sends u t (replyPath r.path) (.viewFillArrival ⟨r, v.1, v.2, 0, u.seqOf (pathBay r.path / 16)⟩) ∧ { t with gust := u.gust } = u)
      ∧ (∀ e, taken.homeRead (pathBay r.path) r.xl needR false r.priv = (.error e, u) →
        ∃ t, exec (.bayReadRequest r) s = .next t
          ∧ Sends u t (replyPath r.path) (.viewFillArrival ⟨r, 0, 0, e, u.seqOf (pathBay r.path / 16)⟩) ∧ { t with gust := u.gust } = u))
  ∧ (∀ (r : ReadReq) (s : State), r.via = none → s.safe → s.refused = [] → s.mustWalk (pathBay r.path) r.xl = false →
      s.bankFree (pathBay r.path) r.xl = false →
    exec (.bayReadRequest r) s = .next { s with agenda := s.agenda ++ [⟨s.cycle + 1, rkHome, s.unit, .bayReadRequest r⟩] })
  ∧ (∀ (p : FillP) (s : State) (l : PendLoad),
    let r := p.req
    let x := s.ctx r.core r.ctx
    r.eng = none → p.fault = 0 → x.epoch = r.epoch → x.loads = [l] → l.num = r.load → l.asked = .empty → l.block = none → l.spawn = none →
      l.overlay = [] → l.lines = .empty →
      l.xls = [xlAt r.xl (r.xl.ia / 64 * 64)] → l.va % 64 + l.size ≤ 64 →
      ∃ t v, exec (.viewFillArrival p) s = .next t ∧ v.vec = l.vec ∧ (t.ctx r.core r.ctx).loads = []
        ∧ t.agenda = s.agenda ++ [⟨s.cycle + (if l.port = true then 3 else 0), rkResult, r.core,
            .resultProduced ⟨r.core, r.ctx, x.epoch, l.id, v, l.dst, .none⟩⟩]
        ∧ (∀ j, j < l.size → (l.vec = true ∨ l.size ≤ 8) →
            BitVec.ofNat 8 (v.bits.toNat / 256 ^ j) = p.data.extractLsb' (8 * (l.va % 64 + j)) 8)
        ∧ Others s t r.core r.ctx ∧ SameMemory s t)

/-- R209, R214, R229: ST and STV of shared memory put every byte of their data into an entry of the context's segment that no drain has taken,
a line at a time, coalescing or opening an entry, of which LOGTAIL counts those opened; no memory changes. Without room for the entries that
they would open they block, and poisoned data for host memory kills the task. -/
def SharedStoresRule : Prop :=
  ∀ (f : MF) (s : State) (x : Xl),
    let n := sizeBytes f.size
    let a := s.effAddr f.base f.index f.off n
    let i := s.issue
    let opened := s.me.opens (lineXls x n)
    let stores (op : Instr) (d : Nat) (p : Bool) : Prop :=
      (x.host = true → p = true → exec op s = .next (s.slotKill 3))
      ∧ (x.host = false ∨ p = false →
          ((s.core i.core).logRoom opened = true → ∃ t, exec op s = .next t
            ∧ (∀ j, j < n → ∃ e, e ∈ t.me.log ∧ e.sent = false ∧ e.w.xl.ia / 64 = (x.ia + j) / 64
                ∧ e.w.mask.getLsbD ((x.ia + j) % 64) = true
                ∧ e.w.data.extractLsb' (8 * ((x.ia + j) % 64)) 8 = BitVec.ofNat 8 (d / 256 ^ j))
            ∧ t.me.log.length = s.me.log.length + opened ∧ t.me.sr.logTail = s.me.sr.logTail + BitVec.ofNat 64 opened
            ∧ { t.me with log := s.me.log, sr := { t.me.sr with logTail := s.me.sr.logTail } } = s.me
            ∧ Others s t i.core i.ctx ∧ { t with cores := s.cores } = s ∧ SameMemory s t)
          ∧ ((s.core i.core).logRoom opened = false → s.start.det = false → exec op s = .next (s.slotBlock (.logRoom opened))))
    a.2 = false → s.place a.1.toNat n needW true = .shared x →
      (f.size.toNat < 4 → stores (.st f) (s.readS f.data .i64).1.toNat (s.readS f.data .i64).2)
      ∧ (f.size = 4 ∨ f.size = 5 → stores (.stv f) (s.readV f.data .i64).1.toNat
          (decide ((s.readV f.data .i64).2.toNat % 2 ^ (n / 8) ≠ 0)))

/-- R210, R211, R227, R230, R231: LDB of 1 to 64 lines with a free tag reserves its token: all lines in the view, it is produced 14 cycles after issue, and
else it waits for the lines that are not, the last of which produces 1. DISC takes its lines out of the core's view, and DISC.HOME also
stores zeros to every byte of them. A count out of range traps OPND, an address in the window traps RANGE MISS, and poison in the address or
the count kills the task.
Choices of the model that it rests on: log entry 20. -/
def Obligations.LoadBlocksAndDiscards : Prop :=
  (∀ (f : MF) (s : State) (x : Xl),
    let a := s.effAddr f.base f.index f.off 64
    let d := s.readS f.data .i64
    let n := d.1.toNat
    let i := s.issue
    let k := s.core i.core
    let xls := lineXls x (64 * n)
    let absent := xls.filter (fun y => isCtl y.ia || (k.viewFind y).isNone)
    a.2 = false → d.2 = false → 1 ≤ n → n ≤ 64 →
      (s.safe → s.place a.1.toNat (64 * n) needR false = .shared x → x.host = false → k.blocks.length < 32 →
        ∃ t, exec (.ldb f) s = .next t ∧ Reserves s t false ∧ Others s t i.core i.ctx ∧ SameMemory s t
          ∧ (absent = [] → ⟨s.cycle + 14 + (if (isPort f.base || isPort f.index || isPort f.data) = true then 3 else 0), rkResult, i.core,
              .resultProduced ⟨i.core, i.ctx, s.me.epoch, s.me.nextId, .scalar 1 false, s.dst f.dst, .none⟩⟩ ∈ t.agenda)
          ∧ (absent ≠ [] → ∃ l b, t.me.loads = s.me.loads ++ [l] ∧ l.id = s.me.nextId ∧ l.xls = absent ∧ l.block = some b.tag
              ∧ b ∈ (t.core i.core).blocks ∧ b.id = s.me.nextId ∧ b.missing = absent.length))
      ∧ (s.place a.1.toNat (64 * n) needNone false = .shared x →
          ∃ t, exec (.disc f) s = .next t ∧ (x.host = false → ∀ y, y ∈ xls → (t.core i.core).viewFind y = none)
            ∧ (∀ e c, t.ctx e c = s.ctx e c) ∧ { t with cores := s.cores } = s ∧ SameMemory s t)
      ∧ (s.place a.1.toNat (64 * n) needW false = .shared x → k.logRoom (s.me.opens xls) = true →
          ∃ t, exec (.discHome f) s = .next t ∧ (x.host = false → ∀ y, y ∈ xls → (t.core i.core).viewFind y = none)
            ∧ (∀ j, j < 64 * n → ∃ e, e ∈ t.me.log ∧ e.sent = false ∧ e.w.xl.ia / 64 = (x.ia + j) / 64
                ∧ e.w.mask.getLsbD ((x.ia + j) % 64) = true ∧ e.w.data.extractLsb' (8 * ((x.ia + j) % 64)) 8 = 0)
            ∧ t.me.log.length = s.me.log.length + s.me.opens xls ∧ t.me.q = s.me.q ∧ t.me.reg = s.me.reg
            ∧ Others s t i.core i.ctx ∧ { t with cores := s.cores } = s ∧ SameMemory s t)
      ∧ (s.safe → a.1.toNat < 0x100000 → exec (.ldb f) s = .next (s.slotTrap ⟨7, 1, a.1⟩)
          ∧ exec (.disc f) s = .next (s.slotTrap ⟨7, 1, a.1⟩) ∧ exec (.discHome f) s = .next (s.slotTrap ⟨7, 1, a.1⟩)))
  ∧ (∀ (f : MF) (s : State),
    let opnd := Host.Outcome.next (s.slotTrap ⟨2, 4, BitVec.ofNat 64 s.issue.slot⟩)
    let kill := Host.Outcome.next (s.slotKill 1)
    let d := s.readS f.data .i64
    let a := s.effAddr f.base f.index f.off 64
    (a.2 = true ∨ d.2 = true → exec (.ldb f) s = kill ∧ exec (.disc f) s = kill ∧ exec (.discHome f) s = kill)
      ∧ (a.2 = false → d.2 = false → d.1.toNat = 0 ∨ 64 < d.1.toNat →
          exec (.ldb f) s = opnd ∧ exec (.disc f) s = opnd ∧ exec (.discHome f) s = opnd))

/-- R215, R217, R233: DRAIN and LPUB begin a drain: it takes the next value of the die's counter, and every entry of the segment that no drain has
taken is on its way with the key of that value, the package, the die, the core and its position. LPUB counts the segment's lines as published. An
acknowledged entry leaves the segment, and with the last one a DRAIN completes, the next bundle issuing no earlier than the next cycle.
Choices of the model that it rests on: log entry 63. -/
def DrainsSendTheLogRule : Prop :=
  (∀ (f : MF) (s : State) (x : Xl),
    let i := s.issue
    let die := i.core / 128
    let n := tget s.seq 0 die + 1
    let drains (t : State) : Prop :=
      t.me.log = s.me.log.map (fun e =>
          if e.sent = false ∧ e.epoch = s.me.epoch then { e with sent := true, key := ⟨n, s.pkgId, die, i.core, e.pos⟩ } else e)
        ∧ tget t.seq 0 die = n ∧ t.me.reg = s.me.reg ∧ t.me.q = s.me.q ∧ t.me.sr = s.me.sr ∧ Others s t i.core i.ctx ∧ SameMemory s t
    let a := s.effAddr f.base f.index f.off 8
    s.me.ops = [] → s.me.atoms = 0 → s.me.det = false → s.start.det = false →
      (∃ t, exec .drain s = .next t ∧ drains t ∧ t.me.pubPos = s.me.pubPos)
      ∧ (a.2 = false → s.place a.1.toNat 8 needW false = .shared x → ∃ t, exec (.lpub f) s = .next t ∧ drains t
          ∧ t.me.pubPos = s.me.pubPos + (s.me.log.filter (fun e => e.epoch == s.me.epoch)).length
          ∧ (∃ o, o ∈ t.me.ops ∧ o.kind = .lpub f.scope.toNat x)))
  ∧ (∀ (core ctx epoch pos : Nat) (s : State), ctx < 4 → pos < 2 ^ 60 → (∀ c, (s.ctx core c).ops = []) → (s.ctx core ctx).epoch = epoch →
    ∃ t, exec (.logAck core ctx epoch pos) s = .next t
      ∧ (t.ctx core ctx).log = (s.ctx core ctx).log.filter (fun e => e.epoch != epoch || e.pos != pos)
      ∧ { t.ctx core ctx with log := (s.ctx core ctx).log } = s.ctx core ctx ∧ Others s t core ctx ∧ t.agenda = s.agenda ∧ SameMemory s t)
  ∧ (∀ (core ctx pos num upto : Nat) (e : LogEnt) (s : State),
    let x := s.ctx core ctx
    ctx < 4 → pos < 2 ^ 60 → (∀ c, c ≠ ctx → (s.ctx core c).ops = []) → x.ops = [⟨num, .drain, true, upto, false⟩] → x.log = [e] → e.epoch = x.epoch →
      e.pos = pos → (s.core core).side = [] →
      ∃ t, exec (.logAck core ctx x.epoch pos) s = .next t ∧ (t.ctx core ctx).ops = [] ∧ (t.ctx core ctx).log = []
        ∧ s.cycle + 1 ≤ (t.ctx core ctx).readyAt ∧ (t.ctx core ctx).reg = x.reg ∧ Others s t core ctx ∧ SameMemory s t)

/-- R209, R214, R229: ST and STV of shared memory put every byte of their data into an entry of the context's segment that no drain has taken,
a line at a time, coalescing or opening an entry, of which LOGTAIL counts those opened; no memory changes. Without room for the entries that
they would open they block, and poisoned data for host memory kills the task.
R215, R217, R233: DRAIN and LPUB begin a drain: it takes the next value of the die's counter, and every entry of the segment that no drain has
taken is on its way with the key of that value, the package, the die, the core and its position. LPUB counts the segment's lines as published. An
acknowledged entry leaves the segment, and with the last one a DRAIN completes, the next bundle issuing no earlier than the next cycle.
Choices of the model that it rests on: log entry 63. -/
def Obligations.SharedStoresAndDrains : Prop := SharedStoresRule ∧ DrainsSendTheLogRule

/-- R215, R217: at its home a drained entry's bytes are applied where its key is higher than that of the last write to the byte, which takes
it, and the entry is acknowledged; a publication word is written whole, 8 bytes of the position, the package, the core and the context of
its writer, and acknowledged. -/
def EntriesAndWordsAtHomeRule : Prop :=
  (∀ (p : LogPkt) (s u : State) (fd : Found) (d : Nat),
    let x := p.w.xl
    let bay := pathBay p.path
    let takes (j : Nat) : Bool := p.w.mask.getLsbD j && (match tget s.keys none (fd.place.keyAt j) with | none => true | some o => keyLt o p.key)
    x.host = false → x.rmt = false → isCtl x.ia = false → p.replay = false → p.host = false → p.via = none → p.eng = none →
      (s.useBank bay x).parksBehind p.core x.ia = false → s.mustWalk bay x = false → s.bankFree bay x = true → (s.useBank bay x).xlate bay x needW s.root = (.ok fd, d, u) → u.migrOf x.ia = none →
      u.lands fd.place → s.refused = [] → u.safe →
      ∃ t, exec (.logEntryArrival p) s = .next t ∧ Wrote s t fd.place takes (fun j => p.w.data.extractLsb' (8 * j) 8)
        ∧ (∀ j, j < 64 → tget t.keys none (fd.place.keyAt j) = if takes j = true then some p.key else tget s.keys none (fd.place.keyAt j))
        ∧ Sends s t (replyPath p.path) (.logAck p.core p.ctx p.epoch p.pos) ∧ ∀ n c, t.ctx n c = s.ctx n c)
  ∧ (∀ (core ctx : Nat) (s u : State) (w : Xl) (path : Path) (extra : Nat) (fd : Found) (d : Nat),
    let x := s.ctx core ctx
    let word := BitVec.ofNat 64 (x.pubPos * 2 ^ 32 + s.pkgId * 2 ^ 22 + core * 2 ^ 13 + ctx * 2 ^ 11)
    x.lpubOp = some w → w.host = false → w.rmt = false → isCtl w.ia = false → w.ia % 8 = 0 → (s.routeOf core w) = (.ok (path, extra), s) →
      s.mustWalk (pathBay path) w = false → s.bankFree (pathBay path) w = true →
      (s.useBank (pathBay path) w).xlate (pathBay path) w needW s.root = (.ok fd, d, u) → u.migrOf w.ia = none →
      u.lands fd.place → s.refused = [] → u.safe →
      ∃ t, exec (.publicationWrite core ctx x.epoch) s = .next t
        ∧ Wrote s t fd.place (fun j => decide (w.ia % 64 ≤ j) && decide (j < w.ia % 64 + 8))
            (fun j => word.extractLsb' (8 * (j - w.ia % 64)) 8)
        ∧ Sends s t (replyPath path) (.logAck core ctx x.epoch (2 ^ 62)) ∧ ∀ n c, t.ctx n c = s.ctx n c)

/-- R218, R233, R259, R261: LACQ asks the home of its first word, its context waiting. A word read takes its writer's position into the acquisition
table and out of the view: at position 0 nothing is replayed, and where the writer is not in the table every unpinned line leaves the view. A
replayed line comes into the view from its home, pinned, while fewer than 2,048 are and no drop of the line has come between; one whose home
faults is only dropped.
Choices of the model that it rests on: log entries 18 and 24. -/
def AcquireReplaysRule : Prop :=
  (∀ (f : MF) (s : State) (x : Xl) (xls : List Xl),
    let a := s.effAddr f.base f.index f.off 8
    let n := s.readS f.data .i64
    let i := s.issue
    a.2 = false → n.2 = false →
      (1 ≤ n.1.toNat → n.1.toNat ≤ 8 → s.wordXls a.1.toNat n.1.toNat = .ok (x :: xls) → s.me.ops = [] →
        ∃ t, exec (.lacq f) s = .next t ∧ t.me.wait = .mem ∧ t.me.reg = s.me.reg ∧ t.me.q = s.me.q ∧ t.me.sr = s.me.sr
          ∧ Others s t i.core i.ctx ∧ SameMemory s t
          ∧ ∀ path extra, s.refused = [] → s.routeOf i.core x = (.ok (path, extra), s) →
              Sends s t path (.lacqWordRead i.core i.ctx s.me.epoch n.1.toNat))
      ∧ (n.1.toNat = 0 ∨ 8 < n.1.toNat → exec (.lacq f) s = .next (s.slotTrap ⟨2, 4, BitVec.ofNat 64 i.slot⟩)))
  ∧ (∀ (core ctx num n : Nat) (s u : State) (w : Xl) (rest : List Xl) (path : Path) (extra d : Nat) (v : Line × BitVec 8),
    let x := s.ctx core ctx
    let bay := pathBay path
    let word := v.1.toNat / 256 ^ (w.ia % 64) % 2 ^ 64
    let pos := word / 2 ^ 32
    x.ops = [⟨num, .lacq (w :: rest) n, false, 0, true⟩] → s.routeOf core w = (.ok (path, extra), s) → s.refused = [] →
      s.mustWalk bay w = false → s.bankFree bay w = true →
      (s.useBank bay w).homeRead bay w needR false x.sr.priv.toNat = (.ok (v, d), u) → u.safe →
      (x.acq.find? (fun e => e.pkg == word / 2 ^ 22 % 2 ^ 10 && e.core == word / 2 ^ 13 % 2 ^ 9 && e.ctx == word / 2 ^ 11 % 4) = none ∨ pos = 0) →
      ∃ t e, exec (.lacqWordRead core ctx x.epoch (rest.length + 1)) s = .next t
        ∧ e ∈ (t.ctx core ctx).acq ∧ e.pos = pos ∧ e.pkg = word / 2 ^ 22 % 2 ^ 10 ∧ e.core = word / 2 ^ 13 % 2 ^ 9 ∧ e.ctx = word / 2 ^ 11 % 4
        ∧ (t.core core).viewFind w = none
        ∧ (pos ≠ 0 → ∀ k l, (t.core core).viewAt k = some l → l.pin ≠ [])
        ∧ (∃ c, t.agenda = u.agenda ++ [⟨c, rkCore, core, .logAck core ctx x.epoch (2 ^ 60 + 1)⟩])
        ∧ (t.ctx core ctx).reg = x.reg ∧ Others s t core ctx ∧ SameMemory s t)
  ∧ (∀ (core ctx epoch : Nat) (p : FillP) (num n : Nat) (s : State) (xls : List Xl),
    let r := p.req
    let x := xlAt r.xl (r.xl.ia / 64 * 64)
    let k := s.core core
    let c := k.ctx ctx
    c.ops = [⟨num, .lacq xls n, false, 0, true⟩] → c.epoch = epoch → n ≠ 1 → x.host = false → s.safe →
      ∃ t, exec (.replayRefill core ctx epoch p) s = .next t ∧ (t.ctx core ctx).reg = c.reg ∧ Others s t core ctx ∧ SameMemory s t
        ∧ (p.fault = 0 → k.mayKeep x r.view = true → k.pinCount < 2048 → k.victim x.ia ≠ none →
            ∃ way l, (t.core core).viewAt way = some l ∧ way / 16 = viewSet x.ia ∧ l.x = x ∧ l.data = p.data ∧ l.pin ≠ [])
        ∧ (p.fault ≠ 0 ∨ k.mayKeep x r.view = false → (t.core core).viewFind x = none))

/-- R215, R217: at its home a drained entry's bytes are applied where its key is higher than that of the last write to the byte, which takes
it, and the entry is acknowledged; a publication word is written whole, 8 bytes of the position, the package, the core and the context of
its writer, and acknowledged.
R218, R233, R259, R261: LACQ asks the home of its first word, its context waiting. A word read takes its writer's position into the acquisition
table and out of the view: at position 0 nothing is replayed, and where the writer is not in the table every unpinned line leaves the view. A
replayed line comes into the view from its home, pinned, while fewer than 2,048 are and no drop of the line has come between; one whose home
faults is only dropped.
Choices of the model that it rests on: log entries 18 and 24. -/
def Obligations.HomesAndAcquires : Prop := EntriesAndWordsAtHomeRule ∧ AcquireReplaysRule

/-- R216, R219, R227, R234, R235: ATOM and RED act at home. With nothing outstanding, whatever the order asked for, the request is on its way
with its operation, size, operands and their poison; an ATOM reserves its entry, and with acquire order its context waits for it; the core's
view line of the word is dropped. The window traps RANGE MISS, host memory RANGE PERM, and a poisoned address kills the task. -/
def AtomicsGoHomeRule : Prop :=
  ∀ (f : MF) (s : State) (i : Instr) (op : AtomOp) (atom : Bool),
    (i, op, atom) ∈ [(.atomAdd f, .add, true), (.atomFadd f, .fadd, true), (.atomMin f, .min, true), (.atomMax f, .max, true),
      (.atomAnd f, .and, true), (.atomOr f, .or, true), (.atomXor f, .xor, true), (.atomXchg f, .xchg, true), (.atomCas f, .cas, true),
      (.redAdd f, .add, false), (.redFadd f, .fadd, false), (.redMin f, .min, false), (.redMax f, .max, false)] →
    let wide := decide (f.size = 3)
    let n := if wide = true then 8 else 4
    let b := s.readS f.base .i64
    let e := s.readS f.index .i64
    let d := s.readS f.data .i64
    let a := (if op = .cas then b.1 else b.1 + e.1).toNat / n * n
    let poison := b.2 = true ∨ (op ≠ .cas ∧ e.2 = true)
    let core := s.issue.core
    (poison → exec i s = .next (s.slotKill 1))
      ∧ (¬ poison → a + n ≤ 0x100000 → exec i s = .next (s.slotTrap ⟨7, 1, BitVec.ofNat 64 a⟩))
      ∧ (∀ x, ¬ poison → s.place a n (if atom = true then needRW else needW) false = .shared x →
          (x.host = true → exec i s = .next (s.slotTrap ⟨7, 3, BitVec.ofNat 64 a⟩))
          ∧ (∀ path extra u, x.host = false → Quiet s → s.refused = [] → s.routeOf core x = (.ok (path, extra), u) →
              ∃ t r, exec i s = .next t ∧ Sends u t path (.bayAtomic r)
                ∧ r.op = op ∧ r.wide = wide ∧ r.d = d.1 ∧ r.e = e.1 ∧ r.poison = (d.2 || (decide (op = .cas) && e.2)) ∧ r.xl = x
                ∧ r.core = core ∧ r.ctx = s.issue.ctx ∧ r.epoch = s.me.epoch ∧ r.dst = s.dst f.dst
                ∧ r.id = (if atom = true then some s.me.nextId else none) ∧ (r.acquire = true ↔ atom = true ∧ f.ord.getLsbD 0 = true)
                ∧ t.me.q = (if atom = true then (⟨s.me.nextId, ⟨false, 0, 0⟩, false⟩ :: s.me.q).take 16 else s.me.q)
                ∧ t.me.wait = (if atom = true ∧ f.ord.getLsbD 0 = true then .acquire s.me.nextId else s.me.wait)
                ∧ t.me.atoms = 1 ∧ t.me.ops = [] ∧ (t.core core).viewFind x = none ∧ t.me.reg = s.me.reg ∧ t.me.sr = s.me.sr
                ∧ Others s t core s.issue.ctx ∧ SameMemory s t))

/-- R215, R234, R235: an atomic or a reduction at its home replaces its word alone, but for bytes on which a higher key stands, by the new value of
its operation, and an ATOM's reply brings the old one, zero-extended, with its poison; the issuer's view line is dropped. The new values are
those of the table of R234.
Choices of the model that it rests on: log entries 18 and 25. -/
def AtomicsAtHomeRule : Prop :=
  (∀ (r : AtomReq) (s u : State) (fd : Found) (c : Nat),
    let bay := pathBay r.path
    let i := r.xl.ia % 64
    let n := if r.wide = true then 8 else 4
    let v := u.readPlace bay fd.place
    let old := v.1.1.toNat / 256 ^ i % 256 ^ n
    let key := (u.raiseSeq (bay / 16) (coreDie r.core) r.seq).homeKey bay
    let stands (j : Nat) : Bool := (tget s.keys none (fd.place.keyAt j)).any (fun o => keyLt key o)
    r.xl.rmt = false → r.xl.host = false → isCtl r.xl.ia = false → r.via = none → r.det = false → r.replay = false → i % n = 0 →
      (r.id = none → (s.useBank bay r.xl).parksBehind r.core r.xl.ia = false) →
      s.mustWalk bay r.xl = false → s.bankFree bay r.xl = true →
      (s.useBank bay r.xl).xlate bay r.xl (if r.id.isSome = true then needRW else needW) s.root = (.ok fd, c, u) →
      u.migrOf r.xl.ia = none → v.2.2.lands fd.place → s.refused = [] → v.2.2.safe → s.upset (512 + bay) 15 = none →
      ∃ t, exec (.bayAtomic r) s = .next t
        ∧ Wrote s t fd.place (fun j => decide (i ≤ j) && decide (j < i + n) && !stands j)
            (fun j => BitVec.ofNat 8 (atomValue r.op r.wide old r.d.toNat r.e.toNat / 256 ^ (j - i)))
        ∧ (∀ id, r.id = some id → Sends s t (replyPath r.path) (.resultProduced ⟨r.core, r.ctx, r.epoch, id,
              .scalar (BitVec.ofNat 64 old) (v.1.2.getLsbD (i / 8)), r.dst, .none⟩))
        ∧ (r.id = none → t.gust = s.gust)
        ∧ (t.core r.core).viewFind r.xl = none)
  ∧ (∀ (wide : Bool) (o d e : Nat),
    let w := if wide = true then 64 else 32
    o < 2 ^ w → d < 2 ^ w → e < 2 ^ w →
      let int (x : Nat) : Int := if x < 2 ^ (w - 1) then (x : Int) else (x : Int) - 2 ^ w
      let bit (op : AtomOp) (g : Bool → Bool → Bool) : Prop := ∀ k, k < w → (atomValue op wide o d e).testBit k = g (o.testBit k) (d.testBit k)
      (atomValue .add wide o d e = if o + d < 2 ^ w then o + d else o + d - 2 ^ w)
        ∧ int (atomValue .min wide o d e) = min (int o) (int d) ∧ int (atomValue .max wide o d e) = max (int o) (int d)
        ∧ bit .and (fun a b => a && b) ∧ bit .or (fun a b => a || b) ∧ bit .xor (fun a b => a != b)
        ∧ atomValue .xchg wide o d e = d ∧ atomValue .cas wide o d e = (if o = e then d else o)
        ∧ atomValue .fadd wide o d e = fpAdd (if wide = true then .f64 else .f32) ⟨.rne, false, false, false⟩ o d)

/-- R216, R219, R227, R234, R235: ATOM and RED act at home. With nothing outstanding, whatever the order asked for, the request is on its way
with its operation, size, operands and their poison; an ATOM reserves its entry, and with acquire order its context waits for it; the core's
view line of the word is dropped. The window traps RANGE MISS, host memory RANGE PERM, and a poisoned address kills the task.
R215, R234, R235: an atomic or a reduction at its home replaces its word alone, but for bytes on which a higher key stands, by the new value of
its operation, and an ATOM's reply brings the old one, zero-extended, with its poison; the issuer's view line is dropped. The new values are
those of the table of R234.
Choices of the model that it rests on: log entries 18 and 25. -/
def Obligations.Atomics : Prop := AtomicsGoHomeRule ∧ AtomicsAtHomeRule

/-- R123, R417: a join at its block's home: a counter of 0 stays and the result is all ones; any other is written one lower, which is the
result, of a deterministic task 0; and the join that brings it to 0 also brings the block's record back, to be pushed as one of the joining
task's job, unless the record is malformed.
Choices of the model that it rests on: log entry 25. -/
def JoinCountsRule : Prop :=
  ∀ (j : JoinReq) (s u : State) (fd : Found) (c id : Nat),
    let bay := pathBay j.path
    let v := u.readPlace bay fd.place
    let old := v.1.1.toNat % 2 ^ 64
    let back := replyPath j.path
    let record : BitVec 256 := v.1.1.extractLsb' 256 256
    let result (w : Word) : Instr :=
      .resultProduced ⟨j.core, j.ctx, j.epoch, id, .scalar (if (s.ctx j.core j.ctx).det = true then 0 else w) false, j.dst, .none⟩
    let counts (t : State) : Prop := Wrote s t fd.place (fun k => decide (k < 8)) (fun k => BitVec.ofNat 8 ((old - 1) / 256 ^ k))
    j.id = some id → j.via = none → j.xl.rmt = false → isCtl j.xl.ia = false → s.refused = [] → s.mustWalk bay j.xl = false → s.bankFree bay j.xl = true →
      (s.useBank bay j.xl).xlate bay j.xl needRW s.root = (.ok fd, c, u) → u.migrOf j.xl.ia = none → v.2.2.lands fd.place → v.2.2.safe →
      s.merges = [] →
      (old = 0 → ∃ t, exec (.joinCounterDecrement j) s = .next t ∧ SameMemory s t ∧ Sends s t back (result (BitVec.allOnes 64)))
        ∧ (1 < old → ∃ t, exec (.joinCounterDecrement j) s = .next t ∧ counts t ∧ Sends s t back (result (BitVec.ofNat 64 (old - 1))))
        ∧ (old = 1 → malformedRecord record = false → ∃ t w, exec (.joinCounterDecrement j) s = .next t ∧ counts t
            ∧ Sends s w back (.spawnRecordPush j.core j.ctx j.epoch 2 ⟨record, j.va + 32, j.jobid, true⟩) ∧ Sends w t back (result 0))
        ∧ (old = 1 → malformedRecord record = true → ∃ t, exec (.joinCounterDecrement j) s = .next t ∧ counts t ∧ Sends s t back (result 0)
            ∧ ∃ d r, d ∈ t.agenda ∧ d.ev = .faultRecordWrite r ∧ r.word4 = BitVec.ofNat 64 (j.va + 32) ∧ r.word3 = j.pc)

/-- R123, R417: JOIN reserves its result, and, its drain being complete, sends the decrement of its join block, at the address in A rounded
down to 64 bytes, to the block's home. A block in the window or in host memory traps RANGE; a poisoned address kills the task.
R123, R417: a join at its block's home: a counter of 0 stays and the result is all ones; any other is written one lower, which is the
result, of a deterministic task 0; and the join that brings it to 0 also brings the block's record back, to be pushed as one of the joining
task's job, unless the record is malformed.
Choices of the model that it rests on: log entry 25. -/
def Obligations.Joins : Prop := JoinSendsDecrementRule ∧ JoinCountsRule

/-- R220 to R222, R237, R238, R390, R391: subscriptions. SUBS makes its entry in the lowest free number and asks the publisher, which makes the
forwarding entry and answers that number, or, full, answers −2 and the subscriber's entry goes; no free entry at the subscriber answers −1
and an overlap −3. A window that is still open after 32 cycles is sent; an update writes its masked bytes in the subscriber's scratchpad, or in its
saved image. UNSUB makes its context wait and the publisher remove the entry; the context goes on when no update is on its way. -/
def Obligations.Subscriptions : Prop :=
  (∀ (f : MF) (s : State),
    let a := s.readS f.base .i64
    let b := s.readS f.index .i64
    let d := s.readS f.data .i64
    let base := a.1.toNat
    let pbase := b.1.toNat
    let pub := d.1.toNat % 2 ^ 7
    let lines := d.1.toNat / 2 ^ 16 % 2 ^ 10 + 1
    let i := s.issue
    let k := s.core i.core
    let path := pathToCore s.ctl i.core (s.relCore i.core pub)
    let late := if (isPort f.base || isPort f.index || isPort f.data) = true then 3 else 0
    let overlaps := ∃ e, e ∈ k.subs ∧ e.base < base + 64 * lines ∧ base < e.base + 64 * e.lines
    let answers (v : Word) : Prop := ∃ t, exec (.subs f) s = .next t ∧ Reserves s t false ∧ Others s t i.core i.ctx ∧ SameMemory s t
      ∧ (t.core i.core).subs = k.subs ∧ t.agenda = s.agenda ++ [⟨s.cycle + (8 + 4 * pathHops path + late), rkResult, i.core,
          .resultProduced ⟨i.core, i.ctx, s.me.epoch, s.me.nextId, .scalar v false, s.dst f.dst, .none⟩⟩]
    (a.2 = true ∨ b.2 = true ∨ d.2 = true → exec (.subs f) s = .next (s.slotKill 1)) ∧
    (a.2 = false → b.2 = false → d.2 = false → base % 64 ≠ 0 ∨ pbase % 64 ≠ 0 ∨ 0x100000 < base + 64 * lines ∨ 0x100000 < pbase + 64 * lines
        ∨ s.groupSize i.core ≤ pub ∨ 2 ^ 26 ≤ d.1.toNat ∨ d.1.toNat / 2 ^ 7 % 2 ^ 9 ≠ 0 →
      exec (.subs f) s = .next (s.slotTrap ⟨2, 4, BitVec.ofNat 64 i.slot⟩)) ∧
    (a.2 = false → b.2 = false → d.2 = false → base % 64 = 0 → pbase % 64 = 0 → base + 64 * lines ≤ 0x100000 → pbase + 64 * lines ≤ 0x100000 →
      pub < s.groupSize i.core → d.1.toNat < 2 ^ 26 → d.1.toNat / 2 ^ 7 % 2 ^ 9 = 0 →
      (overlaps → answers (-3)) ∧ (¬ overlaps → k.freeSub = none → answers (-1))
        ∧ (∀ n, ¬ overlaps → k.freeSub = some n → ∃ t q, exec (.subs f) s = .next t ∧ Reserves s t false ∧ Others s t i.core i.ctx ∧ SameMemory s t
            ∧ (t.core i.core).subs = k.subs ++ [⟨n, base, lines, pub, pbase, 0, none, false, s.cycle + late⟩] ∧ Sends s t path (.subsRequestArrival q)
            ∧ q.sub = i.core ∧ q.pub = s.relCore i.core pub ∧ q.entry = n ∧ q.base = base ∧ q.pbase = pbase ∧ q.len = lines ∧ q.id = s.me.nextId)))
  ∧ (∀ (r : SubsReq) (s : State),
    let reply (v : Word) : Instr := .resultProduced ⟨r.sub, r.ctx, r.epoch, r.id, .scalar v false, r.dst, .none⟩
    ((s.core r.pub).freeSub = none → ∃ t, exec (.subsRequestArrival r) s = .next t ∧ Sends s t (replyPath r.path) (reply (-2))
        ∧ (t.core r.sub).subs = (s.core r.sub).subs.filter (fun e => e.entry != r.entry))
      ∧ (∀ n, (s.core r.pub).freeSub = some n → ∃ t e, exec (.subsRequestArrival r) s = .next t
        ∧ Sends s t (replyPath r.path) (reply (BitVec.ofNat 64 r.entry)) ∧ (t.core r.pub).fwds = (s.core r.pub).fwds ++ [e]
        ∧ e.entry = n ∧ e.base = r.base ∧ e.pbase = r.pbase ∧ e.lines = r.len ∧ e.open_ = false))
  ∧ (∀ (core entry stamp : Nat) (e : FwdEnt) (s : State),
    (s.core core).fwds = [e] → e.entry = entry → e.open_ = true →
      (e.stamp = stamp → ∃ t u, exec (.subsWindowTimeout core entry stamp) s = .next t
          ∧ Sends s t (pathToCore s.ctl core (s.relCore core e.sub)) (.subscriptionUpdateApply u)
          ∧ u.sub = e.sub ∧ u.addr = e.base + (e.line - e.pbase) ∧ u.data = e.data ∧ u.mask = e.mask ∧ u.poison = e.poison
          ∧ (t.core core).fwds = [{ e with open_ := false, mask := 0, poison := 0 }] ∧ SameMemory s t)
        ∧ (e.stamp ≠ stamp → exec (.subsWindowTimeout core entry stamp) s = .next s))
  ∧ (∀ (u : SubUpd) (g : Group) (s : State),
    let core := g.coreAt u.sub
    let at_ := Config.saveBank u.gid u.sub (u.addr / 64)
    s.group u.gid = some g → u.gid ≠ 2 ^ 32 → u.bar = none →
      (g.phase = .placed → (s.core core).banksFree s.cycle [u.addr / 2048] = true → ∃ t, exec (.subscriptionUpdateApply u) s = .next t
          ∧ (∀ m x, t.byteIn m x = if m = .pad core ∧ u.addr ≤ x ∧ x < u.addr + 64 ∧ u.mask.getLsbD (x - u.addr) = true
              then u.data.extractLsb' (8 * (x - u.addr)) 8 else s.byteIn m x)
          ∧ ∀ n c, (s.ctx n c).wait ≠ .unsub → t.ctx n c = s.ctx n c)
      ∧ (s.bankIdle (16 * g.die + at_ % 16) (at_ / 16 % 16) = true → ∃ t h, exec (.subsUpdateSavedImage u) s = .next t ∧ t.group u.gid = some h ∧ SameMemory s t ∧ (∀ n c, t.ctx n c = s.ctx n c)
          ∧ ∀ j x, tget (tget h.saved .reset j).sp 0 x = if j = u.sub ∧ u.addr ≤ x ∧ x < u.addr + 64 ∧ u.mask.getLsbD (x - u.addr) = true
              then u.data.extractLsb' (8 * (x - u.addr)) 8 else tget (tget g.saved .reset j).sp 0 x))
  ∧ (∀ (f : MF) (s : State),
    let a := s.effAddr f.base f.index f.off 64
    let i := s.issue
    let k := s.core i.core
    (a.2 = true → exec (.unsub f) s = .next (s.slotKill 1)) ∧
    (a.2 = false →
      ((∀ e, e ∈ k.subs → e.base ≠ a.1.toNat) → exec (.unsub f) s = .next s)
        ∧ (∀ e, k.subs = [e] → e.base = a.1.toNat → e.ending = none → ∃ t q, exec (.unsub f) s = .next t ∧ t.me = { s.me with wait := .unsub }
            ∧ (t.core i.core).subs = [{ e with ending := some i.ctx }]
            ∧ Sends s t (pathToCore s.ctl i.core (s.relCore i.core e.pub)) (.unsubRequestArrival q)
            ∧ q.sub = i.core ∧ q.pub = s.relCore i.core e.pub ∧ q.base = e.base ∧ Others s t i.core i.ctx ∧ SameMemory s t)))
  ∧ (∀ (r : SubsReq) (e : FwdEnt) (x : SubEnt) (c : Nat) (s : State),
    (s.core r.pub).fwds = [e] → e.base = r.base → s.relCore r.pub e.sub = r.sub → e.open_ = false → (s.core r.sub).subs = [x] → x.base = r.base →
      x.ending = some c → (s.ctx r.sub c).wait = .unsub →
      ∃ t, exec (.unsubRequestArrival r) s = .next t ∧ (t.core r.pub).fwds = [] ∧ SameMemory s t ∧ Others s t r.sub c
        ∧ (x.flying = 0 → (t.core r.sub).subs = [] ∧ (t.ctx r.sub c).wait = .none ∧ s.cycle + 1 ≤ (t.ctx r.sub c).readyAt)
        ∧ (x.flying ≠ 0 → (t.core r.sub).subs = [{ x with gone := true }] ∧ t.ctx r.sub c = s.ctx r.sub c))

/-- R21, R223, R269, R274, R317, R320, R321: a host write enters the ingress buffer while it holds fewer than 4,096, and is otherwise refused, whole;
one to LAUNCH that SUPASID's entry lets pass goes to the Curator once bring-up has ended, while its intake holds fewer than 64, and a part of a line
is discarded with a record. A host read answers the line at home, its poison, or a fault and its record. Neither enters where no port that
attaches the host is enabled and up. A refused packet is sent again 128 cycles after its first refusal, twice as long after each further one up to
128 times that.
Choices of the model that it rests on: log entries 18 and 79. -/
def Obligations.HostAccessesAndRetries : Prop :=
  (∀ (w : HostWrite) (s : State),
    let launch := isCtl w.ia = true ∧ (w.ia - ctlBase) / 64 = 0
    let passes := s.ctlFault (s.supXl w.ia) false = none
    let refused := Host.Outcome.next { s with hostRetries := s.hostRetries + 1 }
    (launch → s.holdStep ≠ 0 → exec (.hostWriteArrival w) s = refused)
      ∧ (¬ launch ∨ s.holdStep = 0 → s.hostUp = false → exec (.hostWriteArrival w) s = .next s)
      ∧ (s.hostUp = true → (¬ launch ∨ (s.holdStep = 0 ∧ ¬ passes)) → exec (.hostWriteArrival w) s =
          if s.ingress.length < 4096 then .next { s with ingress := s.ingress ++ [w] } else refused)
      ∧ (s.hostUp = true → launch → s.holdStep = 0 → passes →
          (w.mask = BitVec.allOnes 64 → exec (.hostWriteArrival w) s =
            if s.intake.length < 64 then .next { s with agenda := s.agenda ++ [⟨s.cycle, rkDecide, 512, .launchWrite w.data true⟩] } else refused)
          ∧ (w.mask ≠ BitVec.allOnes 64 → ∃ d r, exec (.hostWriteArrival w) s = .next { s with agenda := s.agenda ++ [d] }
              ∧ d.ev = .faultRecordWrite r ∧ r.word0.toNat % 2 ^ 32 = 3 * 2 ^ 16 + 2 ∧ r.word0.toNat / 2 ^ 36 % 8 = 4)))
  ∧ (∀ (ia size tag : Nat) (s u : State),
    let x := s.supXl ia
    let poisoned (p : BitVec 8) : Prop := ∃ k, k < 8 ∧ p.getLsbD k = true ∧ 8 * k < ia % 64 + size ∧ ia % 64 < 8 * k + 8
    (s.hostUp = false → exec (.hostRead ia size tag) s = .next s)
      ∧ (∀ v d, s.hostUp = true → s.homeRead (s.bayOf ia) x needR false 1 = (.ok (v, d), u) → u.safe →
          (poisoned v.2 → exec (.hostRead ia size tag) s = .next { u with hostReads := u.hostReads ++ [(tag, 1, v.1)] })
          ∧ (¬ poisoned v.2 → exec (.hostRead ia size tag) s = .next { u with hostReads := u.hostReads ++ [(tag, 0, v.1)] }))
      ∧ (∀ e, e < 2 ^ 16 → s.hostUp = true → s.homeRead (s.bayOf ia) x needR false 1 = (.error e, u) → u.safe →
          ∃ t r d, exec (.hostRead ia size tag) s = .next t ∧ t.hostReads = u.hostReads ++ [(tag, 2, 0)] ∧ t.agenda = u.agenda ++ [d]
            ∧ d.ev = .faultRecordWrite r ∧ r.word0.toNat % 2 ^ 32 = (e % 2 ^ 16) * 2 ^ 16 + 8 ∧ r.word0.toNat / 2 ^ 36 % 8 = 4))
  ∧ (∀ (id : Nat) (r : Refused) (s : State), s.refused = [r] → r.id = id →
      (exec (.retryResponse id) s = .next { s with agenda := s.agenda ++
        [⟨s.cycle + 128 * 2 ^ min (r.attempts - 1) 7, rkHome, r.who / 16, .retryBackoffExpiry id⟩] })
      ∧ (∃ t, exec (.retryBackoffExpiry id) s = .next t ∧ Sends s t r.path r.ev ∧ { t with gust := s.gust } = s))

/-- R255, R355 to R357, R399: the fault ring. A record that finds room is written at HEAD, its second word the cycle, and HEAD moves on, round; one that finds
none, or no ring, waits, and no record is lost. FRING.base places an empty ring; FRING.head yields HEAD with the overflow flag two cycles
later; and FRING.ack of a position that is not unacknowledged does nothing, and else takes the records up to it and has each held unit's access
made again, one each cycle. A held context then makes its requests again and waits no longer; parked entries leave for their homes again.
Choices of the model that it rests on: log entries 5 and 19. -/
def Obligations.FaultRingRules : Prop :=
  (∀ (r : RingRec) (s : State),
    let g := s.ring
    let pa := g.base + 64 * g.head
    let words := [r.word0, BitVec.ofNat 64 s.cycle, r.word2, r.word3, r.word4, r.word5, r.word6, r.word7]
    (s.safe → g.set = true → g.unacked.length < 2 ^ g.log2 → g.waiting = [] → g.base % 64 = 0 → pa < Config.packageDram → inExtension pa = false →
        s.channelWidth (channelOf pa) ≠ 0 → ∃ t, exec (.faultRecordWrite r) s = .next t
        ∧ (∀ m x, t.byteIn m x = if m = .dram ∧ pa ≤ x ∧ x < pa + 64 then (words.getD ((x - pa) / 8) 0).extractLsb' (8 * ((x - pa) % 8)) 8
            else s.byteIn m x)
        ∧ t.ring = { g with head := (g.head + 1) % 2 ^ g.log2, unacked := g.unacked ++ [⟨g.head, s.cycle, r⟩] } ∧ ∀ n c, t.ctx n c = s.ctx n c)
      ∧ (g.set = false ∨ 2 ^ g.log2 ≤ g.unacked.length ∨ g.waiting ≠ [] → exec (.faultRecordWrite r) s =
          .next { s with ring := { g with waiting := g.waiting ++ [(s.cycle, r)], overflow := g.overflow || g.set } }))
  ∧ (∀ (f : EF) (s : State),
    let a := s.readS f.a .i64
    let b := (s.readS f.b .i64).1.toNat
    let g := s.ring
    let size := 64 * 2 ^ b
    (s.safe → a.2 = false → a.1.toNat % 64 = 0 → 6 ≤ b → b ≤ 20 → a.1.toNat + size ≤ 2 ^ 39 → a.1.toNat / 2 ^ 37 = (a.1.toNat + size - 1) / 2 ^ 37 →
        g.waiting = [] → exec (.fringBase f) s = .next { s with ring := { g with base := a.1.toNat, log2 := b, set := true, head := 0, unacked := [], overflow := false } })
      ∧ (∃ u t, exec (.fringHead f) s = .next t ∧ u = { s with ring := { g with overflow := g.overflow && !g.room } }
          ∧ Yields u t 2 false (.scalar (BitVec.ofNat 64 (g.head + if g.overflow = true then 2 ^ 63 else 0)) false) (s.dst f.dst) .none)
      ∧ ((∀ e, e ∈ g.unacked → e.pos ≠ a.1.toNat) → exec (.fringAck f) s = .next s)
      ∧ (∀ core ctx epoch r, s.safe → g.waiting = [] → g.unacked = [r] → r.pos = a.1.toNat → recSegment r.r = none → r.r.held = some (.ctx core ctx epoch) →
          ∃ t, exec (.fringAck f) s = .next t ∧ t.ring = { g with unacked := [] }
            ∧ t.agenda = s.agenda ++ [⟨s.cycle, rkCore, 0, .heldAccessRemake (.ctx core ctx epoch)⟩] ∧ (∀ n c, t.ctx n c = s.ctx n c) ∧ SameMemory s t))
  ∧ (∀ (core ctx : Nat) (r : ReadReq) (path : Path) (extra : Nat) (s u : State),
    let x := s.ctx core ctx
    x.heldOps = [[.bayReadRequest r]] → x.wait = .fault → s.refused = [] → s.routeOf core r.xl = (.ok (path, extra), u) →
      ∃ t q, exec (.heldAccessRemake (.ctx core ctx x.epoch)) s = .next t ∧ (t.ctx core ctx).heldOps = [] ∧ (t.ctx core ctx).wait = .none
        ∧ (∀ l, l ∈ (t.ctx core ctx).loads → l.held = false) ∧ Sends u t path (.bayReadRequest q) ∧ q.xl = r.xl ∧ q.load = r.load
        ∧ (t.ctx core ctx).q = x.q ∧ (t.ctx core ctx).reg = x.reg ∧ Others s t core ctx ∧ SameMemory s t)
  ∧ (∀ (core segment extra : Nat) (e : SideEnt) (p : LogPkt) (path : Path) (s : State),
    (s.core core).side = [e] → e.ev = .logEntryArrival p → e.trying = false → s.segment e.ia = s.segment segment → s.routeOf core p.w.xl = (.ok (path, extra), s) →
      ∃ t, exec (.sideLogReplay core segment) s = .next t ∧ Sends s t path (.logEntryArrival { p with path })
        ∧ (t.core core).side = [{ e with ev := .logEntryArrival { p with path }, trying := true }] ∧ (∀ n c, t.ctx n c = s.ctx n c) ∧ SameMemory s t)

/-- R347, R348, R350, R351: a request that a cached translation serves is checked in order: its ASID is live, else PROT ASID; its generation is that of the ASID,
else STALEGEN; the leaf is of the ASID, else ASID, and allows it, else PERM; and its line lies where the leaf says. A walk that ends serves the misses that share it, by the table that it
began with, and a waiting miss takes the walker, or goes to its bank where a translation serves it by now. INVAL.all drops every translation and view line of an ASID of other generations, INVAL.seg those of a segment,
and INVAL.region a region's record; each holds its context until it is acknowledged.
Choices of the model that it rests on: log entry 71. -/
def Obligations.TranslationAndInval : Prop :=
  (∀ (s : State) (bay : Nat) (x : Xl) (nd : Need) (e : TlbEnt) (root : Nat),
    let live := (tget s.ctl.asids 0 x.asid).getLsbD 4
    let gen := (tget s.ctl.asids 0 x.asid).toNat % 16
    let result := (s.xlate bay x nd root).1
    let denied := (nd.x = true ∧ e.leaf.getLsbD 2 = false) ∨ (nd.w = true ∧ e.leaf.getLsbD 4 = false) ∨ (nd.r = true ∧ e.leaf.getLsbD 3 = false)
    let owner := e.leaf.toNat / 2 ^ 48 % 2 ^ 12
    (live = false → result = .error 2) ∧ (live = true → gen ≠ x.gen → result = .error 4)
      ∧ (live = true → gen = x.gen → (tget s.bays .reset bay).tlbFind x.asid x.gen x.ia = some e →
          (owner ≠ x.asid → result = .error 2) ∧ (owner = x.asid → denied → result = .error 3)
          ∧ (owner = x.asid → ¬ denied → ∃ fd, result = .ok fd ∧ fd.leaf = e.leaf
              ∧ (e.leaf.getLsbD 5 = true → fd.place = .hall (x.ia / 64 * 64))
              ∧ (e.leaf.getLsbD 5 = false → fd.place = .dram (e.leaf.toNat / 2 ^ 12 % 2 ^ 36 * 2 ^ 12 + x.ia / 64 * 64 % 2 ^ e.size) (e.leaf.getLsbD 6)))))
  ∧ (∀ (bay : Nat) (w : Walk) (m : Miss) (x : Xl) (put : Path → Instr) (s : State),
    let b := tget s.bays .reset bay
    let ended : State := { s with bays := tset s.bays .reset bay { b with walks := [] } }
    b.walks = [w] → w.waiters = [] → b.waiting = [m] → s.homeReq m.ev = some (x, put) → (ended.beginWalk bay x m.ev).safe → s.safe →
      ∃ t, exec (.tableWalkComplete bay w.id) s = .next t ∧ (tget t.bays .reset bay).waiting = [] ∧ SameMemory s t ∧ (∀ n c, t.ctx n c = s.ctx n c)
        ∧ (ended.mustWalk bay x = false → (tget t.bays .reset bay).walks = [] ∧ t.agenda = s.agenda ++ [⟨s.cycle, rkHome, bay, m.ev⟩])
        ∧ (ended.mustWalk bay x = true → ∃ v d, (tget t.bays .reset bay).walks = [v] ∧ v.asid = x.asid ∧ v.gen = x.gen
            ∧ v.region = x.ia / 65536 ∧ v.root = s.ctl.segroot ∧ v.waiters = [m.ev] ∧ d ∈ t.agenda ∧ d.ev = .tableWalkComplete bay v.id))
  ∧ (∀ (bay d : Nat) (w : Walk) (r : ReadReq) (v : Line × BitVec 8) (s u : State),
    let b := tget s.bays .reset bay
    let ended : State := { s with bays := tset s.bays .reset bay { b with walks := [] } }
    let taken := ended.useBank bay r.xl
    let under : State := { taken with ctl := { s.ctl with segroot := w.root } }
    r.via = none → r.replay = false → b.walks = [w] → w.waiters = [.bayReadRequest r] → b.waiting = [] → s.bankFree bay r.xl = true →
      ended.mustWalk bay r.xl = true → under.homeRead (pathBay r.path) r.xl needR false r.priv = (.ok (v, d), u) → u.safe →
      ∃ t, exec (.tableWalkComplete bay w.id) s = .next t
        ∧ Sends u t (replyPath r.path) (.viewFillArrival ⟨r, v.1, v.2, 0, u.seqOf (pathBay r.path / 16)⟩)
        ∧ t.ctl = s.ctl ∧ (∀ n c, t.ctx n c = s.ctx n c) ∧ SameMemory s t)
  ∧ (∀ (f : EF) (s : State),
    let a := s.readS f.a .i64
    let i := s.issue
    let asid := a.1.toNat % 2 ^ 12
    let gen := a.1.toNat / 2 ^ 12 % 2 ^ 4
    let waits (t : State) : Prop := t.me = { s.me with wait := .inval } ∧ Others s t i.core i.ctx ∧ SameMemory s t
      ∧ ∃ d, t.agenda = s.agenda ++ [d] ∧ s.cycle < d.cycle ∧ d.ev = .invalComplete i.core i.ctx i.start.epoch
    (∃ t, exec (.invalAll f) s = .next t ∧ waits t
        ∧ (∀ bay e, e ∈ (tget t.bays .reset bay).tlb ↔ e ∈ (tget s.bays .reset bay).tlb ∧ ¬ (e.asid = asid ∧ e.gen ≠ gen))
        ∧ ∀ n k l, (t.core n).viewAt k = some l → ¬ (l.x.asid = asid ∧ l.x.gen ≠ gen))
      ∧ (a.2 = false → ∃ t, exec (.invalSeg f) s = .next t ∧ waits t
        ∧ (∀ bay e, e ∈ (tget t.bays .reset bay).tlb → ¬ (e.base ≤ a.1.toNat ∧ a.1.toNat < e.base + 2 ^ e.size))
        ∧ ∀ n k l, (t.core n).viewAt k = some l → l.x.rmt = false → l.x.host = false →
            ¬ ((s.segment a.1.toNat).1 ≤ l.x.ia ∧ l.x.ia < (s.segment a.1.toNat).1 + 2 ^ (s.segment a.1.toNat).2))
      ∧ (a.2 = false → ∃ t, exec (.invalRegion f) s = .next t ∧ waits t ∧ t.region a.1.toNat = none
        ∧ ∀ ia, ia / 65536 ≠ a.1.toNat / 65536 → t.region ia = s.region ia)
      ∧ (a.2 = true → exec (.invalSeg f) s = .next (s.slotKill 1) ∧ exec (.invalRegion f) s = .next (s.slotKill 1)))
  ∧ (∀ (core ctx : Nat) (s : State), (s.ctx core ctx).wait = .inval →
    ∃ t, exec (.invalComplete core ctx (s.ctx core ctx).epoch) s = .next t
      ∧ t.ctx core ctx = { s.ctx core ctx with wait := .none, readyAt := max (s.ctx core ctx).readyAt (s.cycle + 1) }
      ∧ Others s t core ctx ∧ SameMemory s t)

/-! ## The T class -/

/-- R157 to R167: TLATCH, TTRN, TMAC, TRDA and TWRA at issue. They stall while their unit or a hazard holds them; a poisoned descriptor kills the
task; one out of range traps OPND, as does a latch or accumulator of another format (ACCPAIR for TRDA's odd member of a pair); an
engine-owned row traps TILEOWN with the address of the lowest; a misplaced marker in an .i4x row, as the rows stand with the store of its bundle, traps
FMTERR; else the instruction goes on its unit from its start, three cycles later with a port, its requests in the order of R159, done after its latency,
and later only where a bank is taken. TZERO moves no rows. -/
def TileInstructionsIssueRule : Prop :=
  (∀ (f : AvtF) (s : State) (i : Instr) (kind : TileKind) (lat : Nat),
    (i, kind, lat) ∈ [(.tlatch f, .tlatch, 8), (.ttrn f, .ttrn, 12), (.tmac f, .tmac, 20), (.trda f, .trda, 4 + accesses .trda f.type),
      (.twra f, .twra, 4 + accesses .twra f.type)] →
    let t := f.type
    let core := s.issue.core
    let slot := BitVec.ofNat 64 s.issue.slot
    let k := s.core core
    let seen := k.withStore s.issue.spw
    let d1 := s.readS f.a .i64
    let d2 := s.readS f.b .i64
    let rows := (tileShape kind t).1
    let size := (tileShape kind t).2
    let pitch := 32 * 2 ^ (d1.1.toNat / 512 % 8)
    let perTile := 2048 / pitch
    let tile (r : Nat) : Nat := d1.1.toNat % 512 + r / perTile * (d2.1.toNat % 512)
    let start := s.cycle + if (isPort f.a || isPort f.b) = true then 3 else 0
    let a := f.ext.toNat % 8
    let l := f.ext.toNat / 8 % 4
    let held := s.unitFree core (tileUnit kind) start = false ∨ k.hazard kind t a l start = true
    let bad := 4096 ≤ d1.1.toNat ∨ 4096 ≤ d2.1.toNat ∨ d1.1.toNat / 512 % 8 = 7 ∨ pitch < size ∨ ∃ r, r < rows ∧ 511 < tile r
    let e8 (x : Ty) : Prop := x = .e4m3 ∨ x = .e5m2
    let mismatch := kind = .tmac ∧ (¬ (k.latchTy l = t ∨ (e8 (k.latchTy l) ∧ e8 t)) ∨ (k.accFp64 a = true ↔ t ≠ .f64))
    let odd := kind = .trda ∧ k.accFp64 a = true ∧ a % 2 = 1
    (held → exec i s = .next s.slotStall)
      ∧ (¬ held → (d1.2 = true ∨ d2.2 = true) → exec i s = .next (s.slotKill 1))
      ∧ (¬ held → d1.2 = false → d2.2 = false →
        (bad → exec i s = .next (s.slotTrap ⟨2, 4, slot⟩))
          ∧ (¬ bad → mismatch → exec i s = .next (s.slotTrap ⟨2, 4, slot⟩))
          ∧ (¬ bad → odd → exec i s = .next (s.slotTrap ⟨2, 0xA, slot⟩))
          ∧ (¬ bad → ¬ mismatch → ¬ odd → k.tilesHeld s.cycle ((List.range rows).map tile).eraseDups (kind = .trda) = true →
            exec i s = .next s.slotStall)
          ∧ (¬ bad → ¬ mismatch → ¬ odd → k.tilesHeld s.cycle ((List.range rows).map tile).eraseDups (kind = .trda) = false →
            (∀ r, r < rows → k.engOwned (tile r) = true → (∀ q, q < r → k.engOwned (tile q) = false) →
                exec i s = .next (s.slotTrap ⟨4, 0, BitVec.ofNat 64 (2048 * tile r + r % perTile * pitch)⟩))
              ∧ ((∀ r, r < rows → k.engOwned (tile r) = false) →
                (∀ r, t = .i4x → seen.markerRow d1.1 d2.1 = some r → ∃ u : State, exec i s = .next (u.slotTrap ⟨3, 2, BitVec.ofNat 64 (rowAddr d1.1 d2.1 r)⟩) ∧ u.me = s.me)
                  ∧ ((t = .i4x → seen.markerRow d1.1 d2.1 = none) → ∃ u o,
                    exec i s = .next u ∧ (u.core core).tileOps = k.tileOps ++ [o] ∧ o.kind = kind ∧ o.f = f ∧ o.d1 = d1.1 ∧ o.d2 = d2.1 ∧ o.start = start
                    ∧ (∀ j, j < 32 → o.cols.getLsbD j = ((s.govern f).v.getLsbD j != (f.pinv == 1)))
                    ∧ o.sched.flatMap (·.2) = (List.range (rows * size / 256)).flatMap (fun j =>
                        (List.range (256 / size)).map (fun n => 256 / size * ((j + d2.1.toNat / 512 % 8) % (rows * size / 256)) + n))
                    ∧ start + lat ≤ o.done
                    ∧ (k.banks = [] → t ∈ [Ty.f64, .f32, .f16, .bf16, .e4m3, .e5m2] →
                        (∀ p q, p < rows → q < rows → p / (256 / size) = q / (256 / size) → tile p ≠ tile q → tile p % 32 ≠ tile q % 32) →
                        o.done = start + lat)
                    ∧ u.agenda = s.agenda ++ [⟨start, rkCore, core, .tileInstructionStart core o.id⟩, ⟨o.done, rkResult, core, .tileInstructionComplete core o.id⟩]
                    ∧ (∃ r, u.me = { s.me with readyAt := r } ∧ s.me.readyAt ≤ r ∧ (t ≠ .i4x → r = s.me.readyAt)
                        ∧ (t = .i4x → ∀ x, x ∈ o.sched → x.1 < r))
                    ∧ Others s u core s.issue.ctx ∧ SameMemory s u)))))
  ∧ (∀ (f : AvtF) (s : State),
    let core := s.issue.core
    let k := s.core core
    let held := s.unitFree core 2 s.cycle = false ∨ k.hazard .tzero f.type (f.ext.toNat % 8) 0 s.cycle = true
    (held → exec (.tzero f) s = .next s.slotStall)
      ∧ (¬ held → ∃ u o, exec (.tzero f) s = .next u ∧ (u.core core).tileOps = k.tileOps ++ [o] ∧ o.kind = .tzero ∧ o.f = f
        ∧ (∀ j, j < 32 → o.cols.getLsbD j = ((s.govern f).v.getLsbD j != (f.pinv == 1))) ∧ o.colPoison = (s.govern f).poison
        ∧ u.agenda = s.agenda ++ [⟨s.cycle, rkCore, core, .tileInstructionStart core o.id⟩, ⟨s.cycle + 2, rkResult, core, .tileInstructionComplete core o.id⟩]
        ∧ (∀ n c, u.ctx n c = s.ctx n c) ∧ SameMemory s u))

/-- A step that changes tile instructions in flight, accumulators and latches, and nothing else. -/
def OnlyTile (s t : State) : Prop :=
  { t with cores := s.cores } = s
    ∧ ∀ n, { t.core n with tileOps := (s.core n).tileOps, accs := (s.core n).accs, latches := (s.core n).latches } = s.core n

/-- R56, R58, R167: columns of an accumulator written: the element of an enabled column is new. The poison bit of an FP32 pair joins the new
elements' with what stays of it. -/
def ColumnsWritten (x y : Acc) (cols : BitVec 32) (v : Nat → Nat → Nat × Bool) : Prop :=
  y.fp64 = x.fp64 ∧ ∀ i j, i < 32 → j < 32 →
    let pair := if x.fp64 = true then [j] else [j / 2 * 2, j / 2 * 2 + 1]
    tget y.elems 0 (32 * i + j) = (if cols.getLsbD j = true then (v i j).1 else tget x.elems 0 (32 * i + j))
      ∧ (y.poisonAt i j = true ↔ (∃ c, c ∈ pair ∧ cols.getLsbD c = true ∧ (v i c).2 = true)
          ∨ ((∃ c, c ∈ pair ∧ cols.getLsbD c = false) ∧ x.poisonAt i j = true))

/-- R170, R171: element (i, j) of a step: the old value and the products of row i of A with latch row j, summed exactly and rounded once; and its
poison. -/
def stepElem (o : TileOp) (x : Acc) (i j : Nat) : Nat × Bool :=
  let t := o.f.type
  let d : Ty := if t = .f64 then .f64 else .f32
  let md := fmodOf o.f o.fmode.toNat
  let a (k : Nat) : Nat := ((rowCodes t (stepK t) (o.row i)).getD k (0, false)).1
  let b (k : Nat) : Nat := tget o.latch.elems 0 (128 * j + k)
  (fpRound d md (fpSum md.rm (fpRead d md.ftzi (tget x.elems 0 (32 * i + j)) ::
      (List.range (stepK t)).map (fun k => (codeVal t md.ftzi (a k)).mul (codeVal o.latch.ty md.ftzi (b k))))),
    (o.row i).2 != 0 || (List.range (stepK t)).any (fun k => tget o.latch.poison false (128 * j + k)) || x.poisonAt i j || o.colPoison)

/-- R161, R163, R168 to R173: what a tile instruction does when its time has come. At its start a step takes its latch and a TRDA its accumulator; at
its completion TLATCH and TTRN leave the latch of their rows, TTRN transposed; TZERO clears its columns, and every one where the
tag changes; TMAC adds its step, and TWRA its widened rows, to the enabled columns. A request of TRDA stores the converted elements of its row's
enabled columns, and of rows at one address the highest stays. Nothing else changes.
Choices of the model that it rests on: log entries 46 and 62. -/
def TileResultsRule : Prop :=
  (∀ (core : Nat) (o : TileOp) (s : State), (s.core core).tileOps = [o] →
    let k := s.core core
    (∃ t, exec (.tileInstructionStart core o.id) s = .next t ∧ OnlyTile s t ∧ (t.core core).accs = k.accs ∧ (t.core core).latches = k.latches
      ∧ (t.core core).tileOps = [{ o with latch := if o.kind = .tmac ∨ o.kind = .share then k.latch (o.f.ext.toNat / 8 % 4) else o.latch,
                                          acc := if o.kind = .trda then k.acc (o.f.ext.toNat % 8) else o.acc }]))
  ∧ (∀ (core : Nat) (o : TileOp) (s : State), (s.core core).tileOps = [o] →
    let k := s.core core
    let ty := o.f.type
    let w := tyWidth ty
    let a := o.f.ext.toNat % 8
    let wide := decide (ty = .f64)
    let md : FMod := { fmodOf o.f o.fmode.toNat with rm := .rne, sat := false }
    ∃ t, exec (.tileInstructionComplete core o.id) s = .next t ∧ OnlyTile s t ∧ (t.core core).tileOps = [] ∧
      let k' := t.core core
      (o.kind = .tlatch ∨ o.kind = .ttrn → k'.accs = k.accs ∧ (k'.latch (o.f.ext.toNat / 8 % 4)).ty = ty
          ∧ ∀ j, j ≠ o.f.ext.toNat / 8 % 4 → k'.latch j = k.latch j)
        ∧ (o.kind = .tlatch → ty ≠ .i4x → ∀ j n, j < 32 → n < stepK ty →
            tget (k'.latch (o.f.ext.toNat / 8 % 4)).elems 0 (128 * j + n) = (o.row j).1 / 2 ^ (w * n) % 2 ^ w
              ∧ tget (k'.latch (o.f.ext.toNat / 8 % 4)).poison false (128 * j + n) = (o.row j).2.testBit (n * w / 64))
        ∧ (o.kind = .ttrn → ty ∈ [Ty.f64, .f32, .f16, .bf16, .e4m3, .e5m2] → ∀ j n, j < 32 → n < stepK ty →
            tget (k'.latch (o.f.ext.toNat / 8 % 4)).elems 0 (128 * j + n) = (o.row n).1 / 2 ^ (w * j) % 2 ^ w
              ∧ tget (k'.latch (o.f.ext.toNat / 8 % 4)).poison false (128 * j + n) = (o.row n).2.testBit (j * w / 64))
        ∧ (o.kind = .tzero ∨ o.kind = .tmac ∨ o.kind = .twra → k'.latches = k.latches ∧ ∀ c, c / 2 ≠ a / 2 → k'.acc c = k.acc c)
        ∧ ((k.acc a).fp64 = wide → (wide = true → a % 2 = 0) →
          (o.kind = .tzero → ColumnsWritten (k.acc a) (k'.acc a) o.cols (fun _ _ => (0, o.colPoison)))
            ∧ (o.kind = .tmac → ColumnsWritten (k.acc a) (k'.acc a) o.cols (stepElem o (k.acc a)))
            ∧ (o.kind = .twra → ty ∈ [Ty.f64, .f32, .f16, .bf16, .e4m3, .e5m2] → ColumnsWritten (k.acc a) (k'.acc a) o.cols (fun i j =>
                (cvtElem (if wide = true then .f64 else .f32) md (elemOf ty md.ftzi ((o.row i).1 / 2 ^ (w * j) % 2 ^ w)),
                  (o.row i).2.testBit (j * w / 64) || o.colPoison))))
        ∧ (o.kind = .tzero → (k.acc a).fp64 ≠ wide → (wide = true → a % 2 = 0) → (k'.acc a).fp64 = wide ∧ (∀ i j, tget (k'.acc a).elems 0 (32 * i + j) = 0)
            ∧ (wide = false → k'.acc (if a % 2 = 0 then a + 1 else a - 1) = .zero))
        ∧ (o.kind = .trda → k'.accs = k.accs ∧ k'.latches = k.latches))
  ∧ (∀ (core r : Nat) (o : TileOp) (s : State), o.kind = .trda → o.gang = none → o.store = none → o.sched = [(s.cycle, [r])] → o.f.type ∈ [Ty.f64, .f32, .f16, .bf16, .e4m3, .e5m2, .i32, .i16, .i8] →
    let ty := o.f.type
    let n := tyWidth ty / 8
    let a := rowAddr o.d1 o.d2 r
    let md := fmodOf o.f o.fmode.toNat
    let md : FMod := if tyIsFloat ty = true then md else { md with ftzo := false }
    let code (j : Nat) : Nat := cvtCanon ty md (elemOf (if o.acc.fp64 = true then .f64 else .f32) md.ftzi (tget o.acc.elems 0 (32 * r + j)))
    ((∀ q, q < 32 → rowAddr o.d1 o.d2 q = a → q ≤ r) → ∀ m x, (s.tileAccess core o).byteIn m x =
        if m = .pad core ∧ a ≤ x ∧ x < a + 32 * n ∧ o.cols.getLsbD ((x - a) / n) = true
        then BitVec.ofNat 8 (code ((x - a) / n) / 256 ^ ((x - a) % n)) else s.byteIn m x)
      ∧ ((∃ q, q < 32 ∧ r < q ∧ rowAddr o.d1 o.d2 q = a) → SameMemory s (s.tileAccess core o)))

/-- R157 to R167: TLATCH, TTRN, TMAC, TRDA and TWRA at issue. They stall while their unit or a hazard holds them; a poisoned descriptor kills the
task; one out of range traps OPND, as does a latch or accumulator of another format (ACCPAIR for TRDA's odd member of a pair); an
engine-owned row traps TILEOWN with the address of the lowest; a misplaced marker in an .i4x row, as the rows stand with the store of its bundle, traps
FMTERR; else the instruction goes on its unit from its start, three cycles later with a port, its requests in the order of R159, done after its latency,
and later only where a bank is taken. TZERO moves no rows.
R161, R163, R168 to R173: what a tile instruction does when its time has come. At its start a step takes its latch and a TRDA its accumulator; at
its completion TLATCH and TTRN leave the latch of their rows, TTRN transposed; TZERO clears its columns, and every one where the
tag changes; TMAC adds its step, and TWRA its widened rows, to the enabled columns. A request of TRDA stores the converted elements of its row's
enabled columns, and of rows at one address the highest stays. Nothing else changes.
Choices of the model that it rests on: log entries 46 and 62. -/
def Obligations.Tiles : Prop := TileInstructionsIssueRule ∧ TileResultsRule

/-- R175 to R178: gangs. TGANG stalls within 7 cycles of the last, kills on poison, traps OPND on a bad descriptor or gang word, and waits while a
partner's gang queue is full; else it sends each partner its share's entry, which arrives 12 cycles later, and the barrier's phase holds one more pending
completion. A share starts when its array and hazards allow; one with a row that an engine owns is aborted with its fail bit and a TILEOWN
record, and one that reads a malformed block with a record of FMTERR, its array free from the next cycle; one that is done writes its accumulator as TMAC does; the status is deposited 12 cycles after the last, and joins MCSTAT.
Choices of the model that it rests on: log entries 16 and 62. -/
def Obligations.Gangs : Prop :=
  (∀ (f : AvtF) (s : State) (gid : Nat) (g : Group),
    let core := s.issue.core
    let k := s.core core
    let d1 := s.readS f.a .i64
    let d2 := s.readS f.b .i64
    let w := s.readS f.c .i64
    let first := w.1.toNat % 128
    let count := w.1.toNat / 128 % 64
    let bix := w.1.toNat / 8192 % 64
    let wait := k.lastTgang ≠ 0 ∧ s.cycle < k.lastTgang + 7
    let bad := descBad .share f.type d1.1 d2.1 = true ∨ 2 ^ 19 ≤ w.1.toNat ∨ count = 0 ∨ 32 < count ∨ g.desc.w * g.desc.h < first + count ∨ g.bars.length ≤ bix
    let due (p : Nat) : Nat := (s.core (g.coreAt (first + p))).gangDue
    k.group = some gid → s.group gid = some g →
      (wait → exec (.tgang f) s = .next s.slotStall)
        ∧ (¬ wait → (d1.2 = true ∨ d2.2 = true ∨ w.2 = true) → exec (.tgang f) s = .next (s.slotKill 1))
        ∧ (¬ wait → d1.2 = false → d2.2 = false → w.2 = false →
          (bad → exec (.tgang f) s = .next (s.slotTrap ⟨2, 4, BitVec.ofNat 64 s.issue.slot⟩))
          ∧ (¬ bad → (∃ p, p < count ∧ 4 ≤ due p) →
              exec (.tgang f) s = .next (s.slotBlock (.gang ((List.range count).map (fun p => g.coreAt (first + p))))))
          ∧ (¬ bad → (∀ p, p < count → due p < 4) → ∃ (t : State) (h : Group) (x : Gang) (e : GangEntry), exec (.tgang f) s = .next t
              ∧ t.group gid = some h ∧ (h.barrier bix).gangs = (g.barrier bix).gangs + 1 ∧ (∀ j, j ≠ bix → h.barrier j = g.barrier j)
              ∧ t.gangs = s.gangs ++ [x] ∧ x.gid = gid ∧ x.bix = bix ∧ x.count = count ∧ x.left = count ∧ x.fails = 0 ∧ x.phase = (g.barrier bix).phase
              ∧ e.gang = x.id ∧ e.gid = gid ∧ e.f = f ∧ e.d1 = d1.1 ∧ e.d2 = d2.1 ∧ e.leader = core
              ∧ (∀ j, j < 32 → e.cols.getLsbD j = ((s.govern f).v.getLsbD j != (f.pinv == 1))) ∧ e.colPoison = (s.govern f).poison
              ∧ e.fmode = s.start.sr.fmode.truncate 4
              ∧ t.agenda = s.agenda ++ (List.range count).map (fun p => ⟨s.cycle + (12 + if (isPort f.a || isPort f.b || isPort f.c) = true then 3 else 0),
                  rkCore, core, .gangEntryArrival (g.coreAt (first + p)) { e with partner := p }⟩)
              ∧ (t.core core).lastTgang = s.cycle + 1 ∧ (∀ n c, t.ctx n c = s.ctx n c) ∧ SameMemory s t)))
  ∧ (∀ (core : Nat) (e : GangEntry) (s : State),
    ∃ t, exec (.gangEntryArrival core e) s = .next t ∧ (t.core core).gangQueue = (s.core core).gangQueue ++ [e]
      ∧ ((s.core core).gangQueue = [] → ⟨s.cycle, rkRing, core, .gangShareStart⟩ ∈ t.agenda) ∧ (∀ n c, t.ctx n c = s.ctx n c) ∧ SameMemory s t)
  ∧ (∀ (e : GangEntry) (x : Gang) (s : State),
    let core := s.unit
    let k := s.core core
    let tiles := (rowTiles .share e.f.type e.d1 e.d2).eraseDups
    let held := s.unitFree core 0 s.cycle = false ∨ k.hazard .share e.f.type (e.f.ext.toNat % 8) (e.f.ext.toNat / 8 % 4) s.cycle = true
      ∨ k.tilesHeld s.cycle tiles false = true ∨ ∃ i, i ∈ tiles ∧ k.flippedNow s.cycle i = true
    k.gangQueue = [e] → s.gangs = [x] → x.id = e.gang → k.formatBad .share e.f = none → s.upset core 14 = none →
      (held → exec .gangShareStart s = .next (s.at 1 rkRing core .gangShareStart))
        ∧ (¬ held → k.ownedRow .share e.f.type e.d1 e.d2 = none → ∃ t o, exec .gangShareStart s = .next t ∧ (t.core core).gangQueue = []
            ∧ (t.core core).tileOps = k.tileOps ++ [o] ∧ o.kind = .share ∧ o.start = s.cycle ∧ s.cycle + 20 ≤ o.done ∧ o.gang = some e ∧ o.cols = e.cols
            ∧ ⟨o.done, rkResult, core, .gangShareDone core o.id⟩ ∈ t.agenda ∧ (∀ n c, t.ctx n c = s.ctx n c) ∧ SameMemory s t)
        ∧ (∀ a, ¬ held → k.ownedRow .share e.f.type e.d1 e.d2 = some a → ∃ t r d, exec .gangShareStart s = .next t
            ∧ t.gangs = [{ x with left := x.left - 1, fails := x.fails ||| BitVec.ofNat 32 (2 ^ e.partner) }]
            ∧ d ∈ t.agenda ∧ d.ev = .faultRecordWrite r ∧ r.word0.toNat % 2 ^ 16 = 4 ∧ r.word2 = BitVec.ofNat 64 e.leader ∧ r.word4 = BitVec.ofNat 64 a
            ∧ (t.core core).accs = k.accs ∧ (t.core core).tileOps = k.tileOps ∧ SameMemory s t))
  ∧ (∀ (core row : Nat) (o : TileOp) (e : GangEntry) (x : Gang) (s : State),
    let k := s.core core
    let t := s.tileAccess core o
    k.tileOps = [o] → o.sched = [(s.cycle, [row])] → o.bad = some row → o.gang = some e → s.gangs = [x] → x.id = e.gang →
      (t.core core).tileOps = [] ∧ tget (t.core core).units 0 0 = s.cycle + 1 ∧ (t.core core).accs = k.accs ∧ SameMemory s t
        ∧ t.gangs = [{ x with left := x.left - 1, fails := x.fails ||| BitVec.ofNat 32 (2 ^ e.partner) }]
        ∧ ∃ r d, d ∈ t.agenda ∧ d.ev = .faultRecordWrite r ∧ r.word0.toNat % 2 ^ 16 = 3 ∧ r.word2 = BitVec.ofNat 64 e.leader
            ∧ r.word4 = BitVec.ofNat 64 (rowAddr o.d1 o.d2 row))
  ∧ (∀ (core : Nat) (o : TileOp) (e : GangEntry) (x : Gang) (s : State),
    let k := s.core core
    let a := o.f.ext.toNat % 8
    k.tileOps = [o] → o.kind = .share → o.gang = some e → s.gangs = [x] → x.id = e.gang → (k.acc a).fp64 = decide (o.f.type = .f64) →
      (o.f.type = .f64 → a % 2 = 0) →
      ∃ t, exec (.gangShareDone core o.id) s = .next t ∧ ColumnsWritten (k.acc a) ((t.core core).acc a) o.cols (stepElem o (k.acc a))
        ∧ t.gangs = [{ x with left := x.left - 1 }]
        ∧ (x.left = 1 → t.agenda = s.agenda ++ [⟨s.cycle + 12, rkCore, e.leader, .gangStatusDeposit e.gid e.gang⟩])
        ∧ (∀ n c, t.ctx n c = s.ctx n c) ∧ SameMemory s t)
  ∧ (∀ (gid : Nat) (x : Gang) (g : Group) (s : State), s.gangs = [x] → s.group gid = some g → (g.barrier x.bix).dead = [] →
    ∃ t h, exec (.gangStatusDeposit gid x.id) s = .next t ∧ t.gangs = [] ∧ t.group gid = some h
      ∧ (h.barrier x.bix).mcstat = (g.barrier x.bix).mcstat ||| x.fails ∧ (h.barrier x.bix).gangs = (g.barrier x.bix).gangs - 1
      ∧ (∀ n c, t.ctx n c = s.ctx n c) ∧ SameMemory s t)

/-! ## Engines, semaphores, ownership -/

/-- R204, R240, R243: a slot's command enters its engine's queue: behind the others, with its operands, the context's range sets, and the cycle of
its entry; its first cycle comes four later, or after the last access where the queue was empty. A token reserves an entry; nothing else
that code can name changes. -/
def Enters (s t : State) (kind : CmdKind) (e : Nat) (f : EF) (entered : Nat) (token : Bool) (P : Cmd → Prop) : Prop :=
  let core := s.issue.core
  let g := (s.core core).engine e
  ∃ c, ((t.core core).engine e).queue = g.queue ++ [c] ∧ c.kind = kind ∧ c.f = f ∧ c.a = (s.readS f.a .i64).1 ∧ c.b = (s.readS f.b .i64).1
    ∧ c.c = (s.readS f.c .i64).1 ∧ c.rng = s.start.sr.rng ∧ c.entered = entered ∧ c.started = false ∧ c.status = 0 ∧ c.run = 0 ∧ P c
    ∧ (token = true → c.id = s.me.nextId ∧ c.dst = s.dst f.dst ∧ t.me.q = (⟨s.me.nextId, ⟨false, 0, 0⟩, false⟩ :: s.me.q).take 16)
    ∧ (token = false → t.me.q = s.me.q)
    ∧ (g.queue = [] → ⟨max (entered + 4) (g.lastAccess + 1), rkEngine, core * 8 + e, .engineCommandStart core e⟩ ∈ t.agenda)
    ∧ t.issue.cmds = s.issue.cmds + 1 ∧ t.me.reg = s.me.reg ∧ t.me.sr = s.me.sr ∧ t.me.f = s.me.f ∧ t.me.pc = s.me.pc
    ∧ Others s t core s.issue.ctx ∧ SameMemory s t

/-- R240, R244, R245, R250, R255, R361: CPY, GATH, SCAT, CMPL and MIGR at issue, where no registered buffer stands. A poisoned operand kills the task;
an address or descriptor out of form traps OPND, and CPY's descriptor in an engine-owned tile TILEOWN; a full queue blocks the context; and
else the command enters its queue, CPY's in the cycle after its descriptor is read, three cycles later with a port. -/
def EngineCommandsIssueRule : Prop :=
  ∀ (f : EF) (s : State),
    let a := s.readS f.a .i64
    let b := s.readS f.b .i64
    let c := s.readS f.c .i64
    let core := s.issue.core
    let k := s.core core
    let va := a.1.toNat
    let late := if (isPort f.a || isPort f.b || isPort f.c) = true then 3 else 0
    let late2 := if (isPort f.a || isPort f.b) = true then 3 else 0
    let opnd := Host.Outcome.next (s.slotTrap ⟨2, 4, BitVec.ofNat 64 s.issue.slot⟩)
    let full (e n : Nat) : Prop := n ≤ ((k.engine e).queue.filter (fun c => !c.started)).length
    let poison3 := a.2 = true ∨ b.2 = true ∨ c.2 = true
    let d : Line := BitVec.ofNat 512 (k.spRead va 64).1
    let n := d.toNat
    let run := n % 2 ^ 32
    let dims := n / 2 ^ 32 % 256
    let badDesc := run = 0 ∨ 2 ^ 20 < run ∨ 5 < dims ∨ n / 2 ^ 464 ≠ 0 ∨ (dims < 5 ∧ n / 2 ^ (64 + 80 * dims) ≠ 0) ∨ 15 < n / 2 ^ 40 % 256
      ∨ 1 < n / 2 ^ 48 % 256 ∨ n / 2 ^ 56 % 256 = 128
    let size := if f.cmd.toNat = 0 then 2 ^ 16 else if f.cmd.toNat = 1 then 2 ^ 21 else 2 ^ 30
    let list := 4 * (f.cmd.toNat % 2 ^ 13 + 1)
    s.ctl.buffers.entries = [] →
      (poison3 → exec (.cpy f) s = .next (s.slotKill 1) ∧ exec (.gath f) s = .next (s.slotKill 1) ∧ exec (.scat f) s = .next (s.slotKill 1))
      ∧ (¬ poison3 → (va % 64 ≠ 0 ∨ 0x100000 < va + 64) → exec (.cpy f) s = opnd)
      ∧ (¬ poison3 → va % 64 = 0 → va + 64 ≤ 0x100000 →
          (k.meets s.cycle va 64 false = .wait → exec (.cpy f) s = .next s.slotStall)
          ∧ (∀ o, k.meets s.cycle va 64 false = .own o → exec (.cpy f) s = .next (s.slotTrap ⟨4, 0, BitVec.ofNat 64 o⟩))
          ∧ (k.meets s.cycle va 64 false = .ok → (∀ j, j < 8 → tget k.spPoison false (va / 8 + j) = false) →
              (badDesc → exec (.cpy f) s = opnd)
              ∧ (¬ badDesc → describedAt s.start.sr.rng b.1.toNat = false → describedAt s.start.sr.rng c.1.toNat = false →
                (full 0 16 → ∃ u, exec (.cpy f) s = .next (State.slotBlock u (.engine 0)))
                ∧ (¬ full 0 16 → k.banks = [] → ∃ t, exec (.cpy f) s = .next t ∧ Enters s t .cpy 0 f (s.cycle + 1 + late) true (fun x => x.desc = d)))))
      ∧ (∀ i kind, (i, kind) ∈ [(Instr.gath f, CmdKind.gath), (.scat f, .scat)] → ¬ poison3 →
          (va % 4 ≠ 0 ∨ 0x100000 < va + list → exec i s = opnd)
          ∧ (va % 4 = 0 → va + list ≤ 0x100000 → full 1 16 → exec i s = .next (s.slotBlock (.engine 1)))
          ∧ (va % 4 = 0 → va + list ≤ 0x100000 → ¬ full 1 16 → ∃ t, exec i s = .next t ∧ Enters s t kind 1 f (s.cycle + late) true (fun _ => True)))
      ∧ (a.2 = true → exec (.cmpl f) s = .next (s.slotKill 1)) ∧ (a.2 = false → b.2 = true → exec (.cmpl f) s = .next (s.slotKill 3))
      ∧ (a.2 = false → b.2 = false →
          (va % 8 ≠ 0 → exec (.cmpl f) s = opnd)
          ∧ (va % 8 = 0 → va < 0x100000 → exec (.cmpl f) s = .next (s.slotTrap ⟨7, 1, a.1⟩))
          ∧ (∀ x, va % 8 = 0 → s.place va 8 needW false = .shared x → full 3 8 → exec (.cmpl f) s = .next (s.slotBlock (.engine 3)))
          ∧ (∀ x, va % 8 = 0 → s.place va 8 needW false = .shared x → ¬ full 3 8 →
              ∃ t, exec (.cmpl f) s = .next t ∧ Enters s t .cmpl 3 f (s.cycle + late2) false (fun _ => True)))
      ∧ ((a.2 = true ∨ b.2 = true) → exec (.migr f) s = .next (s.slotKill 1))
      ∧ (a.2 = false → b.2 = false →
          let bad := va % size ≠ 0 ∨ b.1.toNat % size ≠ 0 ∨ 2 ^ 39 < b.1.toNat + size
          (bad → exec (.migr f) s = opnd)
          ∧ (¬ bad → full 3 8 → exec (.migr f) s = .next (s.slotBlock (.engine 3)))
          ∧ (¬ bad → ¬ full 3 8 → ∃ t, exec (.migr f) s = .next t ∧ Enters s t .migr 3 f (s.cycle + late2) true (fun _ => True)))

/-- R240 to R245: engines run. A command does not start before its time. A plain copy reads, in one cycle, the next piece of its run, at most 64
bytes within a line on each side, from an engine-owned tile, to be written in the cycle after; a thread-owned tile fails it with ENGOWN, once what
precedes that access has been done. GATH moves element idx[k] of B to place k of C. A piece that has come is written. The last write ends the
command, and its completion produces the token, 1 or its failure, and lowers its bundle's count.
Choices of the model that it rests on: log entries 16, 21 and 22. -/
def EnginesRunRule : Prop :=
  (∀ (core e : Nat) (c : Cmd) (s : State),
    let g := (s.core core).engine e
    let when_ := max (c.entered + 4) (g.lastAccess + 1)
    g.queue = [c] → c.held = false → c.started = false → s.stoppedCore core = false → s.cycle < when_ →
      exec (.engineCommandStart core e) s = .next { s with agenda := s.agenda ++ [⟨when_, rkEngine, core * 8 + e, .engineCommandStart core e⟩] })
  ∧ (∀ (core : Nat) (c : Cmd) (s : State),
    let k := s.core core
    let sa := cpyAddr c.desc c.b c.run false + c.off
    let ta := cpyAddr c.desc c.c c.run true + c.off
    let left := c.desc.toNat % 2 ^ 32 - c.off
    let n := min left (min (64 - sa % 64) (64 - ta % 64))
    let again : Due := ⟨s.cycle + 1, rkEngine, core * 8, .engineCommandStart core 0⟩
    s.safe → (k.engine 0).queue = [c] → c.kind = .cpy → c.started = true → c.held = false → s.stoppedCore core = false → c.decodes = false →
      c.encodes = false → c.reads = [] → c.flights = [] → c.status = 0 → c.run < cpyRuns c.desc → c.off < c.desc.toNat % 2 ^ 32 → sa + n ≤ 0x100000 → k.flips = [] →
      (k.engOwned (tileOf sa) = false → ∃ t, exec (.engineCommandStart core 0) s = .next t
          ∧ ((t.core core).engine 0).queue = [{ c with reads := [⟨0, sa, 0, 0, 0, none, some (5, 0)⟩] }] ∧ t.agenda = s.agenda ++ [again]
          ∧ (∀ x y, t.ctx x y = s.ctx x y) ∧ SameMemory s t)
        ∧ (Memory.wf k.sp = true → k.engOwned (tileOf sa) = true → k.banksFree s.cycle (tilesOf sa n) = true →
          ∃ t c', exec (.engineCommandStart core 0) s = .next t ∧ ((t.core core).engine 0).queue = [c']
            ∧ c'.reads = [⟨0, sa, n, ta, s.cycle + 1,
                some ((List.range n).map (fun i => (s.byteIn (.pad core) (sa + i), tget k.spPoison false ((sa + i) / 8)))), none⟩] ∧ c'.flights = []
            ∧ (if n = left then c'.run = c.run + 1 ∧ c'.off = 0 else c'.run = c.run ∧ c'.off = c.off + n) ∧ c'.status = 0
            ∧ t.agenda = s.agenda ++ [again] ∧ (∀ x y, t.ctx x y = s.ctx x y) ∧ SameMemory s t))
  ∧ (∀ (core : Nat) (c : Cmd) (va : Nat) (s : State),
    s.safe → ((s.core core).engine 0).queue = [c] → c.kind = .cpy → c.started = true → c.held = false → s.stoppedCore core = false →
      c.reads = [⟨0, va, 0, 0, 0, none, some (5, 0)⟩] →
      ∃ t, exec (.engineCommandStart core 0) s = .next t ∧ ((t.core core).engine 0).queue = [{ c with status := 0x80000000_00000005, reads := [] }]
        ∧ t.agenda = s.agenda ++ [⟨s.cycle + 1, rkEngine, core * 8, .engineCommandStart core 0⟩] ∧ (∀ x y, t.ctx x y = s.ctx x y) ∧ SameMemory s t)
  ∧ (∀ (core : Nat) (c : Cmd) (i : Nat) (rest : List Nat) (s : State),
    let k := s.core core
    let size := 2 ^ (c.f.cmd.toNat / 2 ^ 13)
    let sa := (c.b + BitVec.ofNat 64 (i * size)).toNat
    let ta := (c.c + BitVec.ofNat 64 (c.run * size)).toNat
    s.safe → (k.engine 1).queue = [c] → c.kind = .gath → c.started = true → c.held = false → s.stoppedCore core = false → c.reads = [] → c.flights = [] →
      c.status = 0 → c.idx = i :: rest → c.off = 0 → c.run < c.f.cmd.toNat % 2 ^ 13 + 1 → sa % 64 + size ≤ 64 → ta % 64 + size ≤ 64 →
      sa + size ≤ 0x100000 → k.flips = [] → Memory.wf k.sp = true → k.engOwned (tileOf sa) = true → k.banksFree s.cycle (tilesOf sa size) = true →
      ∃ t c', exec (.engineCommandStart core 1) s = .next t ∧ ((t.core core).engine 1).queue = [c'] ∧ c'.run = c.run + 1 ∧ c'.idx = rest
        ∧ c'.reads = [⟨0, sa, size, ta, s.cycle + 1,
            some ((List.range size).map (fun j => (s.byteIn (.pad core) (sa + j), tget k.spPoison false ((sa + j) / 8)))), none⟩]
        ∧ SameMemory s t ∧ ∀ x y, t.ctx x y = s.ctx x y)
  ∧ (∀ (core : Nat) (c : Cmd) (f : Flight) (s : State),
    let k := s.core core
    let ready := (c.reads = [] ∧ c.flights = [f] ∧ f.due ≤ s.cycle)
      ∨ (c.flights = [] ∧ ∃ r, c.reads = [r] ∧ r.got = some f.bytes ∧ r.to_ = f.va ∧ r.bad = none ∧ r.due ≤ s.cycle)
    ready → s.safe → (k.engine 0).queue = [c] → c.kind = .cpy → c.started = true → c.held = false → s.stoppedCore core = false → c.decodes = false → c.encodes = false →
      c.status = 0 → cpyRuns c.desc ≤ c.run → f.va + f.bytes.length ≤ 0x100000 → f.va % 64 + f.bytes.length ≤ 64 → 0 < f.bytes.length →
      k.flips = [] → k.engOwned (tileOf f.va) = true → k.banksFree s.cycle (tilesOf f.va f.bytes.length) = true →
      ∃ t c', exec (.engineCommandStart core 0) s = .next t
        ∧ (∀ m x, t.byteIn m x = if m = .pad core ∧ f.va ≤ x ∧ x < f.va + f.bytes.length then (f.bytes.getD (x - f.va) (0, false)).1 else s.byteIn m x)
        ∧ ((t.core core).engine 0).queue = [] ∧ ((t.core core).engine 0).ending = (k.engine 0).ending ++ [c'] ∧ c'.id = c.id ∧ c'.status = 0
        ∧ c'.finish = s.cycle + 1 ∧ ((t.core core).engine 0).lastAccess = s.cycle
        ∧ ⟨c'.finish, rkSem, core * 8, .engineCommandComplete core 0⟩ ∈ t.agenda ∧ ∀ x y, t.ctx x y = s.ctx x y)
  ∧ (∀ (core e : Nat) (c : Cmd) (s : State),
    let k := s.core core
    (k.engine e).ending = [c] → c.finish ≤ s.cycle → c.acks = [] → c.held = false → c.walker = false → c.kind ≠ .cmpl → c.bufs = [] → k.group = none →
      ∃ t, exec (.engineCommandComplete core e) s = .next t ∧ ((t.core core).engine e).ending = [] ∧ ((t.core core).engine e).queue = (k.engine e).queue
        ∧ t.agenda = s.agenda ++ [⟨s.cycle, rkResult, core,
            .resultProduced ⟨core, c.ctx, c.epoch, c.id, .scalar (if c.status = 0 then 1 else c.status) false, c.dst, .none⟩⟩]
        ∧ (∀ w, k.sigs = [w] → w.bundle = c.bundle →
            (1 < w.cmds → (t.core core).sigs = [{ w with cmds := w.cmds - 1 }] ∧ (t.core core).sems = k.sems)
            ∧ (w.cmds = 1 → k.sem w.sem + w.inc ≤ 65535 → (t.core core).sigs = [] ∧ (t.core core).sem w.sem = k.sem w.sem + w.inc))
        ∧ (∀ x y, t.ctx x y = s.ctx x y) ∧ SameMemory s t)

/-- R240, R244, R245, R250, R255, R361: CPY, GATH, SCAT, CMPL and MIGR at issue, where no registered buffer stands. A poisoned operand kills the task;
an address or descriptor out of form traps OPND, and CPY's descriptor in an engine-owned tile TILEOWN; a full queue blocks the context; and
else the command enters its queue, CPY's in the cycle after its descriptor is read, three cycles later with a port.
R240 to R245: engines run. A command does not start before its time. A plain copy reads, in one cycle, the next piece of its run, at most 64
bytes within a line on each side, from an engine-owned tile, to be written in the cycle after; a thread-owned tile fails it with ENGOWN, once what
precedes that access has been done. GATH moves element idx[k] of B to place k of C. A piece that has come is written. The last write ends the
command, and its completion produces the token, 1 or its failure, and lowers its bundle's count.
Choices of the model that it rests on: log entries 16, 21 and 22. -/
def Obligations.Engines : Prop := EngineCommandsIssueRule ∧ EnginesRunRule

/-- R59, R248, R249: semaphores. SEMS adds at once to its core's semaphore, 65,535 at most, past which the saturation bit is set; through a port the
increment comes three cycles later. SEMS.rem sends it to a core of the group, where its arrival adds it. SEMW waits while the semaphore is below
its threshold, and subtracts it. Operands out of range trap OPND. -/
def SemaphoresRule : Prop :=
  ∀ (f : EF) (s : State),
    let a := (s.readS f.a .i64).1.toNat
    let b := (s.readS f.b .i64).1.toNat
    let c := (s.readS f.c .i64).1.toNat
    let core := s.issue.core
    let k := s.core core
    let opnd := Host.Outcome.next (s.slotTrap ⟨2, 4, BitVec.ofNat 64 s.issue.slot⟩)
    let set (n v : Nat) (t : State) : Prop := (∀ m, (t.core core).sem m = if m = n then v else k.sem m) ∧ { t.core core with sems := k.sems, semSat := k.semSat } = k
      ∧ { t with cores := s.cores } = s ∧ ∀ m, m ≠ core → t.core m = s.core m
    let port := (isPort f.a || isPort f.b) = true
    (255 < a ∨ 65535 < b → exec (.sems f) s = opnd ∧ exec (.semsRem f) s = opnd ∧ exec (.semw f) s = opnd)
      ∧ (b = 0 → exec (.semw f) s = opnd) ∧ (s.groupSize core ≤ c → exec (.semsRem f) s = opnd)
      ∧ (a ≤ 255 → b ≤ 65535 →
        (port → exec (.sems f) s = .next { s with agenda := s.agenda ++ [⟨s.cycle + 3, rkSem, core, .remoteSemsArrival core (256 + a) b⟩] })
          ∧ (¬ port → ∃ t, exec (.sems f) s = .next t ∧ set a (min 65535 (k.sem a + b)) t
              ∧ ∀ n, n < 256 → (t.core core).semSat.getLsbD n = (k.semSat.getLsbD n || (n == a && decide (65535 < k.sem a + b))))
          ∧ (c < s.groupSize core → ∃ t, exec (.semsRem f) s = .next t
              ∧ Sends s t (pathToCore s.ctl core (s.relCore core c)) (.remoteSemsArrival (s.relCore core c) a b)
              ∧ { t with gust := s.gust } = s)
          ∧ (0 < b → k.sem a < b → exec (.semw f) s = .next (s.slotBlock (.sem a b)))
          ∧ (0 < b → b ≤ k.sem a → ∃ t, exec (.semw f) s = .next t ∧ set a (k.sem a - b) t ∧ (t.core core).semSat = k.semSat))
      ∧ (∀ n x, k.group = none → ∃ t, exec (.remoteSemsArrival core n x) s = .next t ∧ set (n % 256) (min 65535 (k.sem (n % 256) + x)) t)

/-- R164, R206, R247: OWN of a range of tiles, of one at least and none past the last, else OPND. With no access to them to come and no earlier flip, their
owner bits take the new owner at once; otherwise the flip is pending, and takes effect when it may; no other tile changes owner.
Choices of the model that it rests on: log entries 16, 61 and 72. -/
def OwnershipFlipsRule : Prop :=
  (∀ (f : EF) (s : State) (i : Instr) (eng : Bool), (i, eng) ∈ [(.ownEng f, true), (.ownThr f, false)] →
    let a := (s.readS f.a .i64).1.toNat
    let b := (s.readS f.b .i64).1.toNat
    let core := s.issue.core
    let k := s.core core
    let bad := b = 0 ∨ 512 < a + b
    let quiet := k.flips = [] ∧ k.coreAccess s.cycle a b = false ∧ ∀ e, e < 4 → (k.engine e).queue = []
    (bad → exec i s = .next (s.slotTrap ⟨2, 4, BitVec.ofNat 64 s.issue.slot⟩))
      ∧ (¬ bad → ∃ t, exec i s = .next t ∧ (∀ n c, t.ctx n c = s.ctx n c) ∧ SameMemory s t ∧ (∀ n, n ≠ core → t.core n = s.core n)
          ∧ (quiet → ∀ j, (t.core core).engOwned j = if a ≤ j ∧ j < a + b then eng else k.engOwned j)
          ∧ (quiet → (t.core core).flips = [] ∧ t.agenda = s.agenda)
          ∧ (k.flipReady s.cycle ⟨0, k.num + 1, a, b, eng⟩ = false → (t.core core).owner = k.owner ∧ ∃ n, (t.core core).flips = k.flips ++ [⟨n, k.num + 1, a, b, eng⟩]
              ∧ t.agenda = s.agenda ++ [⟨s.cycle + 1, rkSem, core, .ownFlipEffect core n⟩])))
  ∧ (∀ (k : Core) (now : Nat) (f : Flip), k.flips = [] →
    (f.eng = true → (k.flipReady now f = true ↔ k.coreAccess now f.first f.count = false))
      ∧ (f.eng = false → (k.flipReady now f = true ↔ k.tileAccessing f.first f.count = false
          ∧ ∀ e c, e < 4 → c ∈ (k.engine e).queue → c.num < f.num → k.touches c (2048 * f.first) (2048 * (f.first + f.count)) = false)))
  ∧ (∀ (core : Nat) (p : Flip) (s : State), (s.core core).flips = [p] →
    let k := s.core core
    (k.flipReady s.cycle p = true → ∃ t, exec (.ownFlipEffect core p.id) s = .next t ∧ (t.core core).flips = []
        ∧ (∀ j, (t.core core).engOwned j = if p.first ≤ j ∧ j < p.first + p.count then p.eng else k.engOwned j)
        ∧ (∀ n c, t.ctx n c = s.ctx n c) ∧ SameMemory s t)
      ∧ (k.flipReady s.cycle p = false →
          exec (.ownFlipEffect core p.id) s = .next { s with agenda := s.agenda ++ [⟨s.cycle + 1, rkSem, core, .ownFlipEffect core p.id⟩] }))

/-- R59, R248, R249: semaphores. SEMS adds at once to its core's semaphore, 65,535 at most, past which the saturation bit is set; through a port the
increment comes three cycles later. SEMS.rem sends it to a core of the group, where its arrival adds it. SEMW waits while the semaphore is below
its threshold, and subtracts it. Operands out of range trap OPND.
R164, R206, R247: OWN of a range of tiles, of one at least and none past the last, else OPND. With no access to them to come and no earlier flip, their
owner bits take the new owner at once; otherwise the flip is pending, and takes effect when it may; no other tile changes owner.
Choices of the model that it rests on: log entries 16, 61 and 72. -/
def Obligations.SemaphoresAndOwnership : Prop := SemaphoresRule ∧ OwnershipFlipsRule

/-- R246, R322, R323, R324, R388: collectives. COLL of a job without a set answers GANGFAIL NOSET at once; else it takes the next number of its set and enters the
port's queue. It waits for every member's presence, and contributes when its source has come. The last contribution of two members that agree gives the fold in ascending package, integers wrapping and each sum rounded to
nearest even, and a difference gives MISMATCH; a result reaches the command that waits for it; a member that has not issued it within the set's time
fails it with ABSENT; and a job whose members have not all come by then fails with GANGFAIL. Nothing of another package enters while no port is up.
Choices of the model that it rests on: log entries 16, 85 and 86. -/
def Obligations.Collectives : Prop :=
  (∀ (f : EF) (s : State) (i : Instr), i ∈ [Instr.collAllreduce f, .collReduceScatter f, .collAllgather f, .collBroadcast f] →
    let a := s.readS f.a .i64
    let b := s.readS f.b .i64
    let c := s.readS f.c .i64
    let core := s.issue.core
    let k := s.core core
    let late := if (isPort f.a || isPort f.b || isPort f.c) = true then 3 else 0
    let poison := c.2 = true ∨ (c.1.toNat % 2 ^ 32 ≠ 0 ∧ (a.2 = true ∨ b.2 = true))
    let job := s.start.sr.jobId.toNat
    let off (v : Nat) : Prop := describedAt s.start.sr.rng v = true ∧ (v % 64 ≠ 0 ∨ blockCode (collTy f) = none)
    let bad := 2 ^ 42 ≤ c.1.toNat ∨ (c.1.toNat % 2 ^ 32 ≠ 0 ∧ (off a.1.toNat ∨ off b.1.toNat))
    (poison → exec i s = .next (s.slotKill 1))
      ∧ (¬ poison → bad → exec i s = .next (s.slotTrap ⟨2, 4, BitVec.ofNat 64 s.issue.slot⟩))
      ∧ (¬ poison → ¬ bad →
          (s.collSetOf job = none → k.group = none → ∃ t, exec i s = .next t ∧ Reserves s t false ∧ Others s t core s.issue.ctx ∧ SameMemory s t
            ∧ t.agenda = s.agenda ++ [⟨s.cycle + (1 + late), rkResult, core, .resultProduced ⟨core, s.issue.ctx, s.start.epoch, s.me.nextId,
                .scalar 0x80000000_0002000D false, s.dst f.dst, .none⟩⟩])
          ∧ (∀ set, s.collSetOf job = some set → s.ctl.buffers.entries = [] → s.issue.blocked = none →
              (4 ≤ ((k.engine 2).queue.filter (fun c => !c.started)).length → exec i s = .next (s.slotBlock (.engine 2)))
              ∧ (((k.engine 2).queue.filter (fun c => !c.started)).length < 4 → ∃ t, exec i s = .next t
                  ∧ Enters s t .coll 2 f (s.cycle + late) true (fun x => x.idx = [set, tget s.collNext 0 set])
                  ∧ tget t.collNext 0 set = tget s.collNext 0 set + 1
                  ∧ ⟨s.cycle + s.collWait set, rkLast, set, .collAbsentTimeout set (tget s.collNext 0 set)⟩ ∈ t.agenda))))
  ∧ (∀ (core set index : Nat) (c : Cmd) (s : State),
    let k := s.core core
    let n := if c.f.cmd.toNat % 8 = 3 ∧ c.c.toNat / 2 ^ 32 % 1024 ≠ s.pkgId then 0 else c.c.toNat % 2 ^ 32
    (k.engine 2).queue = [c] → c.kind = .coll → c.run = 0 → c.idx = [set, index] → c.held = false → c.started = true → s.stoppedCore core = false →
      c.status = 0 → s.safe → c.reads = [] → describedAt c.rng c.a.toNat = false → Ty.ofBits (BitVec.ofNat 4 (c.f.cmd.toNat / 32)) ≠ .i4x →
      (s.collAt set index).any (·.dead) = false → (c.jobId.toNat, 1025) ∉ s.presence →
      ((∃ m, m ∈ s.collMembers set ∧ (c.jobId.toNat, m) ∉ s.presence) →
        ∃ t, exec (.engineCommandStart core 2) s = .next t ∧ ((t.core core).engine 2).queue = [c] ∧ (∀ x y, t.ctx x y = s.ctx x y) ∧ SameMemory s t
          ∧ t.agenda = s.agenda ++ [⟨s.cycle + 1, rkEngine, core * 8 + 2, .engineCommandStart core 2⟩])
      ∧ ((∀ m, m ∈ s.collMembers set → (c.jobId.toNat, m) ∈ s.presence) → (n * (tyWidth (collTy c.f) / 4) + 1) / 2 ≤ c.off →
          (s.collMembers set).head? = some s.pkgId →
          ∃ t l, exec (.engineCommandStart core 2) s = .next t ∧ ((t.core core).engine 2).queue = [{ c with run := 1 }]
            ∧ t.agenda = s.agenda ++ [⟨s.cycle + 1, rkCore, core, .collContribution set index s.pkgId (contribution c.f.cmd c.c l)⟩]
            ∧ l.length = n ∧ (∀ x y, t.ctx x y = s.ctx x y) ∧ SameMemory s t))
  ∧ (∀ (set index pkg : Nat) (data : List Word) (x : Coll) (s : State), s.colls = [x] → x.set = set → x.index = index →
    (x.dead = true ∨ s.enters pkg = false → exec (.collContribution set index pkg data) s = .next s)
      ∧ (x.dead = false → s.enters pkg = true →
          ((s.collMembers set).head? ≠ some s.pkgId ∨ ∃ m, m ∈ s.collMembers set ∧ m ≠ pkg ∧ ∀ g, g ∈ x.got → g.1 ≠ m) →
          exec (.collContribution set index pkg data) s = .next { s with colls := [{ x with got := x.got ++ [(pkg, data)] }] }))
  ∧ (∀ (set index p q core : Nat) (cmd cmd' : BitVec 16) (c c' : Word) (l m : List (Word × Bool)) (x : Coll) (s : State),
    s.colls = [x] → x.set = set → x.index = index → x.dead = false → x.core = some core → s.collMembers set = [p, q] → p ≠ q → p = s.pkgId → s.enters q = true →
      l.length = m.length →
      x.got = [(p, contribution cmd c l)] →
      ∃ t r tok, exec (.collContribution set index q (contribution cmd' c' m)) s = .next t ∧ t.colls = []
        ∧ t.agenda = s.agenda ++ [⟨s.cycle + 1, rkEngine, core * 8 + 2, .collResultDelivery core
            (r.map (·.1) ++ r.map (fun (e : Word × Bool) => if e.2 = true then 1 else 0)) tok⟩]
        ∧ (cmd ≠ cmd' ∨ c ≠ c' → tok = 0x80000000_0003000D)
        ∧ (cmd = cmd' → c = c' → tok = 0 ∧
            (cmd.toNat % 8 < 2 → cmd.toNat / 8 % 4 = 0 → r.length = l.length ∧ ∀ i, i < l.length →
              let u := l.getD i (0, false)
              let v := m.getD i (0, false)
              (r.getD i (0, false)).2 = (u.2 || v.2)
                ∧ (Ty.ofBits (BitVec.ofNat 4 (cmd.toNat / 32)) = .i64 → (r.getD i (0, false)).1 = u.1 + v.1)
                ∧ (Ty.ofBits (BitVec.ofNat 4 (cmd.toNat / 32)) = .f64 →
                    (r.getD i (0, false)).1 = BitVec.ofNat 64 (fpAdd .f64 ⟨.rne, false, false, false⟩ u.1.toNat v.1.toNat)))
            ∧ (cmd.toNat % 8 = 2 → r = l ++ m)))
  ∧ (∀ (core : Nat) (data : List Word) (fail : Word) (c : Cmd) (s : State),
    let k := s.core core
    (k.engine 2).queue = [c] → c.kind = .coll → c.run = 1 →
      (fail ≠ 0 → fail.toNat % 65536 ≠ 0xE → ∃ t c', exec (.collResultDelivery core data fail) s = .next t ∧ ((t.core core).engine 2).queue = []
          ∧ ((t.core core).engine 2).ending = (k.engine 2).ending ++ [c'] ∧ c'.id = c.id ∧ c'.status = fail ∧ SameMemory s t)
        ∧ (fail = 0 → ∃ t c', exec (.collResultDelivery core data fail) s = .next t ∧ ((t.core core).engine 2).queue = [c'] ∧ c'.run = 2
            ∧ c'.id = c.id ∧ (∀ f, f ∈ c'.flights → f.due = s.cycle + 1) ∧ t.agenda = s.agenda ++ [⟨s.cycle + 1, rkEngine, core * 8 + 2, .engineCommandStart core 2⟩]
            ∧ SameMemory s t))
  ∧ (∀ (set index core : Nat) (x : Coll) (c : Cmd) (s : State), s.colls = [x] → x.set = set → x.index = index → x.core = some core →
    ((s.core core).engine 2).queue = [c] → c.idx = [set, index] → c.run = 1 →
      let issued (m : Nat) : Prop := m = s.pkgId ∨ ∃ g, g ∈ x.got ∧ g.1 = m
      ((∀ m, m ∈ s.collMembers set → issued m) → exec (.collAbsentTimeout set index) s = .next s)
        ∧ ((∃ m, m ∈ s.collMembers set ∧ ¬ issued m) → ∃ t c', exec (.collAbsentTimeout set index) s = .next t ∧ t.colls = [{ x with dead := true, got := [] }]
          ∧ ((t.core core).engine 2).ending = ((s.core core).engine 2).ending ++ [c'] ∧ c'.id = c.id ∧ c'.status = 0x80000000_0001000D ∧ SameMemory s t))
  ∧ (∀ (jobid pkg : Nat) (s : State), exec (.presenceMessage jobid pkg) s =
      if s.enters pkg = true then .next { s with presence := s.presence ++ [(jobid, pkg)] } else .next s)
  ∧ (∀ (set : Nat) (j : Job) (s : State), s.collSetOf s.unit = some set → s.groups.entries = [] → s.job s.unit = some j → j.fail = false →
    ((∀ m, m ∈ s.collMembers set → (s.unit, m) ∈ s.presence) → exec .presenceTimeout s = .next s)
      ∧ ((∃ m, m ∈ s.collMembers set ∧ (s.unit, m) ∉ s.presence) → ∃ t k, exec .presenceTimeout s = .next t
          ∧ t.presence = s.presence ++ [(s.unit, 1025)] ∧ t.job s.unit = some k ∧ k.fail = true ∧ k.cls = 0xD))

/-- R250, R362: CMPL_WRITE sends its word alone to its home or to host memory, and its command leaves its engine; there the word is written and
acknowledged, and the command completes with the acknowledgement. MIGRATION_COPY leaves the segment's bytes at their
new place, its leaf with the new address and without the mark of a migration, and ends the migration and its command.
Choices of the model that it rests on: log entries 13, 18 and 55. -/
def Obligations.CompletionWordsAndMigration : Prop :=
  (∀ (core : Nat) (c : Cmd) (x : Xl) (path : Path) (extra : Nat) (s w : State),
    let k := s.core core
    let u : State := s.updCtx core c.ctx (fun y => { y with ops := y.ops.filter (fun o => match o.kind with | .cmpl _ => !o.sent | _ => true) })
    let i := x.ia % 64
    s.unit / 8 = core → (k.engine 3).queue = [c] → 0x100000 ≤ c.a.toNat → rangeXl c.rng c.a.toNat 8 needW = .ok x → c.detmode.getLsbD 0 = false → i + 8 ≤ 64 →
      u.engRoute core x needW = (.ok (path, extra), w) → w.refused = [] → w.safe → SameMemory s w →
      ∃ t p c', exec .cmplWrite s = .next t ∧ Sends w t path (.logEntryArrival p) ∧ p.w.xl = x ∧ p.eng = some (3, c.num) ∧ p.core = core ∧ p.replay = false
        ∧ p.w.poison = 0 ∧ p.via = none ∧ (∀ j, j < 64 → p.w.mask.getLsbD j = (decide (i ≤ j) && decide (j < i + 8)))
        ∧ (∀ j, j < 8 → p.w.data.extractLsb' (8 * (i + j)) 8 = c.b.extractLsb' (8 * j) 8)
        ∧ ((t.core core).engine 3).queue = [] ∧ ((t.core core).engine 3).ending = ((w.core core).engine 3).ending ++ [c'] ∧ c'.id = c.id ∧ c'.num = c.num
        ∧ c'.acks = c.acks ++ [p.pos] ∧ c'.status = c.status ∧ SameMemory s t)
  ∧ (∀ (num d : Nat) (p : LogPkt) (c : Cmd) (fd : Found) (s v : State),
    let x := p.w.xl
    let bay := pathBay p.path
    let i := x.ia % 64
    let answers (t : State) : Prop := Sends s t (replyPath p.path) (.logAck p.core 7 num p.pos)
    p.eng = some (3, num) → p.via = none → p.host = false → (s.core p.core).cmd? 3 num = some c → c.badTag = none → s.refused = [] →
      (x.host = true → s.safe → ∃ t, exec (.logEntryArrival p) s = .next t ∧ answers t
          ∧ ∀ m a, t.byteIn m a = if m = .host ∧ x.ia / 64 * 64 ≤ a ∧ a < x.ia / 64 * 64 + 64 ∧ p.w.mask.getLsbD (a - x.ia / 64 * 64) = true
              then p.w.data.extractLsb' (8 * (a - x.ia / 64 * 64)) 8 else s.byteIn m a)
        ∧ (x.host = false → x.rmt = false → isCtl x.ia = false → i + 8 ≤ 64 → s.mustWalk bay x = false → s.bankFree bay x = true →
            (s.useBank bay x).xlate bay x needW s.root = (.ok fd, d, v) → v.migrOf x.ia = none → v.lands fd.place → v.safe →
            ∃ t, exec (.logEntryArrival p) s = .next t ∧ answers t
              ∧ Wrote s t fd.place (fun j => decide (i ≤ j) && decide (j < i + 8)) (fun j => p.w.data.extractLsb' (8 * j) 8)))
  ∧ (∀ (core num pos : Nat) (c : Cmd) (s : State),
    let g := (s.core core).engine 3
    g.queue = [] → g.ending = [c] → c.num = num → c.acks = [pos] →
      ∃ t, exec (.logAck core 7 num pos) s = .next t ∧ ((t.core core).engine 3).ending = [{ c with acks := [] }]
        ∧ t.agenda = s.agenda ++ [⟨s.cycle, rkSem, core * 8 + 3, .engineCommandComplete core 3⟩] ∧ SameMemory s t)
  ∧ (∀ (core : Nat) (m : Migr) (c : Cmd) (s : State),
    let top := m.to_ + m.size
    let entry := bytesAt s.dram m.entry 8
    s.safe → s.unit = core → s.migrs = [m] → m.core = core → ((s.core core).engine 3).queue = [c] → Memory.wf s.dram = true →
      m.from_ + m.size ≤ 2 ^ 39 → top ≤ 2 ^ 39 → m.from_ % 64 = 0 → m.to_ % 64 = 0 → m.size % 64 = 0 → 0 < m.size → m.entry % 8 = 0 → m.entry < 2 ^ 39 → inExtension m.entry = false →
      (m.entry + 8 ≤ m.to_ ∨ top ≤ m.entry) → (∀ n, s.channelWidth n ≠ 0) → s.rel.cells = .empty → s.ctl.buffers.entries = [] →
      (∀ e, e ∈ s.bays.entries → e.2.holdQ = []) →
      ∃ t c', exec .migrationCopy s = .next t ∧ t.migrs = [] ∧ ((t.core core).engine 3).queue = []
        ∧ ((t.core core).engine 3).ending = ((s.core core).engine 3).ending ++ [c'] ∧ c'.id = c.id ∧ c'.status = c.status
        ∧ (∀ y, m.to_ ≤ y → y < top → t.byteIn .dram y = s.byteIn .dram (y - m.to_ + m.from_))
        ∧ (∀ y, y < m.to_ ∨ top ≤ y → y < m.entry ∨ m.entry + 8 ≤ y → t.byteIn .dram y = s.byteIn .dram y)
        ∧ (∀ i, i < 8 → t.byteIn .dram (m.entry + i) = BitVec.ofNat 8 ((entry - entry / 2 ^ 12 % 2 ^ 36 * 2 ^ 12 + m.to_
            - if entry.testBit 7 = true then 2 ^ 7 else 0) / 256 ^ i))
        ∧ (∀ sp y, sp ≠ .dram → t.byteIn sp y = s.byteIn sp y) ∧ ∀ x y, t.ctx x y = s.ctx x y)

/-! ## The itinerary walker -/

/-- The walker of a core that visits a well-formed node in this cycle, which it read in the cycle before. -/
def Visiting (s : State) (core : Nat) (n : Line) : Prop :=
  let w := (s.core core).walker
  s.safe ∧ s.unit / 8 = core ∧ w.running = true ∧ w.held = false ∧ s.stoppedCore core = false ∧ w.fail = 0 ∧ w.line = some n ∧ nodeBad n = false

/-- R296: the walker goes on to a node, whose visit comes two cycles later, and whose read comes in the cycle before that. -/
def GoesTo (s t : State) (core node : Nat) : Prop :=
  (t.core core).walker.node = node ∧ (t.core core).walker.running = true ∧ (t.core core).walker.line = none ∧ (t.core core).walker.nodeAt = s.cycle + 2
    ∧ (∃ d, t.agenda = s.agenda ++ [d] ∧ d.cycle = s.cycle + 1 ∧ d.unit = core * 8 + 4) ∧ ∀ x y, t.ctx x y = s.ctx x y

/-- R253, R295 to R297: ITIN, of an aligned list in the window, starts an idle walker with the context's range sets, and its first visit comes two cycles
later; the count of a while node that it can reach is set from VAL. ITSTOP asks it to stop, and it ends with token 2. A node is read in the cycle
before its visit; a malformed one ends the itinerary with ILLFMT OPND. A condition node goes by its comparison; a while node counts down; a join
waits for what the walker has begun; an end node, when that is done, produces token 1. A command node enqueues an engine's command, and
performs SEMS and OWN itself.
Choices of the model that it rests on: log entries 23, 60 and 61. -/
def Obligations.ItineraryWalker : Prop :=
  (∀ (f : EF) (s : State),
    let a := s.readS f.a .i64
    let core := s.issue.core
    let k := s.core core
    let w := k.walker
    let late := if isPort f.a = true then 3 else 0
    let first : Line := BitVec.ofNat 512 (bytesAt k.sp a.1.toNat 64)
    (a.2 = true → exec (.itin f) s = .next (s.slotKill 1))
      ∧ (a.2 = false → (a.1.toNat % 64 ≠ 0 ∨ 0x100000 < a.1.toNat + 64) → exec (.itin f) s = .next (s.slotTrap ⟨2, 4, BitVec.ofNat 64 s.issue.slot⟩))
      ∧ (a.2 = false → a.1.toNat % 64 = 0 → a.1.toNat + 64 ≤ 0x100000 →
          (w.running = true → exec (.itin f) s = .next (s.slotBlock .walker))
          ∧ (w.running = false → ∃ t d v, exec (.itin f) s = .next t ∧ Reserves s t false ∧ Others s t core s.issue.ctx
              ∧ (t.core core).walker = v ∧ v.running = true ∧ v.stopping = false ∧ v.base = a.1 ∧ v.node = 0 ∧ v.rng = s.start.sr.rng ∧ v.id = s.me.nextId
              ∧ v.line = none ∧ v.nodeAt = s.cycle + 2 + late ∧ v.out = 0 ∧ v.fail = 0
              ∧ d ∈ t.agenda ∧ d.cycle = s.cycle + 1 + late ∧ d.unit = core * 8 + 4
              ∧ (nodeBad first = true ∨ first.toNat % 2 ^ 16 = 0 → SameMemory s t)
              ∧ (nodeBad first = false → first.toNat % 2 ^ 16 = 3 → first.toNat / 2 ^ 24 % 2 ^ 20 = 0 → k.fwds = [] →
                  ∀ m y, t.byteIn m y = if m = .pad core ∧ a.1.toNat + 56 ≤ y ∧ y < a.1.toNat + 64
                    then BitVec.ofNat 8 (first.toNat / 2 ^ 384 % 65536 / 256 ^ (y - a.1.toNat - 56)) else s.byteIn m y)))
      ∧ (∃ t, exec .itstop s = .next t ∧ (t.core core).walker = { w with stopping := w.running } ∧ t.agenda = s.agenda
          ∧ (∀ n c, t.ctx n c = s.ctx n c) ∧ SameMemory s t))
  ∧ (∀ (core : Nat) (i : Instr) (s : State), i ∈ [Instr.itinEndNode, .itinCommandNode, .itinConditionNode, .itinWhileNode, .itinJoinNode] →
    let k := s.core core
    let w := k.walker
    let at_ := w.base.toNat + 64 * w.node
    let ends (t : State) (tok : Word) : Prop := (t.core core).walker = .idle ∧ t.agenda = s.agenda ++ [⟨s.cycle, rkResult, core,
        .resultProduced ⟨core, w.ctx, w.epoch, w.id, .scalar tok false, w.dst, .none⟩⟩] ∧ SameMemory s t
    s.safe → s.unit / 8 = core → w.running = true → w.held = false → s.stoppedCore core = false → k.group = none →
      (w.fail ≠ 0 → ∃ t, exec i s = .next t ∧ ends t w.fail)
      ∧ (∀ n, w.fail = 0 → w.line = some n → nodeBad n = true → ∃ t, exec i s = .next t ∧ ends t 0x80000000_00040002)
      ∧ (w.fail = 0 → w.line = none → w.stopping = true → w.out = 0 → ∃ t, exec i s = .next t ∧ ends t 2)
      ∧ (w.fail = 0 → w.line = none → w.stopping = false → 0x100000 < at_ + 64 → ∃ t, exec i s = .next t ∧ ends t 0x80000000_00040002)
      ∧ (w.fail = 0 → w.line = none → w.stopping = false → at_ + 64 ≤ 0x100000 → s.upset core 12 = none →
          (k.banksFree s.cycle (tilesOf at_ 64) = true → ∃ t d, exec i s = .next t
            ∧ (t.core core).walker = { w with line := some (BitVec.ofNat 512 (k.spRead at_ 64).1), nodeAt := s.cycle + 1 }
            ∧ t.agenda = s.agenda ++ [d] ∧ d.cycle = s.cycle + 1 ∧ d.unit = core * 8 + 4 ∧ (∀ x y, t.ctx x y = s.ctx x y) ∧ SameMemory s t)
          ∧ (k.banksFree s.cycle (tilesOf at_ 64) = false → ∃ d, exec i s = .next { s with agenda := s.agenda ++ [d] }
            ∧ d.cycle = s.cycle + 1 ∧ d.unit = core * 8 + 4)))
  ∧ (∀ (core : Nat) (n : Line) (s : State), Visiting s core n →
    let k := s.core core
    let w := k.walker
    let field (lo width : Nat) : Nat := n.toNat / 2 ^ lo % 2 ^ width
    let a := field 128 64
    let b := field 192 64
    let at_ := w.base.toNat + 64 * w.node
    let ends (t : State) (tok : Word) : Prop := (t.core core).walker = .idle ∧ t.agenda = s.agenda ++ [⟨s.cycle, rkResult, core,
        .resultProduced ⟨core, w.ctx, w.epoch, w.id, .scalar tok false, w.dst, .none⟩⟩] ∧ SameMemory s t
    let bad := 0x80000000_00040002#64
    let c := field 256 64
    let desc : Line := BitVec.ofNat 512 (k.spRead a 64).1
    let puts (i : Instr) (e : Nat) (kind : CmdKind) (entered : Nat) (P : Cmd → Prop) : Prop := s.ctl.buffers.entries = [] →
      ∃ t x, exec i s = .next t ∧ ((t.core core).engine e).queue = (k.engine e).queue ++ [x] ∧ x.kind = kind ∧ x.walker = true
        ∧ x.a.toNat = a ∧ x.b.toNat = b ∧ x.c.toNat = c ∧ x.rng = w.rng ∧ x.entered = entered ∧ P x
        ∧ (t.core core).walker.node = field 24 10 ∧ (t.core core).walker.out = w.out + 1 ∧ (∀ x y, t.ctx x y = s.ctx x y) ∧ SameMemory s t
    (field 0 16 = 2 → k.banksFree s.cycle (tilesOf (field 320 64) 8) = true →
      let v := (k.spRead (field 320 64) 8).1
      let x := field 384 64
      let cc := field 16 8
      let holds := (cc = 0 ∧ v = x) ∨ (cc = 1 ∧ v ≠ x) ∨ (cc = 2 ∧ v < x) ∨ (cc = 3 ∧ v ≤ x) ∨ (cc = 4 ∧ x < v) ∨ (cc = 5 ∧ x ≤ v)
      (holds → ∃ t, exec .itinConditionNode s = .next t ∧ GoesTo s t core (field 24 10) ∧ SameMemory s t)
        ∧ (¬ holds → ∃ t, exec .itinConditionNode s = .next t ∧ GoesTo s t core (field 34 10) ∧ SameMemory s t))
    ∧ (field 0 16 = 3 → k.fwds = [] →
      let cnt := field 448 64
      let next := if cnt = 0 then field 384 16 else cnt - 1
      ∃ t, exec .itinWhileNode s = .next t ∧ GoesTo s t core (if cnt = 0 then field 24 10 else field 34 10)
        ∧ ∀ m y, t.byteIn m y = if m = .pad core ∧ at_ + 56 ≤ y ∧ y < at_ + 64 then BitVec.ofNat 8 (next / 256 ^ (y - at_ - 56)) else s.byteIn m y)
    ∧ (field 0 16 = 4 →
      (s.walkerDone core = true → ∃ t, exec .itinJoinNode s = .next t ∧ GoesTo s t core (field 24 10) ∧ SameMemory s t)
      ∧ (s.walkerDone core = false → ∃ t d, exec .itinJoinNode s = .next t ∧ (t.core core).walker = w ∧ t.agenda = s.agenda ++ [d] ∧ d.cycle = s.cycle + 1
          ∧ SameMemory s t))
    ∧ (field 0 16 = 0 → k.group = none →
      (s.walkerDone core = true → ∃ t, exec .itinEndNode s = .next t ∧ ends t 1)
      ∧ (s.walkerDone core = false → ∃ t d, exec .itinEndNode s = .next t ∧ (t.core core).walker = w ∧ t.agenda = s.agenda ++ [d] ∧ d.cycle = s.cycle + 1
          ∧ SameMemory s t))
    ∧ (field 0 16 = 1 →
      (field 44 10 ∉ [0x001, 0x002, 0x003, 0x004, 0x018, 0x008, 0x010] → k.group = none → ∃ t, exec .itinCommandNode s = .next t ∧ ends t bad)
      ∧ (field 44 10 = 0x010 → field 64 16 = 1 → a ≤ 255 → b ≤ 65535 → c < s.groupSize core → ∃ t, exec .itinCommandNode s = .next t
          ∧ GoesTo s t core (field 24 10) ∧ Sends s t (pathToCore s.ctl core (s.relCore core c)) (.remoteSemsArrival (s.relCore core c) a b) ∧ SameMemory s t)
      ∧ (field 44 10 = 0x010 → field 64 16 = 0 → a ≤ 255 → b ≤ 65535 → c = 0 → ∃ t, exec .itinCommandNode s = .next t
          ∧ GoesTo s t core (field 24 10) ∧ (∀ m, (t.core core).sem m = if m = a then min 65535 (k.sem a + b) else k.sem m) ∧ SameMemory s t)
      ∧ (field 44 10 = 0x008 → field 64 16 ≤ 1 → b ≠ 0 → a + b ≤ 512 → ∃ t, exec .itinCommandNode s = .next t
          ∧ (t.core core).flips = k.flips ++ [⟨s.fresh, k.num + 1, a, b, decide (field 64 16 = 1)⟩] ∧ (t.core core).owner = k.owner
          ∧ (t.core core).walker.node = field 24 10 ∧ (t.core core).walker.flips = w.flips ++ [s.fresh] ∧ SameMemory s t)
      ∧ (∀ kind, (field 44 10, kind) ∈ [(0x002, CmdKind.gath), (0x003, .scat)] → field 64 16 / 2 ^ 13 ≠ 7 → a % 4 = 0 →
          a + 4 * (field 64 16 % 2 ^ 13 + 1) ≤ 0x100000 → k.engineFull 1 = false → puts .itinCommandNode 1 kind s.cycle (fun _ => True))
      ∧ (field 44 10 = 0x018 → field 64 16 = 0 → a % 8 = 0 → k.engineFull 3 = false → puts .itinCommandNode 3 .cmpl s.cycle (fun _ => True))
      ∧ (field 44 10 = 0x001 → field 64 16 = 0 → a % 64 = 0 → a + 64 ≤ 0x100000 → k.banksFree s.cycle (tilesOf a 64) = true → k.engineFull 0 = false →
          cpyBad desc = false → describedAt w.rng b = false → describedAt w.rng c = false → puts .itinCommandNode 0 .cpy (s.cycle + 1) (fun x => x.desc = desc))
      ∧ (∀ set, field 44 10 = 0x004 → collFields (field 64 16) = true → c < 2 ^ 42 → describedAt w.rng a = false → describedAt w.rng b = false →
          s.collSetOf w.jobId.toNat = some set → k.engineFull 2 = false → puts .itinCommandNode 2 .coll s.cycle (fun x => x.idx = [set, tget s.collNext 0 set]))))

/-! ## Transfer mode -/

/-- R251, R252, R305, R306: outside transfer mode XMIT and IMUX trap PHASECONF MODE. In it, XMIT hands part P of a vector, with its poison, to the router's
local input two cycles later, and IMUX yields its operand with part P replaced by the bits that stand at a router input, two cycles later,
and three more with a port. PHEND leaves transfer mode. -/
def Obligations.TransferMode : Prop :=
  ∀ (f : EF) (s : State),
    let core := s.issue.core
    let k := s.core core
    let a := s.readV f.a .i64
    let p := f.cmd.toNat % 8
    let q := f.cmd.toNat / 8 % 8
    let input := tget k.tw.inputs (0, 0) (f.cmd.toNat % 8)
    let mode := Host.Outcome.next (s.slotTrap ⟨0xC, 0x10, 0⟩)
    (s.start.transfer = false → exec (.xmit f) s = mode ∧ exec (.imux f) s = mode)
      ∧ (s.start.transfer = true →
        (∃ t x, exec (.xmit f) s = .next t ∧ (t.core core).tw.coming = k.tw.coming ++ [(s.cycle + 2, x)]
            ∧ (∀ i, i < 256 → x.1.getLsbD i = a.1.getLsbD (256 * p + i)) ∧ (∀ i, i < 4 → x.2.getLsbD i = a.2.getLsbD (4 * p + i))
            ∧ t.agenda = s.agenda ∧ (∀ n c, t.ctx n c = s.ctx n c) ∧ SameMemory s t)
          ∧ (∃ t v, exec (.imux f) s = .next t ∧ Yields s t 2 (isPort f.a) v (s.dst f.dst) .none ∧ v.vec = true
            ∧ (∀ i, i < 2048 → v.bits.getLsbD i = if 256 * q ≤ i ∧ i < 256 * q + 256 then input.1.getLsbD (i - 256 * q) else a.1.getLsbD i)
            ∧ (∀ i, i < 32 → v.poison.getLsbD i = if 4 * q ≤ i ∧ i < 4 * q + 4 then input.2.getLsbD (i - 4 * q) else a.2.getLsbD i)))
      ∧ (∃ t, exec .phend s = .next t ∧ OnlyActing s t ∧ t.agenda = s.agenda ∧ t.me = { s.me with transfer := false })

/-! ## The vitrine, monitors and the Almanac -/

/-- R187 to R193, R254: native dispatch. A call of a cached routine runs its body where its entry matches none, or dispatch or the entry is disabled at its core; else
it takes its native unit for the entry's cycles, or asks again when the unit is free. At its return, and at a checkpoint within 4,096 cycles of the
last where a pre-emption waits, it leaves what the body leaves, at once; what the body must wait for, its unit waits for. VITQ yields
a loaded entry, zeros for one that is not, and the controls, four cycles later; a write comes into force at each core within 64 cycles, and not before an earlier one,
VITCTL's setting every mask to its reset value.
Choices of the model that it rests on: log entries 14 and 41. -/
def Obligations.NativeDispatch : Prop :=
  (∀ (core ctx : Nat) (r : RtEnt) (s : State),
    let k := s.core core
    let x := k.ctx ctx
    let c := tget k.calls .none ctx
    let ev := Instr.routineDispatchDecision core ctx x.epoch
    (s.stoppedCore core = true → exec ev s = .next s) ∧
    (c.on = true → c.native = none → k.rtFind x.sr.imgBase c.ridx = some r → s.stoppedCore core = false →
      (r.entry = none ∨ (k.vitControl 0).getLsbD 0 = false ∨ (∃ e, r.entry = some e ∧ k.vitEnabled e = false) →
        ∃ t, exec ev s = .next t ∧ t.ctx core ctx = { x with wait := .none } ∧ tget (t.core core).calls .none ctx = .none ∧ t.agenda = s.agenda
          ∧ Others s t core ctx ∧ SameMemory s t)
      ∧ (∀ e, r.entry = some e → (k.vitControl 0).getLsbD 0 = true → k.vitEnabled e = true →
          let unit := vitUnit e
          let free := tget k.natFree 0 unit
          (s.cycle < free → ∃ t, exec ev s = .next t ∧ t.ctx core ctx = { x with wait := .engine (16 + unit) }
              ∧ t.agenda = s.agenda ++ [⟨free, rkCore, core, ev⟩] ∧ Others s t core ctx ∧ SameMemory s t)
          ∧ (free ≤ s.cycle → (∀ q, q ∈ x.q → q.produced = true) → x.loads = [] →
              let n := vitCycles e (x.q.getD 0 .fresh).val.word.toNat
              ∃ t, exec ev s = .next t ∧ t.ctx core ctx = { x with wait := .engine (16 + unit) } ∧ tget (t.core core).natFree 0 unit = s.cycle + n
                ∧ tget (t.core core).calls .none ctx = { c with native := some e, until_ := s.cycle + n }
                ∧ t.agenda = s.agenda ++ [⟨s.cycle + min n 4096, rkCore, core, .nativeCallReturn core ctx x.epoch⟩] ∧ Others s t core ctx ∧ SameMemory s t)
          ∧ (free ≤ s.cycle → (∃ q, q ∈ x.q ∧ q.produced = false) ∨ x.loads ≠ [] →
              ∃ t, exec ev s = .next t ∧ t.ctx core ctx = { x with wait := .engine (16 + unit) } ∧ tget (t.core core).natFree 0 unit = s.cycle + 2
                ∧ t.agenda = s.agenda ++ [⟨s.cycle + 1, rkCore, core, ev⟩] ∧ Others s t core ctx ∧ SameMemory s t))))
  ∧ (∀ (core ctx e : Nat) (s : State),
    let k := s.core core
    let x := k.ctx ctx
    let c := tget k.calls .none ctx
    let ev := Instr.nativeCallReturn core ctx x.epoch
    let due := decide (c.until_ ≤ s.cycle)
    let run := (s.runBody core ctx).runCall core ctx x.epoch x.shadow.occupied (!due) 65536
    let back (u : State) : Prop := u.gone core ctx x.epoch = false ∧ (u.ctx core ctx).inRoutine = false ∧ (u.ctx core ctx).shadow.occupied = x.shadow.occupied
    let later (u : State) (n : Nat) : Prop := ∃ t, exec ev s = .next t ∧ t.ctx core ctx = { u.ctx core ctx with wait := .engine (16 + vitUnit e) }
      ∧ tget (t.core core).calls .none ctx = c ∧ s.cycle + n < tget (t.core core).natFree 0 (vitUnit e)
      ∧ t.agenda = u.agenda ++ [⟨u.cycle + n, rkCore, core, ev⟩] ∧ Others u t core ctx ∧ SameMemory u t
    c.on = true → c.native = some e → s.upset core 13 = none →
      (∀ u, run = .ended u → back u → due = true → u.safe →
          ∃ t, exec ev s = .next t ∧ t.ctx core ctx = { u.ctx core ctx with readyAt := s.cycle } ∧ t.agenda = u.agenda
            ∧ tget (t.core core).natFree 0 (vitUnit e) = s.cycle ∧ Others u t core ctx ∧ SameMemory u t)
      ∧ (∀ u, run = .ended u → ¬ back u → u.safe →
          ∃ t, exec ev s = .next t ∧ t.agenda = u.agenda ∧ tget (t.core core).natFree 0 (vitUnit e) = s.cycle ∧ (∀ n y, t.ctx n y = u.ctx n y) ∧ SameMemory u t)
      ∧ (∀ u, run = .ended u → back u → due = false → s.safe → later s (min 4096 (c.until_ - s.cycle)))
      ∧ (∀ u, run = .point u → u.safe →
          (s.stoppedCore core = true → ∃ t, exec ev s = .next t ∧ t.agenda = u.agenda ∧ (∀ n y, t.ctx n y = u.ctx n y) ∧ SameMemory u t)
          ∧ (s.stoppedCore core = false → u.cycle = s.cycle → later u (min 4096 (c.until_ - s.cycle))))
      ∧ (∀ u, run = .waits u → u.safe → u.cycle = s.cycle → later u 1))
  ∧ (∀ (f : EF) (s : State),
    let a := (s.readS f.a .i64).1.toNat
    let b := (s.readS f.b .i64).1
    let k := s.core s.issue.core
    let opnd := Host.Outcome.next (s.slotTrap ⟨2, 4, BitVec.ofNat 64 s.issue.slot⟩)
    (256 ≤ a → exec (.vitqEntry f) s = opnd) ∧ (4 < a → exec (.vitqRd f) s = opnd ∧ exec (.vitqWr f) s = opnd)
      ∧ (a < 256 → ∃ t v, exec (.vitqEntry f) s = .next t ∧ Yields s t 4 (isPort f.a) v (s.dst f.dst) .none ∧ v.vec = true ∧ v.poison = 0
          ∧ (13 ≤ a → v.bits = 0)
          ∧ (a < 13 → v.bits.extractLsb' 0 128 = vitDigest a ∧ v.bits.extractLsb' 128 64 = vitClobber a ∧ v.bits.extractLsb' 192 32 = vitVclob a
              ∧ (v.bits.extractLsb' 224 16).toNat = [100, 110, 111, 113, 114, 115, 116, 119, 120, 132, 134, 135, 140].getD a 0
              ∧ (v.bits.extractLsb' 256 8).toNat = (if a = 0 then 1 else if a < 9 then 2 else if a < 12 then 3 else 4)
              ∧ v.bits.getLsbD 264 = k.vitEnabled a ∧ v.bits.getLsbD 265 = true ∧ ∀ i, 266 ≤ i → v.bits.getLsbD i = false))
      ∧ (a ≤ 4 → ∃ t, exec (.vitqRd f) s = .next t ∧ Yields s t 4 (isPort f.a)
          (.scalar (if a = 0 then BitVec.ofNat 64 (13 * 2 ^ 32 + Config.tableVersion.toNat * 2 ^ 16) + k.vitControl 0 else k.vitControl a) false) (s.dst f.dst) .none)
      ∧ (a ≤ 4 → ∃ t, exec (.vitqWr f) s = .next t ∧ (∀ n, n < 512 → s.changeoverDue n ≤ 64 →
              ∃ d, d ∈ t.agenda ∧ d.ev = .vitrineChangeover n a b ∧ s.cycle < d.cycle ∧ s.cycle + s.changeoverDue n ≤ d.cycle ∧ d.cycle ≤ s.cycle + 64)
          ∧ (∀ n, t.core n = s.core n) ∧ SameMemory s t))
  ∧ (∀ (core : Nat) (v : Word) (s : State),
    (∃ t, exec (.vitrineChangeover core 0 v) s = .next t ∧ (t.core core).vitControl 0 = v &&& 1 ∧ (t.core core).vitControl 1 = 0x1FFF
        ∧ (∀ n c, t.ctx n c = s.ctx n c) ∧ SameMemory s t)
      ∧ (∃ t, exec (.vitrineChangeover core 1 v) s = .next t ∧ (t.core core).vitControl 1 = v &&& 0x1FFF ∧ (t.core core).vitControl 0 = (s.core core).vitControl 0
        ∧ (∀ n c, t.ctx n c = s.ctx n c) ∧ SameMemory s t)
      ∧ (∀ i, i = 2 ∨ i = 3 ∨ i = 4 → ∃ t, exec (.vitrineChangeover core i v) s = .next t ∧ (t.core core).vitControl i = 0
        ∧ (∀ j, j ≠ i → (t.core core).vitControl j = (s.core core).vitControl j) ∧ (∀ n c, t.ctx n c = s.ctx n c) ∧ SameMemory s t))

/-- R254, R412, R413: monitors. MON.start empties a monitor's captures, of which every word reads 0, and begins windows of 2^B cycles; MON.stop freezes it; MON.rd yields a word of the
readable capture four cycles later, that of the window before in the very cycle of a window's end. At its end a running window's capture becomes
readable, and an end that is no longer its own does nothing. The periodic sample reads, among others, the length of the die's queues. -/
def MonitorsRule : Prop :=
  (∀ (f : EF) (s : State),
    let a := (s.readS f.a .i64).1.toNat
    let b := (s.readS f.b .i64).1.toNat
    let core := s.issue.core
    let k := s.core core
    let m := k.monitor a
    let opnd := Host.Outcome.next (s.slotTrap ⟨2, 4, BitVec.ofNat 64 s.issue.slot⟩)
    let only (t : State) : Prop := (∀ j, j ≠ a → (t.core core).monitor j = k.monitor j) ∧ (∀ n c, t.ctx n c = s.ctx n c) ∧ SameMemory s t
    let port := isPort f.a || isPort f.b
    (7 < a → exec (.monStart f) s = opnd ∧ exec (.monStop f) s = opnd ∧ exec (.monRd f) s = opnd)
      ∧ (b < 10 ∨ 40 < b → exec (.monStart f) s = opnd) ∧ (18 < b → exec (.monRd f) s = opnd)
      ∧ (a ≤ 7 → 10 ≤ b → b ≤ 40 → ∃ t x, exec (.monStart f) s = .next t ∧ only t ∧ (t.core core).monitor a = x ∧ x.on = true ∧ x.window = 2 ^ b
          ∧ x.work = .empty ∧ (∀ w, w ≤ 18 → x.readable.word w = 0) ∧ t.agenda = s.agenda ++ [⟨s.cycle + 2 ^ b, rkLast, core, .monitorWindowEnd core a x.stamp⟩])
      ∧ (a ≤ 7 → ∃ t, exec (.monStop f) s = .next t ∧ only t ∧ t.agenda = s.agenda ∧ (t.core core).monitor a = { m with on := false, stamp := 0 })
      ∧ (a ≤ 7 → b ≤ 18 →
          let c := if m.on = true ∧ m.since = s.cycle then m.before else m.readable
          let w : Word := if b = 0 then c.min else if b = 1 then c.max else if b = 18 then BitVec.ofNat 64 c.count else BitVec.ofNat 64 (tget c.bins 0 (b - 2))
          ∃ t, exec (.monRd f) s = .next t ∧ Yields s t 4 port (.scalar w false) (s.dst f.dst) .none))
  ∧ (∀ (core monitor stamp : Nat) (s : State),
    let m := (s.core core).monitor monitor
    (m.on = true → m.stamp = stamp → ∃ t, exec (.monitorWindowEnd core monitor stamp) s = .next t
        ∧ (t.core core).monitor monitor = { m with work := .empty, readable := m.work, before := m.readable, since := s.cycle }
        ∧ t.agenda = s.agenda ++ [⟨s.cycle + m.window, rkLast, core, .monitorWindowEnd core monitor stamp⟩] ∧ (∀ n c, t.ctx n c = s.ctx n c) ∧ SameMemory s t)
      ∧ (m.on = false ∨ m.stamp ≠ stamp → exec (.monitorWindowEnd core monitor stamp) s = .next s))
  ∧ (∀ (core : Nat) (k : Core) (s : State), s.cores.entries = [(core, k)] → (k.monitor 4).on = true →
    let n := (tget s.docents .reset (core / 128)).items.length
    ∃ t, exec .monitorPeriodicSample s = .next t ∧ t.agenda = s.agenda ++ [⟨s.cycle + 1024, rkCore, 0, .monitorPeriodicSample⟩]
      ∧ ((t.core core).monitor 4).work.count = (k.monitor 4).work.count + 1
      ∧ (n < 2 ^ 64 → ((t.core core).monitor 4).work.max.toNat = max (k.monitor 4).work.max.toNat n
          ∧ ((t.core core).monitor 4).work.min.toNat = min (k.monitor 4).work.min.toNat n)
      ∧ (∀ m, 5 ≤ m → m ≤ 7 → (k.monitor m).on = true → ((t.core core).monitor m).work.count = (k.monitor m).work.count + 1)
      ∧ (∀ c, t.ctx core c = s.ctx core c) ∧ SameMemory s t)

/-- R254, R337 to R343: the Almanac. ALMC.query yields the status word of the job, 0 for a job that it is not armed for, two cycles later. ALMC.rec and ALMC.play
trap OPND on a buffer out of form, or while it is armed, and kill the task on a poisoned address; rec arms recording with no record yet; play arms replay, and a header of another
form or job makes later launches of the job refused. ALMC.stop disarms. A wait that its record has not ended is a mismatch, for which the job is
killed or, by policy, goes on unbound. -/
def AlmanacControlsRule : Prop :=
  (∀ (f : EF) (s : State),
    let x := s.readS f.a .i64
    let a := x.1.toNat
    let b := (s.readS f.b .i64).1.toNat
    let al := s.almanac
    let job := s.start.sr.jobId.toNat
    let bad := a % 64 ≠ 0 ∨ b < 16 ∨ 34 < b ∨ al.state ≠ 0
    let opnd := Host.Outcome.next (s.slotTrap ⟨2, 4, BitVec.ofNat 64 s.issue.slot⟩)
    let play : Almanac := { al with state := 2, jobId := job, base := a, log2 := b, count := 0, complete := false, mismatch := false, ended := false,
                                    asid := s.start.sr.asid.toNat % 65536, records := [], cursors := .empty }
    let refused (t : State) : Prop := t.almanac = { play with ended := true, badJob := some job }
    (∃ t w, exec (.almcQuery f) s = .next t ∧ Yields s t 2 false (.scalar w false) (s.dst f.dst) .none
        ∧ (al.state = 0 ∨ al.jobId ≠ job → w = 0)
        ∧ (al.state = 1 ∨ al.state = 2 → al.jobId = job → w.toNat / 2 ^ 62 = (if al.state = 2 ∧ (al.ended = true ∨ (al.complete = false ∧ al.records.length ≤ al.count)) then 3 else al.state)
            ∧ w.getLsbD 61 = al.complete ∧ w.getLsbD 60 = al.mismatch ∧ w.toNat % 2 ^ 60 = min al.count (2 ^ 32 - 1)))
      ∧ (x.2 = true → exec (.almcRec f) s = .next (s.slotKill 1) ∧ exec (.almcPlay f) s = .next (s.slotKill 1))
      ∧ (x.2 = false → bad → exec (.almcRec f) s = opnd ∧ exec (.almcPlay f) s = opnd)
      ∧ (x.2 = false → ¬ bad → ∃ t, exec (.almcRec f) s = .next t ∧ t.almanac = { play with state := 1, complete := true, recent := [], recentAt := 0 } ∧ { t with almanac := al } = s)
      ∧ (x.2 = false → ¬ bad →
          (∀ u, s.almWords (play.xl s) a 8 = (none, u) → u.safe → ∃ t, exec (.almcPlay f) s = .next t ∧ refused t)
          ∧ (∀ h u, s.almWords (play.xl s) a 8 = (some h, u) → u.safe →
              let w0 := (h.getD 0 0).toNat
              let count := (h.getD 1 0).toNat
              let misfit := w0 % 2 ^ 32 ≠ 0x4C415147 ∨ (2 ^ b - 64) / 8 < count ∨ w0 / 2 ^ 32 ≠ job
              (misfit → ∃ t, exec (.almcPlay f) s = .next t ∧ refused t)
              ∧ (∀ l v, ¬ misfit → u.almWords (play.xl u) (a + 64) count = (some l, v) → v.safe → ∃ t, exec (.almcPlay f) s = .next t
                  ∧ t.almanac = { play with records := l, complete := (h.getD 2 0).getLsbD 0, badJob := if al.badJob = some job then none else al.badJob }
                  ∧ { t with almanac := v.almanac } = v)))
      ∧ (al.state = 0 → exec (.almcStop f) s = .next s)
      ∧ (al.state = 2 → s.safe → exec (.almcStop f) s = .next { s with almanac := { al with state := 0 } })
      ∧ (al.state = 1 → s.almHeader.safe → ∃ t, exec (.almcStop f) s = .next t ∧ t.almanac.state = 0 ∧ { t with almanac := s.almHeader.almanac } = s.almHeader))
  ∧ (∀ (core ctx stamp gid : Nat) (g : Group) (j : Job) (s : State), (s.core core).group = some gid → s.group gid = some g → s.job g.desc.jobId = some j →
    (s.almanac.binds core g.desc.jobId = true → tget s.almanac.cursors 0 core + 1 = stamp → (s.ctx core ctx).status = .idle →
      ∃ t k, exec (.almanacWaitTimeout core ctx stamp) s = .next t ∧ t.almanac.mismatch = true ∧ t.almanac.ended = true ∧ t.job g.desc.jobId = some k
        ∧ (s.ctl.detctl.getLsbD 1 = true → k = { j with nonRepro := true })
        ∧ (s.ctl.detctl.getLsbD 1 = false → k.fail = true ∧ (j.fail = false → k.cls = 0xB) ∧ ⟨s.cycle, rkDecide, 512, .groupKill gid⟩ ∈ t.agenda)
        ∧ ∃ d r, d ∈ t.agenda ∧ d.ev = .faultRecordWrite r ∧ r.word0.toNat % 2 ^ 32 = 0x0001000B)
      ∧ (s.almanac.binds core g.desc.jobId = false ∨ tget s.almanac.cursors 0 core + 1 ≠ stamp ∨ (s.ctx core ctx).status = .running →
          exec (.almanacWaitTimeout core ctx stamp) s = .next s))

/-- R254, R412, R413: monitors. MON.start empties a monitor's captures, of which every word reads 0, and begins windows of 2^B cycles; MON.stop freezes it; MON.rd yields a word of the
readable capture four cycles later, that of the window before in the very cycle of a window's end. At its end a running window's capture becomes
readable, and an end that is no longer its own does nothing. The periodic sample reads, among others, the length of the die's queues.
R254, R337 to R343: the Almanac. ALMC.query yields the status word of the job, 0 for a job that it is not armed for, two cycles later. ALMC.rec and ALMC.play
trap OPND on a buffer out of form, or while it is armed, and kill the task on a poisoned address; rec arms recording with no record yet; play arms replay, and a header of another
form or job makes later launches of the job refused. ALMC.stop disarms. A wait that its record has not ended is a mismatch, for which the job is
killed or, by policy, goes on unbound. -/
def Obligations.MonitorsAndAlmanac : Prop := MonitorsRule ∧ AlmanacControlsRule

/-! ## Launches, groups and jobs -/

/-- The state of a module with an event put on its agenda. -/
def Also (s : State) (d : Due) : State := { s with agenda := s.agenda ++ [d] }

/-- R274 to R278, R283: launches. A launch enters the intake while it holds fewer than 64, and is read later; a refused one leaves a record of KIND 5 and, where its
template can be read and it names a completion word through a legal set, that word with FAIL, its class and its number; a task launch to a die puts its groups in that
die's queues in order, a start-vector launch makes an ensemble; an ensemble goes to its die, before any other item, only when its member can be placed
at once; and a group that names no die goes to the one with the most free cores of those that admit it, the lowest on a tie. Tiles of cores on which no context starts are written at the launch.
Choices of the model that it rests on: log entries 14 and 87. -/
def Obligations.LaunchesAndCurator : Prop :=
  (∀ (block : Line) (host : Bool) (s : State),
    (64 ≤ s.intake.length → exec (.launchWrite block host) s = .next (Also s ⟨s.cycle + 1, rkDecide, 512, .launchWrite block host⟩))
      ∧ (s.intake.length < 64 → ∃ t l d, exec (.launchWrite block host) s = .next t ∧ t.intake = s.intake ++ [l] ∧ l.block = block
          ∧ l.jobId = block.toNat / 2 ^ 32 % 2 ^ 32 ∧ l.time = s.cycle ∧ t.agenda = s.agenda ++ [d] ∧ s.cycle < d.cycle
          ∧ d.ev = (if block.toNat % 2 ^ 8 = 0 then .startVectorLaunch l.num else .taskLaunch l.num) ∧ (∀ n, t.core n = s.core n) ∧ SameMemory s t))
  ∧ (∀ (l : Launch) (i : Instr) (tr : TrapInfo) (s u : State),
    let b := l.block.toNat
    let q : State := { u with intake := [], agenda := u.agenda ++ [⟨u.cycle, rkRing, 512 * 64, .faultRecordWrite
      ⟨ringWord0 0 u.pkgId 0 0 5 5 tr.sub tr.cls, tr.addr, BitVec.ofNat 64 (b / 2 ^ 32 % 2 ^ 32), 0, 0, 0, 0, none⟩⟩] }
    let cmpl := b / 2 ^ 192 % 2 ^ 64 / 8 * 8
    let template := q.curRead (b / 2 ^ 320 % 2 ^ 64) 256
    s.intake = [l] → u.intake = [l] →
      (i = .taskLaunch l.num ∧ s.curTask b l.num = (.error tr, u)) ∨ (i = .startVectorLaunch l.num ∧ s.curStart b l.num = (.error tr, u)) →
      (∀ e v, template = (.error e, v) → v.safe → exec i s = .next v)
        ∧ (∀ words v x path extra w, template = (.ok words, v) → cmpl ≠ 0 → rangeXl (legalSets (wordsOf 32 words.1)) cmpl 8 needW = .ok x → x.host = true →
            v.routeOf 0 x = (.ok (path, extra), w) → w.safe → ∃ t f, exec i s = .next t
              ∧ f = 2 ^ 63 + (if b.testBit 24 = true then 0 else 2 ^ 62) + tr.cls % 2 ^ 16 * 2 ^ 40 + b / 2 ^ 256 % 2 ^ 40
              ∧ ∀ m a, t.byteIn m a = if m = .host ∧ x.ia ≤ a ∧ a < x.ia + 8 then BitVec.ofNat 8 (f / 256 ^ (a - x.ia)) else w.byteIn m a))
  ∧ (∀ (l : Launch) (j : Job) (gs : List GroupDesc) (s u : State),
    let key := u.jobKey (l.block.toNat / 2 ^ 32 % 2 ^ 32)
    s.intake = [l] → u.intake = [l] → s.curTask l.block.toNat l.num = (.ok (j, gs), u) → u.safe → l.die < 4 → (∀ g, g ∈ gs → g.ens = false) →
      ∃ t is, exec (.taskLaunch l.num) s = .next t ∧ t.job key = some j ∧ t.intake = []
        ∧ (tget t.docents .reset l.die).items = (tget u.docents .reset l.die).items ++ is ∧ is.map (·.kind) = gs.map ItemKind.group
        ∧ is.map (·.level) = gs.map (fun g => g.prio - g.rise) ∧ (∀ i, i ∈ is → i.time = u.cycle ∧ i.first = false) ∧ SameMemory u t)
  ∧ (∀ (l : Launch) (j : Job) (gs : List (Nat × GroupDesc)) (loose : List TileInit) (s u : State),
    let key := u.jobKey (l.block.toNat / 2 ^ 32 % 2 ^ 32)
    s.intake = [l] → u.intake = [l] → s.curStart l.block.toNat l.num = (.ok (j, gs, loose), u) → u.safe →
      ∃ t, exec (.startVectorLaunch l.num) s = .next t ∧ t.job key = some j
        ∧ (gs ≠ [] → t.intake = [{ l with groups := gs.map (·.2), ens := true, die := 4 }]
            ∧ t.agenda = u.agenda ++ [⟨u.cycle, rkDecide, 511, .ensembleDispatch l.num⟩])
        ∧ (gs = [] → t.intake = [] ∧ t.agenda = u.agenda ++ [⟨u.cycle, rkJob, key, .jobComplete⟩])
        ∧ (loose = [] → SameMemory u t)
        ∧ (∀ x, loose = [x] → (u.core x.core).group = none → 2048 * x.tile + x.len ≤ 0x100000 → x.len % 2048 = 0 →
            (∀ y, y < x.len → t.byteIn (.pad x.core) (2048 * x.tile + y) = BitVec.ofNat 8 (x.data / 256 ^ y))
            ∧ ∀ n, x.tile ≤ n → n < x.tile + x.len / 2048 → (t.core x.core).engOwned n = x.eng))
  ∧ (∀ (l : Launch) (g : GroupDesc) (s : State), s.intake = [l] → l.groups = [g] → g.ens = true → g.startVec = false → l.die < 4 →
    let doc := tget s.docents .reset l.die
    let fits := g.nbar ≤ doc.barsFree.length ∧ (findRect (s.freeCores l.die) l.die g.w g.h).isSome = true
    (¬ fits → exec (.ensembleDispatch l.num) s = .next s)
      ∧ (fits → ∃ t i, exec (.ensembleDispatch l.num) s = .next t ∧ t.intake = [] ∧ (tget t.docents .reset l.die).items = doc.items ++ [i]
          ∧ i.kind = .group g ∧ i.first = true ∧ i.level = g.prio - g.rise ∧ i.time = s.cycle))
  ∧ (∀ (l : Launch) (g : GroupDesc) (s : State), s.intake = [l] → l.groups = [g] → g.ens = false →
    let free (d : Nat) : Nat := (s.freeCores d).length
    let admits (d : Nat) : Prop := g.w * g.h ≤ free d ∧ g.nbar ≤ (tget s.docents .reset d).barsFree.length
    ((∀ d, d < 4 → ¬ admits d) → exec .curatorDispatch s = .next s)
      ∧ (∀ d, d < 4 → admits d → (∀ e, e < 4 → admits e → free e ≤ free d ∧ (e < d → free e < free d)) →
          ∃ t i, exec .curatorDispatch s = .next t ∧ t.intake = [] ∧ (tget t.docents .reset d).items = (tget s.docents .reset d).items ++ [i]
            ∧ i.kind = .group g ∧ i.first = false ∧ i.level = g.prio - g.rise ∧ ∀ e, e ≠ d → tget t.docents .reset e = tget s.docents .reset e))

/-- R60, R277, R285: a task that begins on a context from a record, no earlier than a cycle. -/
def Begins (t : State) (core ctx : Nat) (j : Job) (r : RecP) (ready : Nat) : Prop :=
  let y := t.ctx core ctx
  y.status = .running ∧ y.pc = BitVec.ofNat 64 (recCode r / 64 * 64) ∧ y.readyAt = ready ∧ y.record = r ∧ y.sr.priv = 0 ∧ y.sr.prio = BitVec.ofNat 64 (recPrio r)
    ∧ y.sr.taskId = BitVec.ofNat 64 (recTask r) ∧ y.sr.jobId = BitVec.ofNat 64 j.jobId ∧ y.sr.trapVec = j.trapVec ∧ y.sr.joinAddr = BitVec.ofNat 64 (recJoin r)
    ∧ y.sr.rng = j.rng ∧ y.sr.fmode = j.fmode ∧ y.q = freshQueue ∧ y.m = freshMasks ∧ y.reg false 0 = .scalar (BitVec.ofNat 64 (recFrame r)) false
    ∧ (∀ n, n ≠ 0 → y.reg false n = .zero) ∧ (∀ n, y.reg true n = .vzero) ∧ y.shadow = .empty ∧ y.inRoutine = false

/-- R277, R284 to R287, R292: placement. A Docent decides at most once in 8 cycles. The head group that has a place takes it, whole: its barriers, the lowest free
ones, its cores, and its records' contexts, whose first bundles issue 40 to 400 cycles later. Where it has none and pre-emption is allowed, victims are
chosen, and each is pre-empted. A pre-empted group is restored, each core at its index, to go on when its state has been written back; and a
loose record is bound to an idle context of its job's pool, or makes a pool group of its own.
Choices of the model that it rests on: log entries 14, 67, 69 and 70. -/
def Obligations.GroupPlacement : Prop :=
  (∀ s : State,
    let d := s.unit
    let doc := tget s.docents .reset d
    (s.cycle < doc.nextDecision → exec .docentPlacement s = .next (Also s ⟨doc.nextDecision, rkDecide, d, .docentPlacement⟩))
      ∧ (doc.nextDecision ≤ s.cycle → s.boundLoose d = none →
          (s.headItem d = none → exec .docentPlacement s = .next s)
          ∧ (∀ i, s.headItem d = some i →
              (∀ key, i.kind = .saved key → exec .docentPlacement s = .next (Also s ⟨s.cycle, rkDecide, d, .groupRestore⟩))
              ∧ (∀ r n, i.kind = .loose r n → exec .docentPlacement s = .next (Also s ⟨s.cycle, rkDecide, d, .looseRecordBinding⟩))
              ∧ (∀ g, i.kind = .group g → s.placeFor d i = none →
                  exec .docentPlacement s = .next (if s.ctl.schedctl.getLsbD 0 = true ∧ s.makingFor d i = none then Also s ⟨s.cycle, rkDecide, d, .docentPreemptionDecision⟩ else s))
              ∧ (∀ g x y, i.kind = .group g → s.placeFor d i = some (x, y) → s.safe → s.almanac.state = 0 → s.group g.gid = none → g.startVec = false → g.pool = false →
                  g.tiles = [] → g.ens = false → g.doldn = 0 → (∀ e, e ∈ g.recs.entries → (s.job e.2.job).isSome = true) →
                  ∃ t grp, exec .docentPlacement s = .next t ∧ t.group g.gid = some grp ∧ grp.desc = g ∧ grp.die = d ∧ grp.x = x ∧ grp.y = y ∧ grp.phase = .placed
                    ∧ grp.bars = doc.barsFree.take g.nbar ∧ (tget t.docents .reset d).barsFree = doc.barsFree.drop g.nbar
                    ∧ (tget t.docents .reset d).nextDecision = s.cycle + 8 ∧ (tget t.docents .reset d).items = doc.items.filter (fun e => e.num != i.num)
                    ∧ (∀ n, n ∈ grp.coreList → (t.core n).group = some g.gid ∧ (t.core n).sems = .empty ∧ (t.core n).owner = .empty
                        ∧ ∀ c, (t.ctx n c).halted = false)
                    ∧ (∀ e r j, g.recs.entries = [(e, r)] → s.job r.job = some j → r.joined = false → ∃ at_, s.cycle + 40 ≤ at_ ∧ at_ ≤ s.cycle + 400
                        ∧ Begins t (grp.coreAt (e % (g.w * g.h))) (e / (g.w * g.h)) j r at_)
                    ∧ SameMemory s t))))
  ∧ (∀ (i : Item) (s : State),
    let d := s.unit
    let doc := tget s.docents .reset d
    s.headItem d = some i →
      (s.bestVictims d (s.itemShape i).1 (s.itemShape i).2.1 i.level = none → exec .docentPreemptionDecision s = .next s)
      ∧ (∀ x y, s.bestVictims d (s.itemShape i).1 (s.itemShape i).2.1 i.level = some (x, y, []) → exec .docentPreemptionDecision s = .next s)
      ∧ (∀ x y l, s.bestVictims d (s.itemShape i).1 (s.itemShape i).2.1 i.level = some (x, y, l) → l ≠ [] → ∃ t, exec .docentPreemptionDecision s = .next t
          ∧ (tget t.docents .reset d).making = doc.making.filter (fun m => m.1 != i.num) ++ [(i.num, x, y, l)] ∧ (tget t.docents .reset d).items = doc.items
          ∧ t.agenda = s.agenda ++ l.map (fun key => ⟨s.cycle, rkDecide, 512, .groupPreempt key⟩)))
  ∧ (∀ (i : Item) (key x y : Nat) (g : Group) (s : State),
    let d := s.unit
    let doc := tget s.docents .reset d
    s.headItem d = some i → i.kind = .saved key → s.group key = some g → s.placeFor d i = some (x, y) → g.desc.doldn = 0 → x + g.desc.w ≤ 16 → y + g.desc.h ≤ 8 →
      ∃ t grp, exec .groupRestore s = .next t ∧ t.group key = some grp ∧ grp.phase = .placed ∧ grp.die = d ∧ grp.x = x ∧ grp.y = y ∧ grp.queue = g.queue
        ∧ grp.bars = doc.barsFree.take g.desc.nbar ∧ (tget t.docents .reset d).items = doc.items.filter (fun e => e.num != i.num)
        ∧ ∀ n, n < g.desc.w * g.desc.h →
            let k := tget g.saved .reset n
            let core := 128 * d + 16 * (y + n / g.desc.w) + x + n % g.desc.w
            (t.core core).group = some key ∧ (t.core core).sp = k.sp ∧ (t.core core).spPoison = k.spPoison ∧ (t.core core).owner = k.owner ∧ (t.core core).sems = k.sems
              ∧ (t.core core).accs = k.accs ∧ (t.core core).latches = k.latches ∧ (t.core core).view = .empty ∧ (t.core core).rtCache = []
              ∧ ∀ c, (k.ctx c).status = .running → (t.ctx core c).status = .running ∧ (t.ctx core c).readyAt = s.cycle + 17936 ∧ (t.ctx core c).pc = (k.ctx c).pc
                  ∧ (t.ctx core c).s = (k.ctx c).s ∧ (t.ctx core c).v = (k.ctx c).v ∧ (t.ctx core c).q = (k.ctx c).q ∧ (t.ctx core c).sr = (k.ctx c).sr)
  ∧ (∀ (i : Item) (r : RecP) (n : Nat) (j : Job) (s : State),
    let d := s.unit
    let doc := tget s.docents .reset d
    s.safe → s.almanac.state = 0 → s.headItem d = some i → i.kind = .loose r n → s.job r.job = some j → r.joined = false →
      (∀ core ctx key, s.poolContext d r.job = some (core, ctx) → (s.core core).group = some key →
          ∃ t at_, exec .looseRecordBinding s = .next t ∧ Begins t core ctx j r at_ ∧ s.cycle ≤ at_ ∧ Others s t core ctx
            ∧ (tget t.docents .reset d).items = doc.items.filter (fun e => e.num != i.num) ∧ SameMemory s t)
        ∧ (∀ x y, s.poolContext d r.job = none → s.placeFor d i = some (x, y) → s.group (0xFFFF0000 + (128 * d + 16 * y + x)) = none →
          let core := 128 * d + 16 * y + x
          ∃ t grp at_, exec .looseRecordBinding s = .next t ∧ t.group (0xFFFF0000 + core) = some grp ∧ grp.desc.pool = true ∧ grp.desc.w = 1 ∧ grp.desc.h = 1 ∧ grp.bars = []
            ∧ (t.core core).group = some (0xFFFF0000 + core) ∧ Begins t core 0 j r at_ ∧ s.cycle + 40 ≤ at_ ∧ at_ ≤ s.cycle + 400
            ∧ (tget t.docents .reset d).items = doc.items.filter (fun e => e.num != i.num)))

/-- R271, R290, R291, R293: a placed group stops, and is saved from the next cycle on; a hold keeps what is saved, and what waits of its number, from dispatch
until a release. It is saved when it has quiesced, or after 16,800 cycles: its cores' state is kept by index, and their contexts are idle; 18,136 cycles later its
cores and barriers are free and it waits in its queue with the time of its first entry. A kill drops what waits of its number, kills its tasks, fails its job
and, when nothing is under way, frees its cores.
Choices of the model that it rests on: log entries 67, 68 and 70. -/
def Obligations.PreemptionAndKill : Prop :=
  (∀ (key : Nat) (g : Group) (s : State), s.group key = some g → g.phase = .placed → (∀ n, n ∈ g.coreList → (s.core n).fwds = []) →
    let saves : Due := ⟨s.cycle + 1, rkDecide, 512, .preemptSave key⟩
    (∃ t, exec (.groupPreempt key) s = .next t ∧ t.group key = some { g with phase := .stopping, stopAt := s.cycle } ∧ t.agenda = s.agenda ++ [saves]
        ∧ (∀ n, t.core n = s.core n) ∧ SameMemory s t)
      ∧ (∃ t, exec (.groupHold key) s = .next t ∧ t.group key = some { g with phase := .stopping, stopAt := s.cycle, hold := true } ∧ t.agenda = s.agenda ++ [saves]
        ∧ (∀ d i, i ∈ (tget t.docents .reset d).items → i.kind = .saved key ∨ (∃ e, i.kind = .group e ∧ e.gid = key) → i.hold = true)
        ∧ (∀ n, t.core n = s.core n) ∧ SameMemory s t)
      ∧ (∃ t, exec (.groupRelease key) s = .next t ∧ t.group key = some { g with hold := false }
        ∧ (∀ d i, i ∈ (tget t.docents .reset d).items → i.kind = .saved key ∨ (∃ e, i.kind = .group e ∧ e.gid = key) → i.hold = false)
        ∧ (∀ n, t.core n = s.core n) ∧ SameMemory s t))
  ∧ (∀ (key : Nat) (g : Group) (s : State), s.group key = some g → g.phase = .stopping →
    (s.quiesced g = false → s.cycle < g.stopAt + 16800 → exec (.preemptSave key) s = .next (Also s ⟨s.cycle + 1, rkDecide, 512, .preemptSave key⟩))
      ∧ (s.quiesced g = true ∨ g.stopAt + 16800 ≤ s.cycle → ∃ t h, exec (.preemptSave key) s = .next t ∧ t.group key = some h ∧ h.phase = .saving
          ∧ (∀ i, i < g.desc.w * g.desc.h → tget h.saved .reset i = (s.core (g.coreAt i)).saved ∧ (tget h.saved .reset i).sp = (s.core (g.coreAt i)).sp
              ∧ ∀ c, (t.ctx (g.coreAt i) c).status = .idle)
          ∧ t.agenda = s.agenda ++ [⟨s.cycle + (17936 + 200), rkDecide, 512, .preemptRelease key⟩] ∧ SameMemory s t))
  ∧ (∀ (key : Nat) (g : Group) (s : State), s.group key = some g → g.phase = .saving →
    ∃ t i, exec (.preemptRelease key) s = .next t ∧ t.group key = some { g with phase := .saved, bars := [] }
      ∧ (∀ n, n ∈ g.coreList → (t.core n).group = none) ∧ (∀ b, b < 64 → b ∈ g.bars → b ∈ (tget t.docents .reset g.die).barsFree)
      ∧ (tget t.docents .reset g.die).items = (tget s.docents .reset g.die).items ++ [i] ∧ i.kind = .saved key ∧ i.level = g.desc.prio ∧ i.time = g.time ∧ i.hold = g.hold
      ∧ SameMemory s t)
  ∧ (∀ (key n : Nat) (g : Group) (s : State), s.groups.entries = [(key, some g)] → g.desc.gid = n → key < 2 ^ 64 →
    exec (.groupPreempt n) s = exec (.groupPreempt key) s ∧ exec (.groupKill n) s = exec (.groupKill key) s)
  ∧ (∀ (key : Nat) (s : State), s.group key = none → (∀ k g, (k, some g) ∈ s.groups.entries → g.desc.gid ≠ key) →
    ∃ t, exec (.groupKill key) s = .next t ∧ (∀ n, t.core n = s.core n) ∧ SameMemory s t
      ∧ ∀ d i, i ∈ (tget t.docents .reset d).items → ∀ e, i.kind = .group e → e.gid ≠ key)
  ∧ (∀ (key : Nat) (g : Group) (j : Job) (s : State), s.group key = some g → g.phase = .placed → s.job g.desc.jobId = some j → j.fail = false →
    ∃ t, exec (.groupKill key) s = .next t ∧ (∀ m, m ∈ s.members g → (s.ctx m.1 m.2).delayNext = false → (t.ctx m.1 m.2).status = .idle)
      ∧ (∃ k, t.job g.desc.jobId = some k ∧ k.fail = true) ∧ (∀ n, n ∈ g.coreList → (t.core n).queue = []) ∧ SameMemory s t
      ∧ (s.members g = [] → (∀ n, n ∈ g.coreList → (s.core n).quiet true = true ∧ (s.core n).walker.running = false) → s.gangs = [] →
          t.group key = none ∧ (∀ n, n ∈ g.coreList → (t.core n).group = none) ∧ ⟨s.cycle, rkJob, g.desc.jobId, .jobComplete⟩ ∈ t.agenda))

/-- R279, R281, R282, R285, R298, R342: an idle context pops its core's queue first, then its group's, to issue 8 or 16 cycles later, and 16 more for a record that a join pushed; a waiting item that ages rises
one level; a job with nothing left to do writes its completion word and is forgotten; and a group whose watch has expired is reported once, and
else watched on.
Choices of the model that it rests on: log entry 76. -/
def Obligations.RecordsJobsAndWatches : Prop :=
  (∀ (core ctx key : Nat) (g : Group) (j : Job) (r : RecP) (rest : List RecP) (s : State),
    let k := s.core core
    let x := k.ctx ctx
    s.safe → k.group = some key → s.group key = some g → g.phase = .placed → g.desc.startVec = false → x.status = .idle → x.halted = false → k.dead = false →
      s.almanac.state = 0 → recResume r = false → s.job r.job = some j →
      let more := if r.joined = true then 16 else 0
      (k.queue = r :: rest → ∃ t, exec (.recordPop core ctx) s = .next t ∧ (t.core core).queue = rest ∧ t.group key = some g
          ∧ Begins t core ctx j r (s.cycle + 8 + more) ∧ Others s t core ctx ∧ SameMemory s t)
        ∧ (k.queue = [] → g.queue = r :: rest → ∃ t, exec (.recordPop core ctx) s = .next t ∧ (t.core core).queue = [] ∧ t.group key = some { g with queue := rest }
          ∧ Begins t core ctx j r (s.cycle + 16 + more) ∧ Others s t core ctx ∧ SameMemory s t)
        ∧ (k.queue = [] → g.queue = [] → s.groupOver g = false → exec (.recordPop core ctx) s = .next s))
  ∧ (∀ (die : Nat) (i : Item) (s : State), (tget s.docents .reset die).items = [i] →
    ∃ t, exec (.agingRise die i.num) s = .next t ∧ (tget t.docents .reset die).items = [{ i with level := i.level - 1 }]
      ∧ t.agenda = s.agenda ++ [⟨s.cycle + s.agePeriod, rkLast, die, .agingRise die i.num⟩, ⟨s.cycle + 1, rkDecide, die, .docentPlacement⟩]
      ∧ (∀ n, t.core n = s.core n) ∧ SameMemory s t)
  ∧ (∀ (die : Nat) (l : Launch) (g : GroupDesc) (s : State), (tget s.docents .reset die).items = [] → s.intake = [l] → l.groups = [g] → g.aging = true →
    ∃ t, exec (.agingRise die l.num) s = .next t ∧ t.intake = [{ l with groups := [{ g with rise := min (g.rise + 1) g.prio }] }]
      ∧ t.agenda = s.agenda ++ [⟨s.cycle + s.agePeriod, rkLast, die, .agingRise die l.num⟩] ∧ (∀ n, t.core n = s.core n) ∧ SameMemory s t)
  ∧ (∀ (j : Job) (s : State),
    let nonRepro := !j.det || j.nonRepro
    let word : Word := BitVec.ofNat 64 ((if j.fail = true then 2 ^ 63 else 0) + (if nonRepro = true then 2 ^ 62 else 0) + j.cls % 2 ^ 16 * 2 ^ 40 + j.cmplSeq.toNat % 2 ^ 40)
    s.safe → s.job s.unit = some j → s.almanac.state = 0 → s.merges = [] →
      (j.done = true ∨ s.jobBusy s.unit = true → exec .jobComplete s = .next s)
        ∧ (j.done = false → s.jobBusy s.unit = false →
          (j.cmplAddr = 0 → ∃ t, exec .jobComplete s = .next t ∧ t.job s.unit = none ∧ (∀ n, t.core n = s.core n) ∧ SameMemory s t)
          ∧ (∀ x path extra u, j.cmplAddr ≠ 0 → rangeXl j.rng j.cmplAddr.toNat 8 needW = .ok x → x.host = true → s.routeOf 0 x = (.ok (path, extra), u) → u.safe →
              ∃ t, exec .jobComplete s = .next t ∧ t.job s.unit = none
                ∧ ∀ m a, t.byteIn m a = if m = .host ∧ x.ia ≤ a ∧ a < x.ia + 8 then word.extractLsb' (8 * (a - x.ia)) 8 else s.byteIn m a)))
  ∧ (∀ (key : Nat) (g : Group) (s : State), s.group key = some g →
    let n := 2 ^ g.desc.doldn
    (g.hung = true ∨ g.phase ≠ .placed → exec (.doldrumsExpiry key g.watch) s = .next s)
      ∧ (g.hung = false → g.phase = .placed → s.ctl.schedctl.getLsbD 1 = false → ∃ t, exec (.doldrumsExpiry key g.watch) s = .next t
          ∧ t.group key = some { g with lastSink := s.cycle } ∧ t.agenda = s.agenda ++ [⟨s.cycle + n, rkEngine, 2 ^ 20, .doldrumsExpiry key g.watch⟩]
          ∧ (∀ n, t.core n = s.core n) ∧ SameMemory s t)
      ∧ (g.hung = false → g.phase = .placed → s.ctl.schedctl.getLsbD 1 = true →
          (s.cycle < g.lastSink + n → exec (.doldrumsExpiry key g.watch) s = .next (Also s ⟨g.lastSink + n, rkEngine, 2 ^ 20, .doldrumsExpiry key g.watch⟩))
          ∧ (g.lastSink + n ≤ s.cycle → ∃ t, exec (.doldrumsExpiry key g.watch) s = .next t ∧ t.group key = some { g with hung := true }
              ∧ (∀ c, c ∈ g.coreList → (∃ m, m ∈ s.members g ∧ m.1 = c) → ∃ d r, d ∈ t.agenda ∧ d.ev = .faultRecordWrite r ∧ r.word0.toNat / 2 ^ 32 % 2 ^ 4 = 1
                  ∧ r.word0.toNat / 2 ^ 41 % 2 ^ 9 = c % 2 ^ 9 ∧ r.word2 = BitVec.ofNat 64 g.desc.gid ∧ r.word3 = (s.ctx c 0).pc)
              ∧ (∀ n, t.core n = s.core n) ∧ SameMemory s t)))

/-! ## Reliability, power, the network's power and the control space -/

/-- A field of w bits of a word, from bit lo on. -/
def wordField (x : Word) (lo w : Nat) : Nat := x.toNat / 2 ^ lo % 2 ^ w

/-- R374, R378: an entry of a die's ECC log, at its head, with the cycle. -/
def EccLogged (s t : State) (place ty : Nat) (scrub : Bool) (pa sym : Nat) : Prop :=
  let d := dieOfPa pa
  tget t.ctl.eccLog (0, 0) (256 * d + (wordField (tget s.ctl.eccHead 0 d) 0 8 + place) % 256)
    = (BitVec.ofNat 64 (ty * 2 ^ 60 + (if scrub = true then 2 ^ 59 else 0) + channelOf pa % 128 * 2 ^ 52 + sym % 32 * 2 ^ 47 + pa % 2 ^ 40), BitVec.ofNat 64 s.cycle)

/-- R375, R378: an entry of a die's transfer log. -/
def XferLogged (s t : State) (outcome attempts : Nat) (groups : BitVec 8) (pa : Nat) : Prop :=
  let d := dieOfPa pa
  tget t.ctl.xferLog (0, 0) (256 * d + wordField (tget s.ctl.xferHead 0 d) 0 8)
    = (BitVec.ofNat 64 (outcome * 2 ^ 62 + attempts * 2 ^ 59 + channelOf pa % 128 * 2 ^ 52 + groups.toNat * 2 ^ 44 + pa % 2 ^ 40), BitVec.ofNat 64 s.cycle)

/-- The cores, the memories and the agenda are as they were. -/
def ManagersOnly (s t : State) : Prop := t.cores = s.cores ∧ SameMemory s t ∧ t.agenda = s.agenda

/-- R374 to R376, R379, R380: what a block's read meets is logged and counted, one symbol as TYPE 0, two as TYPE 1 with advice of TYPE 3, a tag that does not hold as TYPE 2;
a transfer whose parity mismatches is retried 16 cycles later, up to 3 times; then its channel narrows in 256 cycles to the half that held no mismatch, or, where both mismatch or it
is narrow, fails, with WIDTH 0; and the scrubber, while EN is 1, takes the next block in ascending order every 2^RATE cycles, and with WB 1 writes a corrected block back. -/
def DramRecoveryRule : Prop :=
  (∀ (pa outcome symbol : Nat) (enc tagOk : Bool) (s : State), enc = false ∨ tagOk = true →
    let c := channelOf pa
    let old := tget s.ctl.chstat widthReset c
    (outcome = 0 → exec (.dramBlockRead pa outcome symbol enc tagOk) s = .next s)
      ∧ (outcome = 1 → ∃ t, exec (.dramBlockRead pa outcome symbol enc tagOk) s = .next t ∧ EccLogged s t 0 0 false pa symbol
          ∧ wordField (tget t.ctl.chstat widthReset c) 16 16 = min 65535 (wordField old 16 16 + 1) ∧ ManagersOnly s t)
      ∧ (outcome = 2 → ∃ t, exec (.dramBlockRead pa outcome symbol enc tagOk) s = .next t ∧ EccLogged s t 0 1 false pa 0 ∧ EccLogged s t 1 3 false pa 0
          ∧ wordField (tget t.ctl.chstat widthReset c) 32 16 = min 65535 (wordField old 32 16 + 1) ∧ (tget t.ctl.chstat widthReset c).getLsbD 2 = true ∧ ManagersOnly s t))
  ∧ (∀ (pa symbol : Nat) (s : State), ∃ t, exec (.dramBlockRead pa 0 symbol true false) s = .next t ∧ EccLogged s t 0 2 false pa 0
      ∧ wordField (tget t.ctl.chstat widthReset (channelOf pa)) 32 16 = min 65535 (wordField (tget s.ctl.chstat widthReset (channelOf pa)) 32 16 + 1) ∧ ManagersOnly s t)
  ∧ (∀ (pa attempt : Nat) (groups : BitVec 8) (s : State),
    let c := channelOf pa
    let g := (s.mismatches pa).headD 0
    s.channelWidth c ≠ 0 → ∃ t, exec (.parityRetry pa attempt groups) s = .next t ∧ t.cores = s.cores ∧ SameMemory s t
      ∧ wordField (tget t.ctl.chstat widthReset c) 8 8 = min 255 (wordField (tget s.ctl.chstat widthReset c) 8 8 + 1)
      ∧ (g = 0 → XferLogged s t 0 attempt groups pa ∧ t.channelWidth c = s.channelWidth c ∧ t.agenda = s.agenda)
      ∧ (g ≠ 0 → attempt < 3 → t.channelWidth c = s.channelWidth c ∧ t.agenda = s.agenda ++ [⟨s.cycle + 16, rkLast, pa / 64, .parityRetry pa (attempt + 1) g⟩])
      ∧ (g ≠ 0 → 3 ≤ attempt → s.channelWidth c = 2 ∧ (g &&& 0x0F = 0 ∨ g &&& 0xF0 = 0) →
          tget t.rel.narrow 0 c = g ∧ t.agenda = s.agenda ++ [⟨s.cycle + 256, rkLast, c, .channelNarrowComplete c pa⟩])
      ∧ (g ≠ 0 → 3 ≤ attempt → s.channelWidth c ≠ 2 ∨ (g &&& 0x0F ≠ 0 ∧ g &&& 0xF0 ≠ 0) → XferLogged s t 2 4 g pa ∧ t.channelWidth c = 0 ∧ t.agenda = s.agenda))
  ∧ (∀ (pa : Nat) (s : State),
    let c := channelOf pa
    let g := (s.mismatches pa).headD 0
    s.channelWidth c ≠ 0 → ∃ t, exec (.channelNarrowComplete c pa) s = .next t ∧ t.channelWidth c = 1 ∧ t.cores = s.cores ∧ SameMemory s t
      ∧ (g = 0 → XferLogged s t 1 4 (tget s.rel.narrow 0 c) pa ∧ t.agenda = s.agenda)
      ∧ (g ≠ 0 → t.agenda = s.agenda ++ [⟨s.cycle + 16, rkLast, pa / 64, .parityRetry pa 1 g⟩]))
  ∧ (∀ (block : Nat) (s : State),
    let rate := min 20 (max 4 (wordField s.ctl.scrubctl 8 8))
    let after := (block + 1) % 2 ^ 24
    (s.ctl.scrubctl.getLsbD 0 = false → exec (.scrubBlock block) s = .next s)
      ∧ (s.ctl.scrubctl.getLsbD 0 = true → (∀ d, d ∈ s.agenda → ∀ n, d.ev ≠ .scrubBlock n) →
          ∃ t, exec (.scrubBlock block) s = .next t ∧ t.cores = s.cores ∧ SameMemory s t ∧ t.rel.scrubAt = after
            ∧ t.agenda = s.agenda ++ [⟨s.cycle + 2 ^ rate, rkLast, 0, .scrubBlock after⟩]
            ∧ ∀ k e, s.rel.cells.entries = [(k, some e)] → s.encAt.entries = [] → k % 2 ^ 24 = block → s.channelWidth (k / 2 ^ 24) ≠ 0 → e.outcome = 1 →
                e.stored ≠ s.cycle + 1 →
                EccLogged s t 0 0 true (64 * k) e.symbol ∧ tget t.rel.scrubBad false k = true
                  ∧ tget t.rel.cells none k = (if s.ctl.scrubctl.getLsbD 1 = true ∧ e.hard = false then none else some e)
                  ∧ (tget s.rel.scrubBad false k = true → EccLogged s t 1 3 true (64 * k) 0)))

/-- R321, R383: a flit replayed for its CRC raises CRCERR; a lane whose failures in the window exceed LCRCTHR is dropped; a flit that failed all its replays retrains the
link: RETRAINS rises, a Syrraul port reads WIDTH 0, and 125,000 cycles later it comes up with the lanes that trained. A link that is down does nothing.
Choices of the model that it rests on: log entries 51, 52 and 53. -/
def LinkRecoveryRule : Prop :=
  (∀ (link lane replays : Nat) (s : State),
    let w := s.linkWidth link
    let n := (s.countLane link lane (min replays 9)).1
    let drop := wordField s.ctl.relctl 24 8 < n
    let left := if drop then w - 1 else w
    (w = 0 ∨ replays = 0 → exec (.flitCrcReplay link lane replays) s = .next s)
      ∧ (w ≠ 0 → replays ≠ 0 → ∃ t, exec (.flitCrcReplay link lane replays) s = .next t ∧ t.cores = s.cores ∧ SameMemory s t
          ∧ wordField (t.linkWord link) 16 16 = min 65535 (wordField (s.linkWord link) 16 16 + 1) ∧ (∀ l, l ≠ link → t.linkWord l = s.linkWord l)
          ∧ (replays < 9 ∨ left = 0 → t.linkWidth link = left ∧ t.agenda = s.agenda)
          ∧ (9 ≤ replays → left ≠ 0 → wordField (t.linkWord link) 32 16 = min 65535 (wordField (s.linkWord link) 32 16 + 1)
              ∧ t.linkWidth link = (if link < 64 then 0 else left)
              ∧ ∃ m, m ≤ left ∧ t.agenda = s.agenda ++ [⟨s.cycle + 125000, rkLast, link, .retrainComplete link m⟩])))
  ∧ (∀ (link trained : Nat) (s : State), trained < 4 →
    ∃ t, exec (.retrainComplete link trained) s = .next t ∧ t.linkWidth link = trained ∧ (∀ l, l ≠ link → t.linkWord l = s.linkWord l) ∧ ManagersOnly s t)

/-- R374 to R376, R379, R380: what a block's read meets is logged and counted, one symbol as TYPE 0, two as TYPE 1 with advice of TYPE 3, a tag that does not hold as TYPE 2;
a transfer whose parity mismatches is retried 16 cycles later, up to 3 times; then its channel narrows in 256 cycles to the half that held no mismatch, or, where both mismatch or it
is narrow, fails, with WIDTH 0; and the scrubber, while EN is 1, takes the next block in ascending order every 2^RATE cycles, and with WB 1 writes a corrected block back.
R321, R383: a flit replayed for its CRC raises CRCERR; a lane whose failures in the window exceed LCRCTHR is dropped; a flit that failed all its replays retrains the
link: RETRAINS rises, a Syrraul port reads WIDTH 0, and 125,000 cycles later it comes up with the lanes that trained. A link that is down does nothing.
Choices of the model that it rests on: log entries 51, 52 and 53. -/
def Obligations.DramAndLinkRecovery : Prop := DramRecoveryRule ∧ LinkRecoveryRule

/-- R385, R404 to R407: at the end of a window of 2^20 cycles PWR is the window's power, and THR rises by 1 above 16·PCAP W, falls by 1 below 15·PCAP W, and stays in
0 to 7; at 105 °C or above it is 7, and at 115 °C or above the module resets. At the end of a predictive window a domain whose array counted more than PFTHR errors below nominal
returns to nominal and locks; one at nominal through the window declares it; one with no error goes a step lower, at most 8; and with UVEN 0 every domain is nominal. -/
def PowerManagerRule : Prop :=
  (∀ (power : Nat) (s : State),
    let pwr := power % 65536
    let cap := min 225 (wordField s.ctl.pwrctl 16 8)
    let thr := wordField s.ctl.pwrstat 16 3
    ∃ t p, exec (.throttleWindowEnd power) s = .next t ∧ t.agenda = s.agenda ++ [⟨s.cycle + 2 ^ 20, rkUpdate, 0, .throttleWindowEnd p⟩]
      ∧ wordField t.ctl.pwrstat 32 16 = pwr ∧ wordField t.ctl.pwrstat 24 8 = wordField s.ctl.pwrstat 24 8 ∧ t.cores = s.cores ∧ SameMemory s t
      ∧ wordField t.ctl.pwrstat 16 3 = (if 105 ≤ s.hottest then 7 else if 16 * cap < pwr then min 7 (thr + 1) else if pwr < 15 * cap then thr - 1 else thr))
  ∧ (∀ (die celsius : Nat) (s : State), ∃ t, exec (.junctionTemperatureChange die celsius) s = .next t ∧ tget t.rel.temps 0 die = celsius ∧ t.cores = s.cores ∧ SameMemory s t
      ∧ (die < 4 → celsius ≤ t.hottest) ∧ wordField t.ctl.pwrstat 24 8 = min t.hottest 255
      ∧ wordField t.ctl.pwrstat 16 3 = (if 105 ≤ t.hottest then 7 else wordField s.ctl.pwrstat 16 3)
      ∧ t.agenda = s.agenda ++ (if 115 ≤ t.hottest then [⟨s.cycle, rkDecide, 0, .reset 1⟩] else []))
  ∧ (∀ (s : State), ∃ t, exec .predictiveWindowEnd s = .next t ∧ t.rel.counts = .empty ∧ t.cores = s.cores ∧ SameMemory s t
      ∧ t.agenda = s.agenda ++ [⟨s.cycle + 2 ^ min 44 (max 24 (wordField s.ctl.relctl 48 8)), rkUpdate, 0, .predictiveWindowEnd⟩]
      ∧ ∀ k, k < 32 →
          let exceeds := ∃ e, e ∈ s.rel.counts.entries ∧ e.1 / 65536 = k ∧ s.pfthr < e.2
          let quiet := ∀ e, e ∈ s.rel.counts.entries → e.1 / 65536 = k → e.2 = 0
          let st := tget s.rel.steps 0 k
          (s.ctl.pwrctl.getLsbD 0 = false → tget t.rel.steps 0 k = 0)
            ∧ (exceeds → 0 < st → tget t.rel.steps 0 k = 0 ∧ t.ctl.relstat.getLsbD k = true)
            ∧ (exceeds → st = 0 → s.rel.changed.getLsbD k = false → t.ctl.relstat.getLsbD (32 + k) = true)
            ∧ (quiet → s.ctl.pwrctl.getLsbD 0 = true → s.ctl.relstat.getLsbD k = false → st < 8 → tget t.rel.steps 0 k = st + 1)
            ∧ (s.ctl.pwrctl.getLsbD 0 = true → s.ctl.relstat.getLsbD k = true → st = 0 → tget t.rel.steps 0 k = 0))

/-- R316, R401: a router powers down, at its check, when its die allows it and for 2^PDI cycles it has held no flit and granted no output, and nothing has been placed at its
local input; else it stays as it is, to be checked again when its interval may end. After a wake signal it is up WAKE cycles later, its interval anew. A GUSTPATH write takes
effect on its die alone, and no flit moves.
Choices of the model that it rests on: log entry 56. -/
def RouterPowerRule : Prop :=
  (∀ s : State,
    let c := s.ctl.gustctl
    let x (r : Nat) : Router := tget s.gust.routers .up r
    let idle := 2 ^ max 8 (min 40 (wordField c 2 6))
    let checked (r : Nat) : Prop := r < 512 ∧ (r = s.unit ∨ s.unit = 512)
    let may (r : Nat) : Prop := c.getLsbD 0 = true ∧ c.getLsbD (8 + r / 128) = true ∧ (x r).down = false ∧ (x r).waking = false ∧ (x r).lastUse + idle < s.cycle
      ∧ (∀ e, e ∈ s.gust.fifos.entries → e.1 / 32 ≠ r) ∧ (∀ e, e ∈ s.gust.grants.entries → e.1 / 8 ≠ r) ∧ (∀ p, p ∈ s.gust.placing → p.router = r → s.cycle ≤ p.ready)
    let again (r : Nat) : Prop := c.getLsbD 0 = true ∧ (x r).down = false ∧ s.cycle ≤ (x r).lastUse + idle
    s.unit ≤ 512 → ∃ t, exec .routerPowerDown s = .next t ∧ t.cores = s.cores ∧ SameMemory s t
      ∧ (∀ r, checked r → ((tget t.gust.routers .up r).down = true ↔ (x r).down = true ∨ may r)
          ∧ (again r → ⟨(x r).lastUse + idle + 1, rkCore, r, .routerPowerDown⟩ ∈ t.agenda))
      ∧ (∀ r, ¬ checked r → tget t.gust.routers .up r = x r)
      ∧ ∀ d, d ∈ t.agenda → d ∈ s.agenda ∨ ∃ r, checked r ∧ again r ∧ d = ⟨(x r).lastUse + idle + 1, rkCore, r, .routerPowerDown⟩)
  ∧ (∀ s : State, exec .routerWakeSignal s = .next (Also s ⟨s.cycle + (wordField s.ctl.gustctl 16 8 - 1), rkCore, s.unit, .routerWakeComplete⟩))
  ∧ (∀ s : State, ∃ t, exec .routerWakeComplete s = .next t ∧ tget t.gust.routers .up s.unit = ⟨false, false, s.cycle, false⟩ ∧ ManagersOnly s t
      ∧ ∀ n, n ≠ s.unit → tget t.gust.routers .up n = tget s.gust.routers .up n)
  ∧ (∀ (die : Nat) (v : Word) (s : State), ∃ t, exec (.gustpathWrite die v) s = .next t ∧ t.gust = s.gust ∧ ManagersOnly s t ∧ (∀ d, d ≠ die → ∀ b, t.ctl.gustDir d b = s.ctl.gustDir d b)
      ∧ ∀ b, t.ctl.gustDir die b = if v.getLsbD 63 = true then wordField v b 2 else 0)

/-- R385, R404 to R407: at the end of a window of 2^20 cycles PWR is the window's power, and THR rises by 1 above 16·PCAP W, falls by 1 below 15·PCAP W, and stays in
0 to 7; at 105 °C or above it is 7, and at 115 °C or above the module resets. At the end of a predictive window a domain whose array counted more than PFTHR errors below nominal
returns to nominal and locks; one at nominal through the window declares it; one with no error goes a step lower, at most 8; and with UVEN 0 every domain is nominal.
R316, R401: a router powers down, at its check, when its die allows it and for 2^PDI cycles it has held no flit and granted no output, and nothing has been placed at its
local input; else it stays as it is, to be checked again when its interval may end. After a wake signal it is up WAKE cycles later, its interval anew. A GUSTPATH write takes
effect on its die alone, and no flit moves.
Choices of the model that it rests on: log entry 56. -/
def Obligations.PowerAndRouters : Prop := PowerManagerRule ∧ RouterPowerRule

/-- R359, R419: a write discarded with one record of class ILLFMT, subcode RESV, and no other effect. -/
def Discards (i : Instr) (s : State) : Prop :=
  ∃ d r, exec i s = .next (Also s d) ∧ d.ev = .faultRecordWrite r ∧ wordField r.word0 0 16 = 2 ∧ wordField r.word0 16 16 = 3

/-- R397, R409, R410, R419: a whole write of TBLWR writes 8 bytes of DRAM and drops every bay's copy of their line; a whole write of the M3 extension makes M3
the SM3 of M3 and the value; every other write of either is discarded with a record. A nonce clears DONE and starts a quote over the measurements as they are now, which
is done at most 2,000,000 cycles later unless another nonce restarted it. A control write sets, of the bytes that it covers, the bits that its level may write, and
clears those that are cleared by writing 1; where no register stands it is discarded. A field of the firmware's reads as 0 below its level.
Choices of the model that it rests on: log entries 57 and 78. -/
def Obligations.ControlSpace : Prop :=
  (∀ (w : CtlWrite) (s : State),
    let lo := (w.data.extractLsb' 0 64).toNat
    let whole := wordField (w.mask.setWidth 64) 0 16 = 65535 ∧ lo % 8 = 0 ∧ lo < 2 ^ 40 ∧ lo < Config.packageDram ∧ (1 ≤ w.priv ∨ w.host = true)
    (whole → ∃ t, exec (.tblwrWrite w) s = .next t ∧ t.cores = s.cores ∧ t.agenda = s.agenda ∧ (∀ b e, e ∈ (tget t.bays .reset b).lines.entries → e.1 ≠ lo / 64)
        ∧ ∀ m a, t.byteIn m a = if m = .dram ∧ lo ≤ a ∧ a < lo + 8 then w.data.extractLsb' (64 + 8 * (a - lo)) 8 else s.byteIn m a)
      ∧ (¬ whole → Discards (.tblwrWrite w) s))
  ∧ (∀ (w : CtlWrite) (s : State), w.off / 64 * 64 ∈ [0xD00, 0xD40, 0xD80] →
    let low := w.mask.toNat % 2 ^ 32
    let whole := w.off / 64 * 64 = 0xD80 ∧ low = 2 ^ 32 - 1 ∧ (1 ≤ w.priv ∨ w.host = true)
    (∃ t, exec (.m3Extend w) s = .next t ∧ t.cores = s.cores ∧ SameMemory s t ∧ (∀ k, k ≠ 3 → tget t.ctl.m 0 k = tget s.ctl.m 0 k)
        ∧ (¬ whole → tget t.ctl.m 0 3 = tget s.ctl.m 0 3) ∧ (whole → w.mask.toNat = low → t.agenda = s.agenda)
        ∧ (whole → tget t.ctl.m 0 3
            = BitVec.ofNat 256 (bytesToNat (sm3 (natToBytes 32 (tget s.ctl.m 0 3).toNat ++ natToBytes 32 (w.data.toNat % 2 ^ 256))))))
      ∧ (¬ whole → w.mask.toNat = low → w.mask ≠ 0 → Discards (.m3Extend w) s)
      ∧ (w.off / 64 * 64 ≠ 0xD80 → low = 0 → w.mask ≠ 0 → Discards (.m3Extend w) s))
  ∧ (∀ (nonce : BitVec 256) (s : State),
    let msg := natToBytes 32 nonce.toNat ++ natToBytes 32 (tget s.ctl.m 0 0).toNat ++ natToBytes 32 (tget s.ctl.m 0 1).toNat ++ natToBytes 32 (tget s.ctl.m 0 2).toNat
      ++ natToBytes 32 (tget s.ctl.m 0 3).toNat ++ natToBytes 2 s.pkgId
    ∃ t c, exec (.quoteNonceWrite nonce) s = .next t ∧ t.ctl.nonce = nonce ∧ t.ctl.quoteDone = 0 ∧ t.ctl.quoteDigest = BitVec.ofNat 256 (bytesToNat (sm3 msg))
      ∧ t.ctl.quoteStamp = s.ctl.quoteStamp + 1 ∧ t.ctl.m = s.ctl.m ∧ t.cores = s.cores ∧ SameMemory s t
      ∧ s.cycle < c ∧ c ≤ s.cycle + 2000000 ∧ t.agenda = s.agenda ++ [⟨c, rkLast, 0, .quoteComplete (s.ctl.quoteStamp + 1)⟩])
  ∧ (∀ (stamp : Nat) (s : State),
    (s.ctl.quoteStamp ≠ stamp → exec (.quoteComplete stamp) s = .next s)
      ∧ (s.ctl.quoteStamp = stamp → ∃ t, exec (.quoteComplete stamp) s = .next t ∧ t.ctl.quoteDone = 1 ∧ t.ctl.quoteSig = Config.quoteSignature s.ctl.quoteDigest ∧ ManagersOnly s t))
  ∧ (∀ (w : CtlWrite) (i : Nat) (s : State),
    let off := w.off / 64 * 64 + 8 * i
    let old := s.ctlWord off
    let covered (b : Nat) : Bool := w.mask.getLsbD (8 * i + b / 8)
    let data (b : Nat) : Bool := w.data.getLsbD (64 * i + b)
    i < 8 → w.mask ≠ 0 → (∀ j, j < 64 → w.mask.getLsbD j = true → j / 8 = i) →
      let super := 1 ≤ w.priv ∨ w.host = true
      (ctlMasks off = none → Discards (.controlRegisterWrite w) s)
      ∧ (∀ srw frw w1c, ctlMasks off = some (srw, frw, w1c) → off ≠ 0x108 → ¬ (0x220 ≤ off ∧ off < 0x240) →
          let set := (if super then srw else 0) + if 2 ≤ w.priv ∧ w.host = false then frw else 0
          let busy := 0x50000 ≤ off ∧ off < 0x51000 ∧ off % 16 = 8 ∧ wordField old 47 15 ≠ 0
          (busy → exec (.controlRegisterWrite w) s = .next s)
          ∧ (¬ busy → ∃ t, exec (.controlRegisterWrite w) s = .next t ∧ t.cores = s.cores ∧ SameMemory s t
              ∧ ∀ b, b < 64 → (0x400 ≤ off ∧ off < 0x600 → b / 2 ≠ 3) →
                (t.ctlWord off).getLsbD b = ((if set.testBit b && covered b then data b else old.getLsbD b) && !(w1c.testBit b && covered b && data b))))
      ∧ (∀ v : Word, off = 0x108 → (∀ b, b < 64 → v.getLsbD b = (covered b && data b)) →
          let key := wordField v 0 32
          (super → v.toNat < 2 ^ 34 → exec (.controlRegisterWrite w) s = .next (Also s ⟨s.cycle, rkDecide, 512,
            [Instr.groupPreempt key, Instr.groupKill key, Instr.groupHold key, Instr.groupRelease key].getD (wordField v 32 2) (.groupRelease key)⟩))
          ∧ (¬ super ∨ 2 ^ 34 ≤ v.toNat → exec (.controlRegisterWrite w) s = .next s)))
  ∧ (∀ (off priv i : Nat) (s : State), i < 8 →
    let o := off / 64 * 64 + 8 * i
    ∀ b, b < 64 → (s.ctlLine off priv).getLsbD (64 * i + b) =
      ((s.ctlWord o).getLsbD b && (decide (2 ≤ priv) || !(match ctlMasks o with | some m => m.2.1.testBit b | none => false))))

/-! ## Merges and reset -/

/-- R327, R331, R332, R335: a merge of two tasks, in the order of their merge identities, that wrote one line of host memory. Where they wrote a common byte and KILL is 1, the
conflict is recorded with both TASKIDs and the lowest such byte, the job is killed and nothing is applied; else every byte takes the data of the later task that wrote
it, and the step that waited for the merge follows. A merge with a request that has not reached its home, or of which a task's interval still has something on its way, waits.
Choices of the model that it rests on: log entries 64 and 66. -/
def Obligations.MergesApplyInOrder : Prop :=
  (∀ (m : MergeSet) (ev : Instr) (s : State), s.merges = [m] → m.thenEv = some ev → (∃ t, t ∈ m.order ∧ s.mergeFlying t = true) →
    (∀ d, d ∈ s.agenda → d.ev ≠ .merge m.id) → exec (.merge m.id) s = .next (Also s ⟨s.cycle + 1, rkHome, 0, .merge m.id⟩))
  ∧ (∀ (m : MergeSet) (ev : Instr) (u s : State), s.merges = [m] → m.thenEv = some ev → (∀ t, t ∈ m.order → s.mergeFlying t = false) → s.mergeWaits m.id (m.order.flatMap MergeTask.reqs) = (true, u) → u.safe →
    exec (.merge m.id) s = .next u)
  ∧ (∀ (m : MergeSet) (a b : MergeTask) (p q : LogPkt) (j : Job) (u s : State),
    let both := p.w.mask &&& q.w.mask
    let ia := p.w.xl.ia / 64 * 64
    s.merges = [m] → m.thenEv = some .jobComplete → m.order = [a, b] → a.same b = false → a.entries = [p] → b.entries = [q] → a.atoms = [] → b.atoms = [] → a.words = [] → b.words = [] →
      a.reads = [] → b.reads = [] → s.mergeFlying a = false → s.mergeFlying b = false → p.w.xl.host = true → q.w.xl.host = true → p.w.xl.rmt = false → q.w.xl.rmt = false → q.w.xl.ia / 64 = p.w.xl.ia / 64 →
      s.mergeWaits m.id (m.order.flatMap MergeTask.reqs) = (false, u) → u.safe → u.mixedDet m.jobId = false → u.job m.jobId = some j → j.fail = false →
      (both ≠ 0 → u.ctl.detctl.getLsbD 0 = true → ∃ t k d r, exec (.merge m.id) s = .next t ∧ SameMemory u t ∧ t.job m.jobId = some k ∧ k.fail = true ∧ k.cls = 9
          ∧ d ∈ t.agenda ∧ d.ev = .faultRecordWrite r ∧ wordField r.word0 0 16 = 9 ∧ wordField r.word0 16 16 = 1 ∧ r.word2 = BitVec.ofNat 64 a.taskId ∧ r.word3 = BitVec.ofNat 64 b.taskId
          ∧ ∀ i, i < 64 → both.getLsbD i = true → (∀ n, n < i → both.getLsbD n = false) → r.word4 = BitVec.ofNat 64 (ia + i))
        ∧ (both = 0 ∨ u.ctl.detctl.getLsbD 0 = false → ∃ t, exec (.merge m.id) s = .next t ∧ (∀ x, x ∈ t.merges → x.id ≠ m.id) ∧ t.job m.jobId = some j
          ∧ ⟨u.cycle, rkJob, m.jobId, .jobComplete⟩ ∈ t.agenda
          ∧ ∀ n x, t.byteIn n x = if n = .host ∧ ia ≤ x ∧ x < ia + 64 ∧ q.w.mask.getLsbD (x - ia) = true then q.w.data.extractLsb' (8 * (x - ia)) 8
              else if n = .host ∧ ia ≤ x ∧ x < ia + 64 ∧ p.w.mask.getLsbD (x - ia) = true then p.w.data.extractLsb' (8 * (x - ia)) 8 else u.byteIn n x))

/-- R61, R408, R409, R411: a reset clears every scratchpad and all Hall data, with the poison, and keeps DRAM and host memory. Every context is idle, with PRIVLVL 2 in
core 0's context 0, which the firmware halts when bring-up has succeeded; M0 to M2 are the firmware's measurements and M3 is 0; and the registers that the supervisor writes
hold the Reset values of their maps. Where a step of bring-up fails, the module is held in reset with its number, and nothing is due.
Choices of the model that it rests on: log entries 8, 9 and 77. -/
def Obligations.ResetAndBringUp : Prop :=
  ∀ (cause : Nat) (s : State),
    let kept (t : State) : Prop := t.cycle = 0 ∧ t.agenda.all (fun d => 0 < d.cycle) = true ∧ t.dramPoison = s.dramPoison ∧ t.hallPoison = .empty ∧ t.encAt = s.encAt
      ∧ t.resets = s.resets + 1 ∧ (∀ n c, (t.ctx n c).status = .idle ∧ ((t.ctx n c).halted = true → n = 0 ∧ c = 0) ∧ (t.ctx n c).sr.trapVec = 0)
      ∧ (∀ n, (t.core n).sems = .empty ∧ (t.core n).view = .empty ∧ (t.core n).spPoison = .empty)
      ∧ (∀ m a, t.byteIn m a = if m = .dram ∨ m = .host then s.byteIn m a else 0)
      ∧ t.ctl.schedctl = 0x40003 ∧ t.ctl.gustctl = 0xA0F31 ∧ t.ctl.detctl = 0x140001 ∧ t.ctl.segroot = 0 ∧ t.ctl.relctl = 0x0024004010202801 ∧ t.ctl.relstat = 0
      ∧ t.ctl.scrubctl = 0xC03 ∧ t.ctl.pwrctl = 0xE10001 ∧ t.ctl.pwrstat = 0 ∧ tget t.ctl.m 0 3 = 0 ∧ ∀ k, tget t.ctl.chstat widthReset k = 2
    (s.cleared.failedStep = none → ∃ t, exec (.reset cause) s = .next t ∧ kept t ∧ t.holdStep = 0 ∧ (t.ctx 0 0).halted = true ∧ (t.ctx 0 0).sr.priv = 2
        ∧ tget t.ctl.m 0 0 = Config.firmwareDigest 0 ∧ tget t.ctl.m 0 1 = Config.firmwareDigest 1 ∧ tget t.ctl.m 0 2 = Config.firmwareDigest 2
        ∧ ∀ k, k < 64 → (tget t.ctl.linkctl linkctlReset k).getLsbD 3 = (Config.hostPorts (s.resets + 1)).getLsbD k)
      ∧ (∀ n, s.cleared.failedStep = some n → ∃ t, exec (.reset cause) s = .next t ∧ kept t ∧ t.holdStep = n ∧ t.agenda = []
          ∧ tget t.ctl.m 0 0 = (if 2 < n then Config.firmwareDigest 0 else 0) ∧ tget t.ctl.m 0 1 = 0)

/-! ## Encodings, the step and reset -/

/-- R71 to R79, R88, R226, R239: decoding and encoding agree: an instruction that passes the static checks of a slot is read back from its word, with every operand at every
value; and a word that decodes is the encoding of what it decodes to, in its class. -/
def Obligations.EncodingsRoundTrip : Prop :=
  (∀ (i : Instr) (c : Cls) (w : BitVec 56) (l : Option (BitVec 56)), encodeSlot i = some (c, w) → i.wf l = true → decodeSlot c w = .ok i)
    ∧ ∀ (i : Instr) (c : Cls) (w : BitVec 56), decodeSlot c w = .ok i → ∃ d, encodeSlot i = some (d, w) ∧ (w ≠ 0 → d = c)

/-- R88, R116, R129, R148, R167, R228, R236, R245, R337, R352: words written out in the spec, one of each class, and of forms that share an opcode, decode to the instructions that they stand
for; a slot of opcode 0 with another bit set, an unassigned opcode, and a form that is none are refused. -/
def Obligations.DecodedWords : Prop :=
  decodeSlot .c 0x00001400000008 = .ok (.callr ⟨5, 0, 0, 0, 0, 0⟩) ∧ decodeSlot .c 0x00000000000009 = .ok .retr ∧ decodeSlot .c 0x0000000000000A = .ok .ckpt
    ∧ decodeSlot .a 0x0088803E001401 = .ok (.add ⟨0, 0, 1, 1, 0, 1, 0, 0, 124, 0, 5⟩)
    ∧ decodeSlot .v 0x1258004A800C20 = .ok (.vcvt ⟨9, 0, 0, 0xB, 0, 0, 0, 1, 21, 0, 3⟩)
    ∧ decodeSlot .t 0x0258000A940003 = .ok (.tmac ⟨1, 0, 0, 0xB, 0, 0, 0, 0, 21, 20, 0⟩)
    ∧ decodeSlot .m 0x015F8070563820 = .ok (.atomFadd ⟨1, 2, 63, 0, 56, 21, 4, 3, 2⟩)
    ∧ decodeSlot .e 0x0000058A942401 = .ok (.cpy ⟨0, 0, 22, 21, 20, 9⟩)
    ∧ decodeSlot .e 0x0001000A940038 = .ok (.almcRec ⟨1, 0, 0, 21, 20, 0⟩) ∧ decodeSlot .e 0x0002000A940038 = .ok (.almcPlay ⟨2, 0, 0, 21, 20, 0⟩)
    ∧ decodeSlot .e 0x00000000150030 = .ok (.invalAll ⟨0, 0, 0, 0, 21, 0⟩)
    ∧ decodeSlot .a 0 = .ok .nop ∧ decodeSlot .m 0x400 = .error (.bad .resv) ∧ decodeSlot .t 0x004 = .error .illop ∧ decodeSlot .e 0x00030000150030 = .error (.bad .resv)

/-- R59, R92, R160: a step runs what acts next. An event that is due before the bundles of its cycle acts first, the earliest by cycle, rank, unit and place; then each core, in
ascending order, issues a bundle from the context that it picks; and the machine that has touched a physical hole stays stopped. A bundle whose one slot holds an instruction that passes
its checks and is ready runs that instruction on the frame of the slot, and then moves the program counter past the bundle, or to the target of a transfer that was pending. An empty bundle only moves
it.
Choices of the model that it rests on: log entries 10 and 34. -/
def Obligations.StepRunsDecoded : Prop :=
  (∀ (s : State) (f : Fault), s.stuck = some f → step s = .fault f)
  ∧ (∀ (s : State) (d : Due), s.safe → d ∈ s.agenda → d.cycle ≤ s.cycle → d.rank < 8 → (∀ e, e ∈ s.agenda → e = d ∨ (e.cycle ≤ s.cycle → e.rank < 8 → d.before e = true)) →
      step s = exec d.ev (s.take d))
  ∧ (∀ (s : State) (n : Nat), s.safe → (∀ e, e ∈ s.agenda → e.cycle ≤ s.cycle → 8 ≤ e.rank) → s.nextCore = some n → step s = exec (.bundleIssue n) { s with scan := n + 1 })
  ∧ (∀ (core : Nat) (s : State), s.pick core = none → exec (.bundleIssue core) s = .next s)
  ∧ (∀ s : State, exec .nop s = .next s)
  ∧ (∀ (i : Instr) (s : State), (encodeSlot i).isSome = true → execSlot i s = exec i s)
  ∧ (∀ (core c : Nat) (b : BitVec 512) (l : List (Nat × Instr)) (s u t : State),
    let q := (s.updCore core (fun k => { k with cur := c })).updCtx core c (fun x => { x with wait := .none, hdrWait := false })
    let x : Ctx := { q.ctx core c with rep := .off }
    let v := u.setCtx core c x
    let frame : State := ({ v with fresh := v.fresh + 1, issue := { issueFrame core c x v.fresh with checks := l.any checksMarkers } } : State).updCore core (fun k => k.semSub (hdrWsem b) (hdrWthr b))
    s.pick core = some c → (s.ctx core c).wait ≠ .yield → x.transfer = false → (q.ctx core c).rep.on = false →
    q.fetchRun core x.sr.rng x.pc.toNat 64 = (.ok (b.toNat, false), u) →
    hdrHw b = false → v.checkBundle core x b = none → slotsOf b = l.map (fun e => (e.1, .ok e.2)) →
    (∀ e, e ∈ l → x.slotReady b 1 0 e = true ∧ v.vecReady core e = true ∧ v.upset core e.1 = none ∧ (∀ g, e.2 ≠ .mts g) ∧ (∀ g, e.2 ≠ .rep g)
      ∧ ∀ n, slotEngine e.2 = some n → (v.core core).engineFull n = false) →
    hdrWthr b ≤ (v.core core).sem (hdrWsem b) →
    (l = [] ∧ t = frame) ∨ (∃ k i a, l = [(k, i)] ∧ (encodeSlot i).isSome = true ∧ t = a.flushStore
        ∧ exec i { frame with issue := { frame.issue with slot := k, limm := limmOf b k, rep := 1, rstr := 0, ostr := 0 } } = .next a) →
    t.issue.raised = false → t.gone core c x.epoch = false → (∀ e, e ∈ l → t.upset core e.1 = none) →
      let r := (t.updCore core (fun k => k.countSignal b v.fresh t.issue.cmds false)).advancePc core c x.xfer x.pc
      exec (.bundleIssue core) s = r.out
        ∧ (x.xfer = .none → t.issue.jump = false → (r.ctx core c).pc = x.pc + 64)
        ∧ (∀ a d, x.xfer = .goto a d → (r.ctx core c).pc = a ∧ (r.ctx core c).xfer = .none ∧ d ≤ (r.ctx core c).readyAt)
        ∧ (t.safe → (x.xfer = .none ∨ ∃ a d, x.xfer = .goto a d) → exec (.bundleIssue core) s = .next r))

/-- R61, R408: right after reset every context register holds the Reset value of its map, in every context of every core, PRIVLVL 2 and ROUTIDX all ones among them; every context is idle,
every queue entry, named register, f entry, predicate, semaphore, accumulator and view line is as reset leaves it; and the control registers hold theirs. The values of the queue, the named
registers, the accumulators, the latches and the memories, for which the spec states none, are the model's choice (log entries 1 and 2). -/
def Obligations.ResetValues : Prop :=
  let s := State.reset
  s.cycle = 0 ∧ (∀ n c,
    let x := s.ctx n c
    let y := x.sr
    x.status = .idle ∧ y.priv = 2 ∧ y.routIdx = BitVec.allOnes 64 ∧ y.taskId = 0 ∧ y.groupId = 0 ∧ y.jobId = 0 ∧ y.prio = 0 ∧ y.asid = 0 ∧ y.fmode = 0 ∧ y.detmode = 0
      ∧ y.ckptMark = 0 ∧ y.logTail = 0 ∧ y.repCnt = 0 ∧ y.repStep = 0 ∧ y.semSel = 0 ∧ y.trapCode = 0 ∧ y.trapPc = 0 ∧ y.trapTgt = 0 ∧ y.dlyPend = 0 ∧ y.trapAddr = 0
      ∧ y.trapVec = 0 ∧ y.frame = 0 ∧ y.joinAddr = 0 ∧ y.imgBase = 0 ∧ y.imgRt = 0 ∧ (∀ i, tget y.rng 0 i = 0)
      ∧ (∀ i, x.reg false i = .zero ∧ x.reg true i = .vzero) ∧ x.shadow.occupied = false ∧ x.log = [] ∧ x.pend = [])
  ∧ (∀ n, (∀ i, (s.core n).sem i = 0) ∧ (s.core n).semSat = 0 ∧ (s.core n).accs = .empty ∧ (s.core n).view = .empty ∧ (s.core n).queue = [] ∧ (s.core n).group = none)
  ∧ s.ctl.schedctl = 0x40003 ∧ s.ctl.gustctl = 0xA0F31 ∧ s.ctl.syrctl = 1 ∧ s.ctl.detctl = 0x140001 ∧ s.ctl.segroot = 0 ∧ s.ctl.relctl = 0x0024004010202801
  ∧ s.ctl.relstat = 0 ∧ s.ctl.scrubctl = 0xC03 ∧ s.ctl.pwrctl = 0xE10001 ∧ s.ctl.pwrstat = 0
  ∧ (∀ k, tget s.ctl.linkctl linkctlReset k = 0x81 ∧ tget s.ctl.edgestat widthReset k = 2 ∧ tget s.ctl.chstat widthReset k = 2
      ∧ tget s.ctl.gustpath gustpathReset k = 0x0010000000000000 ∧ tget s.ctl.collTag collTagReset k = 0x0000180000000000 ∧ tget s.ctl.m 0 k = 0)

/-- The memories of the machine right after reset are in their canonical form, and no saved core holds another.
Choices of the model that it rests on: log entry 2. -/
def Obligations.ResetMemoryCanonical : Prop := State.reset.Canonical

/-- The canonical form of every memory (addresses rising, no byte listed that equals what an unlisted one reads as) is kept by every step, from any state that has it. -/
def Obligations.MemoryFormKept : Prop := ∀ s t : State, s.Canonical → step s = .next t → t.Canonical

/-- R75: the TYPE codes, and the codes of the default types. -/
def Obligations.TypeCodes : Prop :=
  [Ty.i64, .i32, .i16, .i8, .u64, .u32, .u16, .u8, .f64, .f32, .f16, .bf16, .e4m3, .e5m2, .int4, .i4x].zipIdx.all
      (fun e => Ty.ofBits (BitVec.ofNat 4 e.2) == e.1 && e.1.toBits == BitVec.ofNat 4 e.2) = true
    ∧ (∀ b, (Ty.ofBits b).toBits = b) ∧ Ty.toBits .i64 = 0x0 ∧ Ty.toBits .f32 = 0x9

/-- R72: a NOP slot holds 0 in all 56 bits; with any other bit set it traps ILLFMT with subcode RESV, whatever the class and the bundle; and a slot that holds NOP is an empty
slot, which none of its bundle's instructions stands in. -/
def Obligations.NopSlots : Prop :=
  (∀ (c : Cls) (w : BitVec 56), slotOpc w = 0 → decodeSlot c w = if w = 0 then .ok .nop else .error (.bad .resv))
    ∧ (∀ (b : BitVec 512) (k : Nat), bundleSlot b k = .ok .nop → ∀ e, e ∈ slotsOf b → e.1 ≠ k)
    ∧ ∀ (s : State) (core k : Nat) (x : Ctx) (b : BitVec 512) (l : List (Nat × Except DecodeErr Instr)) (seen : List Dest), k < 8 → surrendered b k = false →
        slotOpc (slotBits b k) = 0 → slotBits b k ≠ 0 → bundleSlot b k = .error (.bad .resv) ∧ s.checkSlot core x b l seen k (bundleSlot b k) = some ⟨2, 3, BitVec.ofNat 64 k⟩

/-- R309: the virtual channel of a packet at the port after each output on its path: 1 where it crosses its ring's dateline, between stops 15 and 0 of a row or 7 and 0 of a column;
what it was, while it stays on the ring; and 0 where it enters one, by a turn or an edge link. -/
def Obligations.VirtualChannels : Prop :=
  ∀ (p : Packet) (hop vc : Nat),
    let o := p.outAt hop
    let before := (p.outAt (hop - 1)).2
    let row (n : Nat) : Prop := n = 1 ∨ n = 3
    let column (n : Nat) : Prop := n = 0 ∨ n = 2
    let dateline := (o.2 = 1 ∧ o.1 % 16 = 15) ∨ (o.2 = 3 ∧ o.1 % 16 = 0) ∨ (o.2 = 2 ∧ o.1 % 128 / 16 = 7) ∨ (o.2 = 0 ∧ o.1 % 128 / 16 = 0)
    let stays := 0 < hop ∧ ((row before ∧ row o.2) ∨ (column before ∧ column o.2))
    (dateline → p.nextVc hop vc = 1) ∧ (¬ dateline → stays → p.nextVc hop vc = vc) ∧ (¬ dateline → ¬ stays → p.nextVc hop vc = 0)
end

