-- ==== Sys2Proof/Laws/Table.lean ====
section
/-! SUPPORT. Laws of the sparse tables: a read after a write, and the canonical form, which every operation keeps; the same for the
memories made of them. -/

namespace Sys2Proof.Machine

open Sys2Proof

variable {α : Type} [DecidableEq α]

/-! ## The canonical form -/

theorem pairsWf_mono (d : α) {lo hi : Nat} (h : lo ≤ hi) (l : List (Nat × α)) (w : pairsWf d hi l = true) :
    pairsWf d lo l = true := by
  cases l with
  | nil => rfl
  | cons e rest =>
    simp only [pairsWf, Bool.and_eq_true, decide_eq_true_eq] at w ⊢
    exact ⟨⟨by omega, w.1.2⟩, w.2⟩

theorem pairsWf_filter (d : α) (p : Nat × α → Bool) (l : List (Nat × α)) (lo : Nat) (w : pairsWf d lo l = true) :
    pairsWf d lo (l.filter p) = true := by
  induction l generalizing lo with
  | nil => rfl
  | cons e rest ih =>
    obtain ⟨j, x⟩ := e
    simp only [pairsWf, Bool.and_eq_true, decide_eq_true_eq] at w
    rw [List.filter_cons]
    split
    · simp only [pairsWf, Bool.and_eq_true, decide_eq_true_eq]; exact ⟨w.1, ih _ w.2⟩
    · exact ih _ (pairsWf_mono d (by omega) _ w.2)

theorem pairsPut_wf (d : α) (k : Nat) (v : α) (hv : v ≠ d) (l : List (Nat × α)) (lo : Nat) (hk : lo ≤ k) (w : pairsWf d lo l = true) :
    pairsWf d lo (pairsPut k v l) = true := by
  induction l generalizing lo with
  | nil => simp [pairsPut, pairsWf, hv, hk]
  | cons e rest ih =>
    obtain ⟨j, x⟩ := e
    simp only [pairsWf, Bool.and_eq_true, decide_eq_true_eq] at w
    obtain ⟨⟨hj, hx⟩, hr⟩ := w
    unfold pairsPut
    split
    · simp only [pairsWf, Bool.and_eq_true, decide_eq_true_eq]; exact ⟨⟨hk, hv⟩, ⟨⟨by omega, hx⟩, hr⟩⟩
    · split
      · rename_i hkj; subst hkj
        simp only [pairsWf, Bool.and_eq_true, decide_eq_true_eq]; exact ⟨⟨hk, hv⟩, hr⟩
      · simp only [pairsWf, Bool.and_eq_true, decide_eq_true_eq]
        exact ⟨⟨hj, hx⟩, ih _ (by omega) hr⟩

theorem pairsSet_wf (d : α) (k : Nat) (v : α) (l : List (Nat × α)) (lo : Nat) (hk : lo ≤ k) (w : pairsWf d lo l = true) :
    pairsWf d lo (pairsSet d k v l) = true := by
  unfold pairsSet
  split
  · exact pairsWf_filter d _ _ _ w
  · exact pairsPut_wf d k v (by assumption) l lo hk w

/-- A write keeps the canonical form. -/
@[simp] theorem twf_tset (t : Tbl α) (d : α) (k : Nat) (v : α) (w : twf t d = true) : twf (tset t d k v) d = true :=
  pairsSet_wf d k v _ 0 (Nat.zero_le _) w

/-- The table that lists nothing has the canonical form. -/
@[simp] theorem twf_empty (d : α) : twf (.empty : Tbl α) d = true := rfl

/-- Dropping keys keeps the canonical form. -/
theorem twf_tfilter (t : Tbl α) (d : α) (p : Nat → α → Bool) (w : twf t d = true) : twf (tfilter t p) d = true :=
  pairsWf_filter d _ _ 0 w

/-- A property that every step of a fold keeps holds of the fold. -/
theorem foldl_keeps {β γ : Type} (P : β → Prop) (f : β → γ → β) (l : List γ) (h : ∀ b c, P b → P (f b c)) (b : β) (hb : P b) :
    P (l.foldl f b) := by
  induction l generalizing b with
  | nil => exact hb
  | cons c rest ih => exact ih _ (h _ _ hb)

theorem twf_tsetAll (t : Tbl α) (d : α) (l : List (Nat × α)) (w : twf t d = true) : twf (tsetAll t d l) d = true :=
  foldl_keeps (fun t => twf t d = true) _ l (fun _ _ h => twf_tset _ _ _ _ h) t w

/-! ## Reading -/

omit [DecidableEq α] in
theorem pairsGet_filter (d : α) (k j : Nat) (l : List (Nat × α)) :
    pairsGet d j (l.filter (fun e => e.1 != k)) = if j = k then d else pairsGet d j l := by
  induction l with
  | nil => simp [pairsGet]
  | cons e rest ih =>
    obtain ⟨i, x⟩ := e
    rw [List.filter_cons]
    by_cases hi : i = k
    · subst hi
      simp only [bne_self_eq_false, Bool.false_eq_true, if_false, ih, pairsGet]
      by_cases hj : j = i
      · simp [hj]
      · simp [hj, Ne.symm hj]
    · simp only [bne_iff_ne, ne_eq, hi, not_false_eq_true, if_true, pairsGet, ih]
      by_cases hij : i = j
      · subst hij; simp [hi]
      · simp [hij]

omit [DecidableEq α] in
theorem pairsGet_put (d : α) (k j : Nat) (v : α) (l : List (Nat × α)) :
    pairsGet d j (pairsPut k v l) = if j = k then v else pairsGet d j l := by
  induction l with
  | nil => by_cases h : j = k <;> simp [pairsPut, pairsGet, h, Ne.symm]
  | cons e rest ih =>
    obtain ⟨i, x⟩ := e
    unfold pairsPut
    split
    · by_cases h : j = k
      · simp [pairsGet, h]
      · simp [pairsGet, h, Ne.symm h]
    · split
      · rename_i hki; subst hki
        by_cases h : j = k
        · simp [pairsGet, h]
        · simp [pairsGet, h, Ne.symm h]
      · rename_i h1 h2
        simp only [pairsGet, ih]
        by_cases hij : i = j
        · subst hij; simp [Ne.symm h2]
        · simp [hij]

/-- What a key reads as after a write. -/
theorem tget_tset (t : Tbl α) (d : α) (k j : Nat) (v : α) : tget (tset t d k v) d j = if j = k then v else tget t d j := by
  unfold tget tset pairsSet
  split
  · rename_i hv; subst hv; exact pairsGet_filter _ _ _ _
  · exact pairsGet_put _ _ _ _ _

/-- Another key reads as before a write. -/
@[simp] theorem tget_tset_ne (t : Tbl α) (d : α) {j k : Nat} (v : α) (h : j ≠ k) : tget (tset t d k v) d j = tget t d j := by
  rw [tget_tset, if_neg h]

/-- A key reads as what was written. -/
@[simp] theorem tget_tset_same (t : Tbl α) (d : α) (k : Nat) (v : α) : tget (tset t d k v) d k = v := by
  rw [tget_tset, if_pos rfl]

omit [DecidableEq α] in
/-- An unlisted key has its default value. -/
@[simp] theorem tget_empty (d : α) (k : Nat) : tget (.empty : Tbl α) d k = d := rfl

/-! ## Memories -/

@[simp] theorem wf_putBytes (t : Tbl Byte) (a n x : Nat) (w : Memory.wf t = true) : Memory.wf (putBytes t a n x) = true :=
  foldl_keeps (fun t => twf t (0 : Byte) = true) _ _ (fun _ _ h => twf_tset _ _ _ _ h) t w

@[simp] theorem wf_putLine (t : Tbl Byte) (a : Nat) (d : Line) (m : BitVec 64) (w : Memory.wf t = true) : Memory.wf (putLine t a d m) = true :=
  foldl_keeps (fun t => twf t (0 : Byte) = true) _ _ (fun t i h => by
    split
    · exact twf_tset _ _ _ _ h
    · exact h) t w

@[simp] theorem wf_putPoison (t : Tbl Bool) (a : Nat) (m : BitVec 64) (p : BitVec 8) (w : twf t false = true) :
    twf (putPoison t a m p) false = true :=
  foldl_keeps (fun t => twf t false = true) _ _ (fun _ _ h => twf_tset _ _ _ _ h) t w

@[simp] theorem wf_putPoisonRun (t : Tbl Bool) (a n : Nat) (p : Nat → Bool) (w : twf t false = true) :
    twf (putPoisonRun t a n p) false = true :=
  foldl_keeps (fun t => twf t false = true) _ _ (fun _ _ h => twf_tset _ _ _ _ h) t w

/-- The byte at an address reads as before a write of n bytes elsewhere. -/
theorem tget_putBytes_ne (t : Tbl Byte) (a n x b : Nat) (h : b < a ∨ a + n ≤ b) : tget (putBytes t a n x) 0 b = tget t 0 b := by
  have key : ∀ (l : List Nat) (t : Tbl Byte), (∀ i ∈ l, i < n) →
      tget (l.foldl (fun t i => tset t 0 (a + i) (byteOf x i)) t) 0 b = tget t 0 b := by
    intro l
    induction l with
    | nil => intros; rfl
    | cons i rest ih =>
      intro t hl
      rw [List.foldl_cons, ih _ (fun j hj => hl j (List.mem_cons_of_mem _ hj))]
      exact tget_tset_ne _ _ _ (by have := hl i (List.mem_cons_self); omega)
  exact key _ _ (fun i hi => by simpa using hi)

/-- The byte at an address reads as before a write of a line's bytes under a mask that does not cover it. -/
theorem tget_putLine_ne (t : Tbl Byte) (a : Nat) (d : Line) (m : BitVec 64) (b : Nat) (h : ∀ i, m.getLsbD i = true → b ≠ a + i) :
    tget (putLine t a d m) 0 b = tget t 0 b := by
  have key : ∀ (l : List Nat) (t : Tbl Byte),
      tget (l.foldl (fun t i => if m.getLsbD i then tset t 0 (a + i) (d.extractLsb' (8 * i) 8) else t) t) 0 b = tget t 0 b := by
    intro l
    induction l with
    | nil => intros; rfl
    | cons i rest ih =>
      intro t
      rw [List.foldl_cons, ih]
      split
      · rename_i hm; exact tget_tset_ne _ _ _ (h i hm)
      · rfl
  exact key _ _

end Sys2Proof.Machine
end

