-- ==== Sys2Proof/Laws/State.lean ====
section
/-! SUPPORT. Laws of the state's updates: one lemma for each field that an update leaves as it was, and the two that say what it
changes: how cores and contexts read after they are written. -/

namespace Sys2Proof.Machine

open Sys2Proof

/-! ## What updates of the state leave -/

@[simp] theorem State.setCore_cycle (s : State) (n : Nat) (k : Core) : (s.setCore n k).cycle = s.cycle := rfl
@[simp] theorem State.setCore_scan (s : State) (n : Nat) (k : Core) : (s.setCore n k).scan = s.scan := rfl
@[simp] theorem State.setCore_unit (s : State) (n : Nat) (k : Core) : (s.setCore n k).unit = s.unit := rfl
@[simp] theorem State.setCore_agenda (s : State) (n : Nat) (k : Core) : (s.setCore n k).agenda = s.agenda := rfl
@[simp] theorem State.setCore_issue (s : State) (n : Nat) (k : Core) : (s.setCore n k).issue = s.issue := rfl
@[simp] theorem State.setCore_groups (s : State) (n : Nat) (k : Core) : (s.setCore n k).groups = s.groups := rfl
@[simp] theorem State.setCore_gangs (s : State) (n : Nat) (k : Core) : (s.setCore n k).gangs = s.gangs := rfl
@[simp] theorem State.setCore_docents (s : State) (n : Nat) (k : Core) : (s.setCore n k).docents = s.docents := rfl
@[simp] theorem State.setCore_jobs (s : State) (n : Nat) (k : Core) : (s.setCore n k).jobs = s.jobs := rfl
@[simp] theorem State.setCore_intake (s : State) (n : Nat) (k : Core) : (s.setCore n k).intake = s.intake := rfl
@[simp] theorem State.setCore_fresh (s : State) (n : Nat) (k : Core) : (s.setCore n k).fresh = s.fresh := rfl
@[simp] theorem State.setCore_dram (s : State) (n : Nat) (k : Core) : (s.setCore n k).dram = s.dram := rfl
@[simp] theorem State.setCore_dramPoison (s : State) (n : Nat) (k : Core) : (s.setCore n k).dramPoison = s.dramPoison := rfl
@[simp] theorem State.setCore_hall (s : State) (n : Nat) (k : Core) : (s.setCore n k).hall = s.hall := rfl
@[simp] theorem State.setCore_hallPoison (s : State) (n : Nat) (k : Core) : (s.setCore n k).hallPoison = s.hallPoison := rfl
@[simp] theorem State.setCore_host (s : State) (n : Nat) (k : Core) : (s.setCore n k).host = s.host := rfl
@[simp] theorem State.setCore_encAt (s : State) (n : Nat) (k : Core) : (s.setCore n k).encAt = s.encAt := rfl
@[simp] theorem State.setCore_keys (s : State) (n : Nat) (k : Core) : (s.setCore n k).keys = s.keys := rfl
@[simp] theorem State.setCore_seq (s : State) (n : Nat) (k : Core) : (s.setCore n k).seq = s.seq := rfl
@[simp] theorem State.setCore_regions (s : State) (n : Nat) (k : Core) : (s.setCore n k).regions = s.regions := rfl
@[simp] theorem State.setCore_bays (s : State) (n : Nat) (k : Core) : (s.setCore n k).bays = s.bays := rfl
@[simp] theorem State.setCore_ring (s : State) (n : Nat) (k : Core) : (s.setCore n k).ring = s.ring := rfl
@[simp] theorem State.setCore_ingress (s : State) (n : Nat) (k : Core) : (s.setCore n k).ingress = s.ingress := rfl
@[simp] theorem State.setCore_hostReads (s : State) (n : Nat) (k : Core) : (s.setCore n k).hostReads = s.hostReads := rfl
@[simp] theorem State.setCore_hostRetries (s : State) (n : Nat) (k : Core) : (s.setCore n k).hostRetries = s.hostRetries := rfl
@[simp] theorem State.setCore_migrs (s : State) (n : Nat) (k : Core) : (s.setCore n k).migrs = s.migrs := rfl
@[simp] theorem State.setCore_refused (s : State) (n : Nat) (k : Core) : (s.setCore n k).refused = s.refused := rfl
@[simp] theorem State.setCore_merges (s : State) (n : Nat) (k : Core) : (s.setCore n k).merges = s.merges := rfl
@[simp] theorem State.setCore_almanac (s : State) (n : Nat) (k : Core) : (s.setCore n k).almanac = s.almanac := rfl
@[simp] theorem State.setCore_colls (s : State) (n : Nat) (k : Core) : (s.setCore n k).colls = s.colls := rfl
@[simp] theorem State.setCore_collNext (s : State) (n : Nat) (k : Core) : (s.setCore n k).collNext = s.collNext := rfl
@[simp] theorem State.setCore_presence (s : State) (n : Nat) (k : Core) : (s.setCore n k).presence = s.presence := rfl
@[simp] theorem State.setCore_gust (s : State) (n : Nat) (k : Core) : (s.setCore n k).gust = s.gust := rfl
@[simp] theorem State.setCore_ctl (s : State) (n : Nat) (k : Core) : (s.setCore n k).ctl = s.ctl := rfl
@[simp] theorem State.setCore_rel (s : State) (n : Nat) (k : Core) : (s.setCore n k).rel = s.rel := rfl
@[simp] theorem State.setCore_resets (s : State) (n : Nat) (k : Core) : (s.setCore n k).resets = s.resets := rfl
@[simp] theorem State.setCore_holdStep (s : State) (n : Nat) (k : Core) : (s.setCore n k).holdStep = s.holdStep := rfl
@[simp] theorem State.setCore_upsets (s : State) (n : Nat) (k : Core) : (s.setCore n k).upsets = s.upsets := rfl
@[simp] theorem State.setCore_freeCtr (s : State) (n : Nat) (k : Core) : (s.setCore n k).freeCtr = s.freeCtr := rfl
@[simp] theorem State.setCore_stuck (s : State) (n : Nat) (k : Core) : (s.setCore n k).stuck = s.stuck := rfl

@[simp] theorem State.updCore_cycle (s : State) (n : Nat) (f : Core → Core) : (s.updCore n f).cycle = s.cycle := rfl
@[simp] theorem State.updCore_scan (s : State) (n : Nat) (f : Core → Core) : (s.updCore n f).scan = s.scan := rfl
@[simp] theorem State.updCore_unit (s : State) (n : Nat) (f : Core → Core) : (s.updCore n f).unit = s.unit := rfl
@[simp] theorem State.updCore_agenda (s : State) (n : Nat) (f : Core → Core) : (s.updCore n f).agenda = s.agenda := rfl
@[simp] theorem State.updCore_issue (s : State) (n : Nat) (f : Core → Core) : (s.updCore n f).issue = s.issue := rfl
@[simp] theorem State.updCore_groups (s : State) (n : Nat) (f : Core → Core) : (s.updCore n f).groups = s.groups := rfl
@[simp] theorem State.updCore_gangs (s : State) (n : Nat) (f : Core → Core) : (s.updCore n f).gangs = s.gangs := rfl
@[simp] theorem State.updCore_docents (s : State) (n : Nat) (f : Core → Core) : (s.updCore n f).docents = s.docents := rfl
@[simp] theorem State.updCore_jobs (s : State) (n : Nat) (f : Core → Core) : (s.updCore n f).jobs = s.jobs := rfl
@[simp] theorem State.updCore_intake (s : State) (n : Nat) (f : Core → Core) : (s.updCore n f).intake = s.intake := rfl
@[simp] theorem State.updCore_fresh (s : State) (n : Nat) (f : Core → Core) : (s.updCore n f).fresh = s.fresh := rfl
@[simp] theorem State.updCore_dram (s : State) (n : Nat) (f : Core → Core) : (s.updCore n f).dram = s.dram := rfl
@[simp] theorem State.updCore_dramPoison (s : State) (n : Nat) (f : Core → Core) : (s.updCore n f).dramPoison = s.dramPoison := rfl
@[simp] theorem State.updCore_hall (s : State) (n : Nat) (f : Core → Core) : (s.updCore n f).hall = s.hall := rfl
@[simp] theorem State.updCore_hallPoison (s : State) (n : Nat) (f : Core → Core) : (s.updCore n f).hallPoison = s.hallPoison := rfl
@[simp] theorem State.updCore_host (s : State) (n : Nat) (f : Core → Core) : (s.updCore n f).host = s.host := rfl
@[simp] theorem State.updCore_encAt (s : State) (n : Nat) (f : Core → Core) : (s.updCore n f).encAt = s.encAt := rfl
@[simp] theorem State.updCore_keys (s : State) (n : Nat) (f : Core → Core) : (s.updCore n f).keys = s.keys := rfl
@[simp] theorem State.updCore_seq (s : State) (n : Nat) (f : Core → Core) : (s.updCore n f).seq = s.seq := rfl
@[simp] theorem State.updCore_regions (s : State) (n : Nat) (f : Core → Core) : (s.updCore n f).regions = s.regions := rfl
@[simp] theorem State.updCore_bays (s : State) (n : Nat) (f : Core → Core) : (s.updCore n f).bays = s.bays := rfl
@[simp] theorem State.updCore_ring (s : State) (n : Nat) (f : Core → Core) : (s.updCore n f).ring = s.ring := rfl
@[simp] theorem State.updCore_ingress (s : State) (n : Nat) (f : Core → Core) : (s.updCore n f).ingress = s.ingress := rfl
@[simp] theorem State.updCore_hostReads (s : State) (n : Nat) (f : Core → Core) : (s.updCore n f).hostReads = s.hostReads := rfl
@[simp] theorem State.updCore_hostRetries (s : State) (n : Nat) (f : Core → Core) : (s.updCore n f).hostRetries = s.hostRetries := rfl
@[simp] theorem State.updCore_migrs (s : State) (n : Nat) (f : Core → Core) : (s.updCore n f).migrs = s.migrs := rfl
@[simp] theorem State.updCore_refused (s : State) (n : Nat) (f : Core → Core) : (s.updCore n f).refused = s.refused := rfl
@[simp] theorem State.updCore_merges (s : State) (n : Nat) (f : Core → Core) : (s.updCore n f).merges = s.merges := rfl
@[simp] theorem State.updCore_almanac (s : State) (n : Nat) (f : Core → Core) : (s.updCore n f).almanac = s.almanac := rfl
@[simp] theorem State.updCore_colls (s : State) (n : Nat) (f : Core → Core) : (s.updCore n f).colls = s.colls := rfl
@[simp] theorem State.updCore_collNext (s : State) (n : Nat) (f : Core → Core) : (s.updCore n f).collNext = s.collNext := rfl
@[simp] theorem State.updCore_presence (s : State) (n : Nat) (f : Core → Core) : (s.updCore n f).presence = s.presence := rfl
@[simp] theorem State.updCore_gust (s : State) (n : Nat) (f : Core → Core) : (s.updCore n f).gust = s.gust := rfl
@[simp] theorem State.updCore_ctl (s : State) (n : Nat) (f : Core → Core) : (s.updCore n f).ctl = s.ctl := rfl
@[simp] theorem State.updCore_rel (s : State) (n : Nat) (f : Core → Core) : (s.updCore n f).rel = s.rel := rfl
@[simp] theorem State.updCore_resets (s : State) (n : Nat) (f : Core → Core) : (s.updCore n f).resets = s.resets := rfl
@[simp] theorem State.updCore_holdStep (s : State) (n : Nat) (f : Core → Core) : (s.updCore n f).holdStep = s.holdStep := rfl
@[simp] theorem State.updCore_upsets (s : State) (n : Nat) (f : Core → Core) : (s.updCore n f).upsets = s.upsets := rfl
@[simp] theorem State.updCore_freeCtr (s : State) (n : Nat) (f : Core → Core) : (s.updCore n f).freeCtr = s.freeCtr := rfl
@[simp] theorem State.updCore_stuck (s : State) (n : Nat) (f : Core → Core) : (s.updCore n f).stuck = s.stuck := rfl

@[simp] theorem State.setCtx_cycle (s : State) (n c : Nat) (x : Ctx) : (s.setCtx n c x).cycle = s.cycle := rfl
@[simp] theorem State.setCtx_scan (s : State) (n c : Nat) (x : Ctx) : (s.setCtx n c x).scan = s.scan := rfl
@[simp] theorem State.setCtx_unit (s : State) (n c : Nat) (x : Ctx) : (s.setCtx n c x).unit = s.unit := rfl
@[simp] theorem State.setCtx_agenda (s : State) (n c : Nat) (x : Ctx) : (s.setCtx n c x).agenda = s.agenda := rfl
@[simp] theorem State.setCtx_issue (s : State) (n c : Nat) (x : Ctx) : (s.setCtx n c x).issue = s.issue := rfl
@[simp] theorem State.setCtx_groups (s : State) (n c : Nat) (x : Ctx) : (s.setCtx n c x).groups = s.groups := rfl
@[simp] theorem State.setCtx_gangs (s : State) (n c : Nat) (x : Ctx) : (s.setCtx n c x).gangs = s.gangs := rfl
@[simp] theorem State.setCtx_docents (s : State) (n c : Nat) (x : Ctx) : (s.setCtx n c x).docents = s.docents := rfl
@[simp] theorem State.setCtx_jobs (s : State) (n c : Nat) (x : Ctx) : (s.setCtx n c x).jobs = s.jobs := rfl
@[simp] theorem State.setCtx_intake (s : State) (n c : Nat) (x : Ctx) : (s.setCtx n c x).intake = s.intake := rfl
@[simp] theorem State.setCtx_fresh (s : State) (n c : Nat) (x : Ctx) : (s.setCtx n c x).fresh = s.fresh := rfl
@[simp] theorem State.setCtx_dram (s : State) (n c : Nat) (x : Ctx) : (s.setCtx n c x).dram = s.dram := rfl
@[simp] theorem State.setCtx_dramPoison (s : State) (n c : Nat) (x : Ctx) : (s.setCtx n c x).dramPoison = s.dramPoison := rfl
@[simp] theorem State.setCtx_hall (s : State) (n c : Nat) (x : Ctx) : (s.setCtx n c x).hall = s.hall := rfl
@[simp] theorem State.setCtx_hallPoison (s : State) (n c : Nat) (x : Ctx) : (s.setCtx n c x).hallPoison = s.hallPoison := rfl
@[simp] theorem State.setCtx_host (s : State) (n c : Nat) (x : Ctx) : (s.setCtx n c x).host = s.host := rfl
@[simp] theorem State.setCtx_encAt (s : State) (n c : Nat) (x : Ctx) : (s.setCtx n c x).encAt = s.encAt := rfl
@[simp] theorem State.setCtx_keys (s : State) (n c : Nat) (x : Ctx) : (s.setCtx n c x).keys = s.keys := rfl
@[simp] theorem State.setCtx_seq (s : State) (n c : Nat) (x : Ctx) : (s.setCtx n c x).seq = s.seq := rfl
@[simp] theorem State.setCtx_regions (s : State) (n c : Nat) (x : Ctx) : (s.setCtx n c x).regions = s.regions := rfl
@[simp] theorem State.setCtx_bays (s : State) (n c : Nat) (x : Ctx) : (s.setCtx n c x).bays = s.bays := rfl
@[simp] theorem State.setCtx_ring (s : State) (n c : Nat) (x : Ctx) : (s.setCtx n c x).ring = s.ring := rfl
@[simp] theorem State.setCtx_ingress (s : State) (n c : Nat) (x : Ctx) : (s.setCtx n c x).ingress = s.ingress := rfl
@[simp] theorem State.setCtx_hostReads (s : State) (n c : Nat) (x : Ctx) : (s.setCtx n c x).hostReads = s.hostReads := rfl
@[simp] theorem State.setCtx_hostRetries (s : State) (n c : Nat) (x : Ctx) : (s.setCtx n c x).hostRetries = s.hostRetries := rfl
@[simp] theorem State.setCtx_migrs (s : State) (n c : Nat) (x : Ctx) : (s.setCtx n c x).migrs = s.migrs := rfl
@[simp] theorem State.setCtx_refused (s : State) (n c : Nat) (x : Ctx) : (s.setCtx n c x).refused = s.refused := rfl
@[simp] theorem State.setCtx_merges (s : State) (n c : Nat) (x : Ctx) : (s.setCtx n c x).merges = s.merges := rfl
@[simp] theorem State.setCtx_almanac (s : State) (n c : Nat) (x : Ctx) : (s.setCtx n c x).almanac = s.almanac := rfl
@[simp] theorem State.setCtx_colls (s : State) (n c : Nat) (x : Ctx) : (s.setCtx n c x).colls = s.colls := rfl
@[simp] theorem State.setCtx_collNext (s : State) (n c : Nat) (x : Ctx) : (s.setCtx n c x).collNext = s.collNext := rfl
@[simp] theorem State.setCtx_presence (s : State) (n c : Nat) (x : Ctx) : (s.setCtx n c x).presence = s.presence := rfl
@[simp] theorem State.setCtx_gust (s : State) (n c : Nat) (x : Ctx) : (s.setCtx n c x).gust = s.gust := rfl
@[simp] theorem State.setCtx_ctl (s : State) (n c : Nat) (x : Ctx) : (s.setCtx n c x).ctl = s.ctl := rfl
@[simp] theorem State.setCtx_rel (s : State) (n c : Nat) (x : Ctx) : (s.setCtx n c x).rel = s.rel := rfl
@[simp] theorem State.setCtx_resets (s : State) (n c : Nat) (x : Ctx) : (s.setCtx n c x).resets = s.resets := rfl
@[simp] theorem State.setCtx_holdStep (s : State) (n c : Nat) (x : Ctx) : (s.setCtx n c x).holdStep = s.holdStep := rfl
@[simp] theorem State.setCtx_upsets (s : State) (n c : Nat) (x : Ctx) : (s.setCtx n c x).upsets = s.upsets := rfl
@[simp] theorem State.setCtx_freeCtr (s : State) (n c : Nat) (x : Ctx) : (s.setCtx n c x).freeCtr = s.freeCtr := rfl
@[simp] theorem State.setCtx_stuck (s : State) (n c : Nat) (x : Ctx) : (s.setCtx n c x).stuck = s.stuck := rfl

@[simp] theorem State.updCtx_cycle (s : State) (n c : Nat) (f : Ctx → Ctx) : (s.updCtx n c f).cycle = s.cycle := rfl
@[simp] theorem State.updCtx_scan (s : State) (n c : Nat) (f : Ctx → Ctx) : (s.updCtx n c f).scan = s.scan := rfl
@[simp] theorem State.updCtx_unit (s : State) (n c : Nat) (f : Ctx → Ctx) : (s.updCtx n c f).unit = s.unit := rfl
@[simp] theorem State.updCtx_agenda (s : State) (n c : Nat) (f : Ctx → Ctx) : (s.updCtx n c f).agenda = s.agenda := rfl
@[simp] theorem State.updCtx_issue (s : State) (n c : Nat) (f : Ctx → Ctx) : (s.updCtx n c f).issue = s.issue := rfl
@[simp] theorem State.updCtx_groups (s : State) (n c : Nat) (f : Ctx → Ctx) : (s.updCtx n c f).groups = s.groups := rfl
@[simp] theorem State.updCtx_gangs (s : State) (n c : Nat) (f : Ctx → Ctx) : (s.updCtx n c f).gangs = s.gangs := rfl
@[simp] theorem State.updCtx_docents (s : State) (n c : Nat) (f : Ctx → Ctx) : (s.updCtx n c f).docents = s.docents := rfl
@[simp] theorem State.updCtx_jobs (s : State) (n c : Nat) (f : Ctx → Ctx) : (s.updCtx n c f).jobs = s.jobs := rfl
@[simp] theorem State.updCtx_intake (s : State) (n c : Nat) (f : Ctx → Ctx) : (s.updCtx n c f).intake = s.intake := rfl
@[simp] theorem State.updCtx_fresh (s : State) (n c : Nat) (f : Ctx → Ctx) : (s.updCtx n c f).fresh = s.fresh := rfl
@[simp] theorem State.updCtx_dram (s : State) (n c : Nat) (f : Ctx → Ctx) : (s.updCtx n c f).dram = s.dram := rfl
@[simp] theorem State.updCtx_dramPoison (s : State) (n c : Nat) (f : Ctx → Ctx) : (s.updCtx n c f).dramPoison = s.dramPoison := rfl
@[simp] theorem State.updCtx_hall (s : State) (n c : Nat) (f : Ctx → Ctx) : (s.updCtx n c f).hall = s.hall := rfl
@[simp] theorem State.updCtx_hallPoison (s : State) (n c : Nat) (f : Ctx → Ctx) : (s.updCtx n c f).hallPoison = s.hallPoison := rfl
@[simp] theorem State.updCtx_host (s : State) (n c : Nat) (f : Ctx → Ctx) : (s.updCtx n c f).host = s.host := rfl
@[simp] theorem State.updCtx_encAt (s : State) (n c : Nat) (f : Ctx → Ctx) : (s.updCtx n c f).encAt = s.encAt := rfl
@[simp] theorem State.updCtx_keys (s : State) (n c : Nat) (f : Ctx → Ctx) : (s.updCtx n c f).keys = s.keys := rfl
@[simp] theorem State.updCtx_seq (s : State) (n c : Nat) (f : Ctx → Ctx) : (s.updCtx n c f).seq = s.seq := rfl
@[simp] theorem State.updCtx_regions (s : State) (n c : Nat) (f : Ctx → Ctx) : (s.updCtx n c f).regions = s.regions := rfl
@[simp] theorem State.updCtx_bays (s : State) (n c : Nat) (f : Ctx → Ctx) : (s.updCtx n c f).bays = s.bays := rfl
@[simp] theorem State.updCtx_ring (s : State) (n c : Nat) (f : Ctx → Ctx) : (s.updCtx n c f).ring = s.ring := rfl
@[simp] theorem State.updCtx_ingress (s : State) (n c : Nat) (f : Ctx → Ctx) : (s.updCtx n c f).ingress = s.ingress := rfl
@[simp] theorem State.updCtx_hostReads (s : State) (n c : Nat) (f : Ctx → Ctx) : (s.updCtx n c f).hostReads = s.hostReads := rfl
@[simp] theorem State.updCtx_hostRetries (s : State) (n c : Nat) (f : Ctx → Ctx) : (s.updCtx n c f).hostRetries = s.hostRetries := rfl
@[simp] theorem State.updCtx_migrs (s : State) (n c : Nat) (f : Ctx → Ctx) : (s.updCtx n c f).migrs = s.migrs := rfl
@[simp] theorem State.updCtx_refused (s : State) (n c : Nat) (f : Ctx → Ctx) : (s.updCtx n c f).refused = s.refused := rfl
@[simp] theorem State.updCtx_merges (s : State) (n c : Nat) (f : Ctx → Ctx) : (s.updCtx n c f).merges = s.merges := rfl
@[simp] theorem State.updCtx_almanac (s : State) (n c : Nat) (f : Ctx → Ctx) : (s.updCtx n c f).almanac = s.almanac := rfl
@[simp] theorem State.updCtx_colls (s : State) (n c : Nat) (f : Ctx → Ctx) : (s.updCtx n c f).colls = s.colls := rfl
@[simp] theorem State.updCtx_collNext (s : State) (n c : Nat) (f : Ctx → Ctx) : (s.updCtx n c f).collNext = s.collNext := rfl
@[simp] theorem State.updCtx_presence (s : State) (n c : Nat) (f : Ctx → Ctx) : (s.updCtx n c f).presence = s.presence := rfl
@[simp] theorem State.updCtx_gust (s : State) (n c : Nat) (f : Ctx → Ctx) : (s.updCtx n c f).gust = s.gust := rfl
@[simp] theorem State.updCtx_ctl (s : State) (n c : Nat) (f : Ctx → Ctx) : (s.updCtx n c f).ctl = s.ctl := rfl
@[simp] theorem State.updCtx_rel (s : State) (n c : Nat) (f : Ctx → Ctx) : (s.updCtx n c f).rel = s.rel := rfl
@[simp] theorem State.updCtx_resets (s : State) (n c : Nat) (f : Ctx → Ctx) : (s.updCtx n c f).resets = s.resets := rfl
@[simp] theorem State.updCtx_holdStep (s : State) (n c : Nat) (f : Ctx → Ctx) : (s.updCtx n c f).holdStep = s.holdStep := rfl
@[simp] theorem State.updCtx_upsets (s : State) (n c : Nat) (f : Ctx → Ctx) : (s.updCtx n c f).upsets = s.upsets := rfl
@[simp] theorem State.updCtx_freeCtr (s : State) (n c : Nat) (f : Ctx → Ctx) : (s.updCtx n c f).freeCtr = s.freeCtr := rfl
@[simp] theorem State.updCtx_stuck (s : State) (n c : Nat) (f : Ctx → Ctx) : (s.updCtx n c f).stuck = s.stuck := rfl

@[simp] theorem State.at_cycle (s : State) (d r u : Nat) (e : Instr) : (s.at d r u e).cycle = s.cycle := rfl
@[simp] theorem State.at_scan (s : State) (d r u : Nat) (e : Instr) : (s.at d r u e).scan = s.scan := rfl
@[simp] theorem State.at_unit (s : State) (d r u : Nat) (e : Instr) : (s.at d r u e).unit = s.unit := rfl
@[simp] theorem State.at_issue (s : State) (d r u : Nat) (e : Instr) : (s.at d r u e).issue = s.issue := rfl
@[simp] theorem State.at_cores (s : State) (d r u : Nat) (e : Instr) : (s.at d r u e).cores = s.cores := rfl
@[simp] theorem State.at_groups (s : State) (d r u : Nat) (e : Instr) : (s.at d r u e).groups = s.groups := rfl
@[simp] theorem State.at_gangs (s : State) (d r u : Nat) (e : Instr) : (s.at d r u e).gangs = s.gangs := rfl
@[simp] theorem State.at_docents (s : State) (d r u : Nat) (e : Instr) : (s.at d r u e).docents = s.docents := rfl
@[simp] theorem State.at_jobs (s : State) (d r u : Nat) (e : Instr) : (s.at d r u e).jobs = s.jobs := rfl
@[simp] theorem State.at_intake (s : State) (d r u : Nat) (e : Instr) : (s.at d r u e).intake = s.intake := rfl
@[simp] theorem State.at_fresh (s : State) (d r u : Nat) (e : Instr) : (s.at d r u e).fresh = s.fresh := rfl
@[simp] theorem State.at_dram (s : State) (d r u : Nat) (e : Instr) : (s.at d r u e).dram = s.dram := rfl
@[simp] theorem State.at_dramPoison (s : State) (d r u : Nat) (e : Instr) : (s.at d r u e).dramPoison = s.dramPoison := rfl
@[simp] theorem State.at_hall (s : State) (d r u : Nat) (e : Instr) : (s.at d r u e).hall = s.hall := rfl
@[simp] theorem State.at_hallPoison (s : State) (d r u : Nat) (e : Instr) : (s.at d r u e).hallPoison = s.hallPoison := rfl
@[simp] theorem State.at_host (s : State) (d r u : Nat) (e : Instr) : (s.at d r u e).host = s.host := rfl
@[simp] theorem State.at_encAt (s : State) (d r u : Nat) (e : Instr) : (s.at d r u e).encAt = s.encAt := rfl
@[simp] theorem State.at_keys (s : State) (d r u : Nat) (e : Instr) : (s.at d r u e).keys = s.keys := rfl
@[simp] theorem State.at_seq (s : State) (d r u : Nat) (e : Instr) : (s.at d r u e).seq = s.seq := rfl
@[simp] theorem State.at_regions (s : State) (d r u : Nat) (e : Instr) : (s.at d r u e).regions = s.regions := rfl
@[simp] theorem State.at_bays (s : State) (d r u : Nat) (e : Instr) : (s.at d r u e).bays = s.bays := rfl
@[simp] theorem State.at_ring (s : State) (d r u : Nat) (e : Instr) : (s.at d r u e).ring = s.ring := rfl
@[simp] theorem State.at_ingress (s : State) (d r u : Nat) (e : Instr) : (s.at d r u e).ingress = s.ingress := rfl
@[simp] theorem State.at_hostReads (s : State) (d r u : Nat) (e : Instr) : (s.at d r u e).hostReads = s.hostReads := rfl
@[simp] theorem State.at_hostRetries (s : State) (d r u : Nat) (e : Instr) : (s.at d r u e).hostRetries = s.hostRetries := rfl
@[simp] theorem State.at_migrs (s : State) (d r u : Nat) (e : Instr) : (s.at d r u e).migrs = s.migrs := rfl
@[simp] theorem State.at_refused (s : State) (d r u : Nat) (e : Instr) : (s.at d r u e).refused = s.refused := rfl
@[simp] theorem State.at_merges (s : State) (d r u : Nat) (e : Instr) : (s.at d r u e).merges = s.merges := rfl
@[simp] theorem State.at_almanac (s : State) (d r u : Nat) (e : Instr) : (s.at d r u e).almanac = s.almanac := rfl
@[simp] theorem State.at_colls (s : State) (d r u : Nat) (e : Instr) : (s.at d r u e).colls = s.colls := rfl
@[simp] theorem State.at_collNext (s : State) (d r u : Nat) (e : Instr) : (s.at d r u e).collNext = s.collNext := rfl
@[simp] theorem State.at_presence (s : State) (d r u : Nat) (e : Instr) : (s.at d r u e).presence = s.presence := rfl
@[simp] theorem State.at_gust (s : State) (d r u : Nat) (e : Instr) : (s.at d r u e).gust = s.gust := rfl
@[simp] theorem State.at_ctl (s : State) (d r u : Nat) (e : Instr) : (s.at d r u e).ctl = s.ctl := rfl
@[simp] theorem State.at_rel (s : State) (d r u : Nat) (e : Instr) : (s.at d r u e).rel = s.rel := rfl
@[simp] theorem State.at_resets (s : State) (d r u : Nat) (e : Instr) : (s.at d r u e).resets = s.resets := rfl
@[simp] theorem State.at_holdStep (s : State) (d r u : Nat) (e : Instr) : (s.at d r u e).holdStep = s.holdStep := rfl
@[simp] theorem State.at_upsets (s : State) (d r u : Nat) (e : Instr) : (s.at d r u e).upsets = s.upsets := rfl
@[simp] theorem State.at_freeCtr (s : State) (d r u : Nat) (e : Instr) : (s.at d r u e).freeCtr = s.freeCtr := rfl
@[simp] theorem State.at_stuck (s : State) (d r u : Nat) (e : Instr) : (s.at d r u e).stuck = s.stuck := rfl

@[simp] theorem State.setGroup_cycle (s : State) (g : Nat) (x : Option Group) : (s.setGroup g x).cycle = s.cycle := rfl
@[simp] theorem State.setGroup_scan (s : State) (g : Nat) (x : Option Group) : (s.setGroup g x).scan = s.scan := rfl
@[simp] theorem State.setGroup_unit (s : State) (g : Nat) (x : Option Group) : (s.setGroup g x).unit = s.unit := rfl
@[simp] theorem State.setGroup_agenda (s : State) (g : Nat) (x : Option Group) : (s.setGroup g x).agenda = s.agenda := rfl
@[simp] theorem State.setGroup_issue (s : State) (g : Nat) (x : Option Group) : (s.setGroup g x).issue = s.issue := rfl
@[simp] theorem State.setGroup_cores (s : State) (g : Nat) (x : Option Group) : (s.setGroup g x).cores = s.cores := rfl
@[simp] theorem State.setGroup_gangs (s : State) (g : Nat) (x : Option Group) : (s.setGroup g x).gangs = s.gangs := rfl
@[simp] theorem State.setGroup_docents (s : State) (g : Nat) (x : Option Group) : (s.setGroup g x).docents = s.docents := rfl
@[simp] theorem State.setGroup_jobs (s : State) (g : Nat) (x : Option Group) : (s.setGroup g x).jobs = s.jobs := rfl
@[simp] theorem State.setGroup_intake (s : State) (g : Nat) (x : Option Group) : (s.setGroup g x).intake = s.intake := rfl
@[simp] theorem State.setGroup_fresh (s : State) (g : Nat) (x : Option Group) : (s.setGroup g x).fresh = s.fresh := rfl
@[simp] theorem State.setGroup_dram (s : State) (g : Nat) (x : Option Group) : (s.setGroup g x).dram = s.dram := rfl
@[simp] theorem State.setGroup_dramPoison (s : State) (g : Nat) (x : Option Group) : (s.setGroup g x).dramPoison = s.dramPoison := rfl
@[simp] theorem State.setGroup_hall (s : State) (g : Nat) (x : Option Group) : (s.setGroup g x).hall = s.hall := rfl
@[simp] theorem State.setGroup_hallPoison (s : State) (g : Nat) (x : Option Group) : (s.setGroup g x).hallPoison = s.hallPoison := rfl
@[simp] theorem State.setGroup_host (s : State) (g : Nat) (x : Option Group) : (s.setGroup g x).host = s.host := rfl
@[simp] theorem State.setGroup_encAt (s : State) (g : Nat) (x : Option Group) : (s.setGroup g x).encAt = s.encAt := rfl
@[simp] theorem State.setGroup_keys (s : State) (g : Nat) (x : Option Group) : (s.setGroup g x).keys = s.keys := rfl
@[simp] theorem State.setGroup_seq (s : State) (g : Nat) (x : Option Group) : (s.setGroup g x).seq = s.seq := rfl
@[simp] theorem State.setGroup_regions (s : State) (g : Nat) (x : Option Group) : (s.setGroup g x).regions = s.regions := rfl
@[simp] theorem State.setGroup_bays (s : State) (g : Nat) (x : Option Group) : (s.setGroup g x).bays = s.bays := rfl
@[simp] theorem State.setGroup_ring (s : State) (g : Nat) (x : Option Group) : (s.setGroup g x).ring = s.ring := rfl
@[simp] theorem State.setGroup_ingress (s : State) (g : Nat) (x : Option Group) : (s.setGroup g x).ingress = s.ingress := rfl
@[simp] theorem State.setGroup_hostReads (s : State) (g : Nat) (x : Option Group) : (s.setGroup g x).hostReads = s.hostReads := rfl
@[simp] theorem State.setGroup_hostRetries (s : State) (g : Nat) (x : Option Group) : (s.setGroup g x).hostRetries = s.hostRetries := rfl
@[simp] theorem State.setGroup_migrs (s : State) (g : Nat) (x : Option Group) : (s.setGroup g x).migrs = s.migrs := rfl
@[simp] theorem State.setGroup_refused (s : State) (g : Nat) (x : Option Group) : (s.setGroup g x).refused = s.refused := rfl
@[simp] theorem State.setGroup_merges (s : State) (g : Nat) (x : Option Group) : (s.setGroup g x).merges = s.merges := rfl
@[simp] theorem State.setGroup_almanac (s : State) (g : Nat) (x : Option Group) : (s.setGroup g x).almanac = s.almanac := rfl
@[simp] theorem State.setGroup_colls (s : State) (g : Nat) (x : Option Group) : (s.setGroup g x).colls = s.colls := rfl
@[simp] theorem State.setGroup_collNext (s : State) (g : Nat) (x : Option Group) : (s.setGroup g x).collNext = s.collNext := rfl
@[simp] theorem State.setGroup_presence (s : State) (g : Nat) (x : Option Group) : (s.setGroup g x).presence = s.presence := rfl
@[simp] theorem State.setGroup_gust (s : State) (g : Nat) (x : Option Group) : (s.setGroup g x).gust = s.gust := rfl
@[simp] theorem State.setGroup_ctl (s : State) (g : Nat) (x : Option Group) : (s.setGroup g x).ctl = s.ctl := rfl
@[simp] theorem State.setGroup_rel (s : State) (g : Nat) (x : Option Group) : (s.setGroup g x).rel = s.rel := rfl
@[simp] theorem State.setGroup_resets (s : State) (g : Nat) (x : Option Group) : (s.setGroup g x).resets = s.resets := rfl
@[simp] theorem State.setGroup_holdStep (s : State) (g : Nat) (x : Option Group) : (s.setGroup g x).holdStep = s.holdStep := rfl
@[simp] theorem State.setGroup_upsets (s : State) (g : Nat) (x : Option Group) : (s.setGroup g x).upsets = s.upsets := rfl
@[simp] theorem State.setGroup_freeCtr (s : State) (g : Nat) (x : Option Group) : (s.setGroup g x).freeCtr = s.freeCtr := rfl
@[simp] theorem State.setGroup_stuck (s : State) (g : Nat) (x : Option Group) : (s.setGroup g x).stuck = s.stuck := rfl

@[simp] theorem State.next_cycle (s : State) : (s.next.2).cycle = s.cycle := rfl
@[simp] theorem State.next_scan (s : State) : (s.next.2).scan = s.scan := rfl
@[simp] theorem State.next_unit (s : State) : (s.next.2).unit = s.unit := rfl
@[simp] theorem State.next_agenda (s : State) : (s.next.2).agenda = s.agenda := rfl
@[simp] theorem State.next_issue (s : State) : (s.next.2).issue = s.issue := rfl
@[simp] theorem State.next_cores (s : State) : (s.next.2).cores = s.cores := rfl
@[simp] theorem State.next_groups (s : State) : (s.next.2).groups = s.groups := rfl
@[simp] theorem State.next_gangs (s : State) : (s.next.2).gangs = s.gangs := rfl
@[simp] theorem State.next_docents (s : State) : (s.next.2).docents = s.docents := rfl
@[simp] theorem State.next_jobs (s : State) : (s.next.2).jobs = s.jobs := rfl
@[simp] theorem State.next_intake (s : State) : (s.next.2).intake = s.intake := rfl
@[simp] theorem State.next_dram (s : State) : (s.next.2).dram = s.dram := rfl
@[simp] theorem State.next_dramPoison (s : State) : (s.next.2).dramPoison = s.dramPoison := rfl
@[simp] theorem State.next_hall (s : State) : (s.next.2).hall = s.hall := rfl
@[simp] theorem State.next_hallPoison (s : State) : (s.next.2).hallPoison = s.hallPoison := rfl
@[simp] theorem State.next_host (s : State) : (s.next.2).host = s.host := rfl
@[simp] theorem State.next_encAt (s : State) : (s.next.2).encAt = s.encAt := rfl
@[simp] theorem State.next_keys (s : State) : (s.next.2).keys = s.keys := rfl
@[simp] theorem State.next_seq (s : State) : (s.next.2).seq = s.seq := rfl
@[simp] theorem State.next_regions (s : State) : (s.next.2).regions = s.regions := rfl
@[simp] theorem State.next_bays (s : State) : (s.next.2).bays = s.bays := rfl
@[simp] theorem State.next_ring (s : State) : (s.next.2).ring = s.ring := rfl
@[simp] theorem State.next_ingress (s : State) : (s.next.2).ingress = s.ingress := rfl
@[simp] theorem State.next_hostReads (s : State) : (s.next.2).hostReads = s.hostReads := rfl
@[simp] theorem State.next_hostRetries (s : State) : (s.next.2).hostRetries = s.hostRetries := rfl
@[simp] theorem State.next_migrs (s : State) : (s.next.2).migrs = s.migrs := rfl
@[simp] theorem State.next_refused (s : State) : (s.next.2).refused = s.refused := rfl
@[simp] theorem State.next_merges (s : State) : (s.next.2).merges = s.merges := rfl
@[simp] theorem State.next_almanac (s : State) : (s.next.2).almanac = s.almanac := rfl
@[simp] theorem State.next_colls (s : State) : (s.next.2).colls = s.colls := rfl
@[simp] theorem State.next_collNext (s : State) : (s.next.2).collNext = s.collNext := rfl
@[simp] theorem State.next_presence (s : State) : (s.next.2).presence = s.presence := rfl
@[simp] theorem State.next_gust (s : State) : (s.next.2).gust = s.gust := rfl
@[simp] theorem State.next_ctl (s : State) : (s.next.2).ctl = s.ctl := rfl
@[simp] theorem State.next_rel (s : State) : (s.next.2).rel = s.rel := rfl
@[simp] theorem State.next_resets (s : State) : (s.next.2).resets = s.resets := rfl
@[simp] theorem State.next_holdStep (s : State) : (s.next.2).holdStep = s.holdStep := rfl
@[simp] theorem State.next_upsets (s : State) : (s.next.2).upsets = s.upsets := rfl
@[simp] theorem State.next_freeCtr (s : State) : (s.next.2).freeCtr = s.freeCtr := rfl
@[simp] theorem State.next_stuck (s : State) : (s.next.2).stuck = s.stuck := rfl

@[simp] theorem State.free_cycle (s : State) : (s.free.2).cycle = s.cycle := rfl
@[simp] theorem State.free_scan (s : State) : (s.free.2).scan = s.scan := rfl
@[simp] theorem State.free_unit (s : State) : (s.free.2).unit = s.unit := rfl
@[simp] theorem State.free_agenda (s : State) : (s.free.2).agenda = s.agenda := rfl
@[simp] theorem State.free_issue (s : State) : (s.free.2).issue = s.issue := rfl
@[simp] theorem State.free_cores (s : State) : (s.free.2).cores = s.cores := rfl
@[simp] theorem State.free_groups (s : State) : (s.free.2).groups = s.groups := rfl
@[simp] theorem State.free_gangs (s : State) : (s.free.2).gangs = s.gangs := rfl
@[simp] theorem State.free_docents (s : State) : (s.free.2).docents = s.docents := rfl
@[simp] theorem State.free_jobs (s : State) : (s.free.2).jobs = s.jobs := rfl
@[simp] theorem State.free_intake (s : State) : (s.free.2).intake = s.intake := rfl
@[simp] theorem State.free_fresh (s : State) : (s.free.2).fresh = s.fresh := rfl
@[simp] theorem State.free_dram (s : State) : (s.free.2).dram = s.dram := rfl
@[simp] theorem State.free_dramPoison (s : State) : (s.free.2).dramPoison = s.dramPoison := rfl
@[simp] theorem State.free_hall (s : State) : (s.free.2).hall = s.hall := rfl
@[simp] theorem State.free_hallPoison (s : State) : (s.free.2).hallPoison = s.hallPoison := rfl
@[simp] theorem State.free_host (s : State) : (s.free.2).host = s.host := rfl
@[simp] theorem State.free_encAt (s : State) : (s.free.2).encAt = s.encAt := rfl
@[simp] theorem State.free_keys (s : State) : (s.free.2).keys = s.keys := rfl
@[simp] theorem State.free_seq (s : State) : (s.free.2).seq = s.seq := rfl
@[simp] theorem State.free_regions (s : State) : (s.free.2).regions = s.regions := rfl
@[simp] theorem State.free_bays (s : State) : (s.free.2).bays = s.bays := rfl
@[simp] theorem State.free_ring (s : State) : (s.free.2).ring = s.ring := rfl
@[simp] theorem State.free_ingress (s : State) : (s.free.2).ingress = s.ingress := rfl
@[simp] theorem State.free_hostReads (s : State) : (s.free.2).hostReads = s.hostReads := rfl
@[simp] theorem State.free_hostRetries (s : State) : (s.free.2).hostRetries = s.hostRetries := rfl
@[simp] theorem State.free_migrs (s : State) : (s.free.2).migrs = s.migrs := rfl
@[simp] theorem State.free_refused (s : State) : (s.free.2).refused = s.refused := rfl
@[simp] theorem State.free_merges (s : State) : (s.free.2).merges = s.merges := rfl
@[simp] theorem State.free_almanac (s : State) : (s.free.2).almanac = s.almanac := rfl
@[simp] theorem State.free_colls (s : State) : (s.free.2).colls = s.colls := rfl
@[simp] theorem State.free_collNext (s : State) : (s.free.2).collNext = s.collNext := rfl
@[simp] theorem State.free_presence (s : State) : (s.free.2).presence = s.presence := rfl
@[simp] theorem State.free_gust (s : State) : (s.free.2).gust = s.gust := rfl
@[simp] theorem State.free_ctl (s : State) : (s.free.2).ctl = s.ctl := rfl
@[simp] theorem State.free_rel (s : State) : (s.free.2).rel = s.rel := rfl
@[simp] theorem State.free_resets (s : State) : (s.free.2).resets = s.resets := rfl
@[simp] theorem State.free_holdStep (s : State) : (s.free.2).holdStep = s.holdStep := rfl
@[simp] theorem State.free_upsets (s : State) : (s.free.2).upsets = s.upsets := rfl
@[simp] theorem State.free_stuck (s : State) : (s.free.2).stuck = s.stuck := rfl

@[simp] theorem State.record_cycle (s : State) (r : RingRec) (i : Nat) : (s.record r i).cycle = s.cycle := rfl
@[simp] theorem State.record_scan (s : State) (r : RingRec) (i : Nat) : (s.record r i).scan = s.scan := rfl
@[simp] theorem State.record_unit (s : State) (r : RingRec) (i : Nat) : (s.record r i).unit = s.unit := rfl
@[simp] theorem State.record_issue (s : State) (r : RingRec) (i : Nat) : (s.record r i).issue = s.issue := rfl
@[simp] theorem State.record_cores (s : State) (r : RingRec) (i : Nat) : (s.record r i).cores = s.cores := rfl
@[simp] theorem State.record_groups (s : State) (r : RingRec) (i : Nat) : (s.record r i).groups = s.groups := rfl
@[simp] theorem State.record_gangs (s : State) (r : RingRec) (i : Nat) : (s.record r i).gangs = s.gangs := rfl
@[simp] theorem State.record_docents (s : State) (r : RingRec) (i : Nat) : (s.record r i).docents = s.docents := rfl
@[simp] theorem State.record_jobs (s : State) (r : RingRec) (i : Nat) : (s.record r i).jobs = s.jobs := rfl
@[simp] theorem State.record_intake (s : State) (r : RingRec) (i : Nat) : (s.record r i).intake = s.intake := rfl
@[simp] theorem State.record_fresh (s : State) (r : RingRec) (i : Nat) : (s.record r i).fresh = s.fresh := rfl
@[simp] theorem State.record_dram (s : State) (r : RingRec) (i : Nat) : (s.record r i).dram = s.dram := rfl
@[simp] theorem State.record_dramPoison (s : State) (r : RingRec) (i : Nat) : (s.record r i).dramPoison = s.dramPoison := rfl
@[simp] theorem State.record_hall (s : State) (r : RingRec) (i : Nat) : (s.record r i).hall = s.hall := rfl
@[simp] theorem State.record_hallPoison (s : State) (r : RingRec) (i : Nat) : (s.record r i).hallPoison = s.hallPoison := rfl
@[simp] theorem State.record_host (s : State) (r : RingRec) (i : Nat) : (s.record r i).host = s.host := rfl
@[simp] theorem State.record_encAt (s : State) (r : RingRec) (i : Nat) : (s.record r i).encAt = s.encAt := rfl
@[simp] theorem State.record_keys (s : State) (r : RingRec) (i : Nat) : (s.record r i).keys = s.keys := rfl
@[simp] theorem State.record_seq (s : State) (r : RingRec) (i : Nat) : (s.record r i).seq = s.seq := rfl
@[simp] theorem State.record_regions (s : State) (r : RingRec) (i : Nat) : (s.record r i).regions = s.regions := rfl
@[simp] theorem State.record_bays (s : State) (r : RingRec) (i : Nat) : (s.record r i).bays = s.bays := rfl
@[simp] theorem State.record_ring (s : State) (r : RingRec) (i : Nat) : (s.record r i).ring = s.ring := rfl
@[simp] theorem State.record_ingress (s : State) (r : RingRec) (i : Nat) : (s.record r i).ingress = s.ingress := rfl
@[simp] theorem State.record_hostReads (s : State) (r : RingRec) (i : Nat) : (s.record r i).hostReads = s.hostReads := rfl
@[simp] theorem State.record_hostRetries (s : State) (r : RingRec) (i : Nat) : (s.record r i).hostRetries = s.hostRetries := rfl
@[simp] theorem State.record_migrs (s : State) (r : RingRec) (i : Nat) : (s.record r i).migrs = s.migrs := rfl
@[simp] theorem State.record_refused (s : State) (r : RingRec) (i : Nat) : (s.record r i).refused = s.refused := rfl
@[simp] theorem State.record_merges (s : State) (r : RingRec) (i : Nat) : (s.record r i).merges = s.merges := rfl
@[simp] theorem State.record_almanac (s : State) (r : RingRec) (i : Nat) : (s.record r i).almanac = s.almanac := rfl
@[simp] theorem State.record_colls (s : State) (r : RingRec) (i : Nat) : (s.record r i).colls = s.colls := rfl
@[simp] theorem State.record_collNext (s : State) (r : RingRec) (i : Nat) : (s.record r i).collNext = s.collNext := rfl
@[simp] theorem State.record_presence (s : State) (r : RingRec) (i : Nat) : (s.record r i).presence = s.presence := rfl
@[simp] theorem State.record_gust (s : State) (r : RingRec) (i : Nat) : (s.record r i).gust = s.gust := rfl
@[simp] theorem State.record_ctl (s : State) (r : RingRec) (i : Nat) : (s.record r i).ctl = s.ctl := rfl
@[simp] theorem State.record_rel (s : State) (r : RingRec) (i : Nat) : (s.record r i).rel = s.rel := rfl
@[simp] theorem State.record_resets (s : State) (r : RingRec) (i : Nat) : (s.record r i).resets = s.resets := rfl
@[simp] theorem State.record_holdStep (s : State) (r : RingRec) (i : Nat) : (s.record r i).holdStep = s.holdStep := rfl
@[simp] theorem State.record_upsets (s : State) (r : RingRec) (i : Nat) : (s.record r i).upsets = s.upsets := rfl
@[simp] theorem State.record_freeCtr (s : State) (r : RingRec) (i : Nat) : (s.record r i).freeCtr = s.freeCtr := rfl
@[simp] theorem State.record_stuck (s : State) (r : RingRec) (i : Nat) : (s.record r i).stuck = s.stuck := rfl

@[simp] theorem State.push_cycle (s : State) (l : Nat) (p : Bool) (v : Val) (d : Option Nat) (w : PredW) : (s.push l p v d w).cycle = s.cycle := rfl
@[simp] theorem State.push_scan (s : State) (l : Nat) (p : Bool) (v : Val) (d : Option Nat) (w : PredW) : (s.push l p v d w).scan = s.scan := rfl
@[simp] theorem State.push_unit (s : State) (l : Nat) (p : Bool) (v : Val) (d : Option Nat) (w : PredW) : (s.push l p v d w).unit = s.unit := rfl
@[simp] theorem State.push_issue (s : State) (l : Nat) (p : Bool) (v : Val) (d : Option Nat) (w : PredW) : (s.push l p v d w).issue = s.issue := rfl
@[simp] theorem State.push_groups (s : State) (l : Nat) (p : Bool) (v : Val) (d : Option Nat) (w : PredW) : (s.push l p v d w).groups = s.groups := rfl
@[simp] theorem State.push_gangs (s : State) (l : Nat) (p : Bool) (v : Val) (d : Option Nat) (w : PredW) : (s.push l p v d w).gangs = s.gangs := rfl
@[simp] theorem State.push_docents (s : State) (l : Nat) (p : Bool) (v : Val) (d : Option Nat) (w : PredW) : (s.push l p v d w).docents = s.docents := rfl
@[simp] theorem State.push_jobs (s : State) (l : Nat) (p : Bool) (v : Val) (d : Option Nat) (w : PredW) : (s.push l p v d w).jobs = s.jobs := rfl
@[simp] theorem State.push_intake (s : State) (l : Nat) (p : Bool) (v : Val) (d : Option Nat) (w : PredW) : (s.push l p v d w).intake = s.intake := rfl
@[simp] theorem State.push_fresh (s : State) (l : Nat) (p : Bool) (v : Val) (d : Option Nat) (w : PredW) : (s.push l p v d w).fresh = s.fresh := rfl
@[simp] theorem State.push_dram (s : State) (l : Nat) (p : Bool) (v : Val) (d : Option Nat) (w : PredW) : (s.push l p v d w).dram = s.dram := rfl
@[simp] theorem State.push_dramPoison (s : State) (l : Nat) (p : Bool) (v : Val) (d : Option Nat) (w : PredW) : (s.push l p v d w).dramPoison = s.dramPoison := rfl
@[simp] theorem State.push_hall (s : State) (l : Nat) (p : Bool) (v : Val) (d : Option Nat) (w : PredW) : (s.push l p v d w).hall = s.hall := rfl
@[simp] theorem State.push_hallPoison (s : State) (l : Nat) (p : Bool) (v : Val) (d : Option Nat) (w : PredW) : (s.push l p v d w).hallPoison = s.hallPoison := rfl
@[simp] theorem State.push_host (s : State) (l : Nat) (p : Bool) (v : Val) (d : Option Nat) (w : PredW) : (s.push l p v d w).host = s.host := rfl
@[simp] theorem State.push_encAt (s : State) (l : Nat) (p : Bool) (v : Val) (d : Option Nat) (w : PredW) : (s.push l p v d w).encAt = s.encAt := rfl
@[simp] theorem State.push_keys (s : State) (l : Nat) (p : Bool) (v : Val) (d : Option Nat) (w : PredW) : (s.push l p v d w).keys = s.keys := rfl
@[simp] theorem State.push_seq (s : State) (l : Nat) (p : Bool) (v : Val) (d : Option Nat) (w : PredW) : (s.push l p v d w).seq = s.seq := rfl
@[simp] theorem State.push_regions (s : State) (l : Nat) (p : Bool) (v : Val) (d : Option Nat) (w : PredW) : (s.push l p v d w).regions = s.regions := rfl
@[simp] theorem State.push_bays (s : State) (l : Nat) (p : Bool) (v : Val) (d : Option Nat) (w : PredW) : (s.push l p v d w).bays = s.bays := rfl
@[simp] theorem State.push_ring (s : State) (l : Nat) (p : Bool) (v : Val) (d : Option Nat) (w : PredW) : (s.push l p v d w).ring = s.ring := rfl
@[simp] theorem State.push_ingress (s : State) (l : Nat) (p : Bool) (v : Val) (d : Option Nat) (w : PredW) : (s.push l p v d w).ingress = s.ingress := rfl
@[simp] theorem State.push_hostReads (s : State) (l : Nat) (p : Bool) (v : Val) (d : Option Nat) (w : PredW) : (s.push l p v d w).hostReads = s.hostReads := rfl
@[simp] theorem State.push_hostRetries (s : State) (l : Nat) (p : Bool) (v : Val) (d : Option Nat) (w : PredW) : (s.push l p v d w).hostRetries = s.hostRetries := rfl
@[simp] theorem State.push_migrs (s : State) (l : Nat) (p : Bool) (v : Val) (d : Option Nat) (w : PredW) : (s.push l p v d w).migrs = s.migrs := rfl
@[simp] theorem State.push_refused (s : State) (l : Nat) (p : Bool) (v : Val) (d : Option Nat) (w : PredW) : (s.push l p v d w).refused = s.refused := rfl
@[simp] theorem State.push_merges (s : State) (l : Nat) (p : Bool) (v : Val) (d : Option Nat) (w : PredW) : (s.push l p v d w).merges = s.merges := rfl
@[simp] theorem State.push_almanac (s : State) (l : Nat) (p : Bool) (v : Val) (d : Option Nat) (w : PredW) : (s.push l p v d w).almanac = s.almanac := rfl
@[simp] theorem State.push_colls (s : State) (l : Nat) (p : Bool) (v : Val) (d : Option Nat) (w : PredW) : (s.push l p v d w).colls = s.colls := rfl
@[simp] theorem State.push_collNext (s : State) (l : Nat) (p : Bool) (v : Val) (d : Option Nat) (w : PredW) : (s.push l p v d w).collNext = s.collNext := rfl
@[simp] theorem State.push_presence (s : State) (l : Nat) (p : Bool) (v : Val) (d : Option Nat) (w : PredW) : (s.push l p v d w).presence = s.presence := rfl
@[simp] theorem State.push_gust (s : State) (l : Nat) (p : Bool) (v : Val) (d : Option Nat) (w : PredW) : (s.push l p v d w).gust = s.gust := rfl
@[simp] theorem State.push_ctl (s : State) (l : Nat) (p : Bool) (v : Val) (d : Option Nat) (w : PredW) : (s.push l p v d w).ctl = s.ctl := rfl
@[simp] theorem State.push_rel (s : State) (l : Nat) (p : Bool) (v : Val) (d : Option Nat) (w : PredW) : (s.push l p v d w).rel = s.rel := rfl
@[simp] theorem State.push_resets (s : State) (l : Nat) (p : Bool) (v : Val) (d : Option Nat) (w : PredW) : (s.push l p v d w).resets = s.resets := rfl
@[simp] theorem State.push_holdStep (s : State) (l : Nat) (p : Bool) (v : Val) (d : Option Nat) (w : PredW) : (s.push l p v d w).holdStep = s.holdStep := rfl
@[simp] theorem State.push_upsets (s : State) (l : Nat) (p : Bool) (v : Val) (d : Option Nat) (w : PredW) : (s.push l p v d w).upsets = s.upsets := rfl
@[simp] theorem State.push_freeCtr (s : State) (l : Nat) (p : Bool) (v : Val) (d : Option Nat) (w : PredW) : (s.push l p v d w).freeCtr = s.freeCtr := rfl
@[simp] theorem State.push_stuck (s : State) (l : Nat) (p : Bool) (v : Val) (d : Option Nat) (w : PredW) : (s.push l p v d w).stuck = s.stuck := rfl

@[simp] theorem State.reserveFor_cycle (s : State) (v : Bool) (d : Option Nat) : ((s.reserveFor v d).2).cycle = s.cycle := rfl
@[simp] theorem State.reserveFor_scan (s : State) (v : Bool) (d : Option Nat) : ((s.reserveFor v d).2).scan = s.scan := rfl
@[simp] theorem State.reserveFor_unit (s : State) (v : Bool) (d : Option Nat) : ((s.reserveFor v d).2).unit = s.unit := rfl
@[simp] theorem State.reserveFor_agenda (s : State) (v : Bool) (d : Option Nat) : ((s.reserveFor v d).2).agenda = s.agenda := rfl
@[simp] theorem State.reserveFor_issue (s : State) (v : Bool) (d : Option Nat) : ((s.reserveFor v d).2).issue = s.issue := rfl
@[simp] theorem State.reserveFor_groups (s : State) (v : Bool) (d : Option Nat) : ((s.reserveFor v d).2).groups = s.groups := rfl
@[simp] theorem State.reserveFor_gangs (s : State) (v : Bool) (d : Option Nat) : ((s.reserveFor v d).2).gangs = s.gangs := rfl
@[simp] theorem State.reserveFor_docents (s : State) (v : Bool) (d : Option Nat) : ((s.reserveFor v d).2).docents = s.docents := rfl
@[simp] theorem State.reserveFor_jobs (s : State) (v : Bool) (d : Option Nat) : ((s.reserveFor v d).2).jobs = s.jobs := rfl
@[simp] theorem State.reserveFor_intake (s : State) (v : Bool) (d : Option Nat) : ((s.reserveFor v d).2).intake = s.intake := rfl
@[simp] theorem State.reserveFor_fresh (s : State) (v : Bool) (d : Option Nat) : ((s.reserveFor v d).2).fresh = s.fresh := rfl
@[simp] theorem State.reserveFor_dram (s : State) (v : Bool) (d : Option Nat) : ((s.reserveFor v d).2).dram = s.dram := rfl
@[simp] theorem State.reserveFor_dramPoison (s : State) (v : Bool) (d : Option Nat) : ((s.reserveFor v d).2).dramPoison = s.dramPoison := rfl
@[simp] theorem State.reserveFor_hall (s : State) (v : Bool) (d : Option Nat) : ((s.reserveFor v d).2).hall = s.hall := rfl
@[simp] theorem State.reserveFor_hallPoison (s : State) (v : Bool) (d : Option Nat) : ((s.reserveFor v d).2).hallPoison = s.hallPoison := rfl
@[simp] theorem State.reserveFor_host (s : State) (v : Bool) (d : Option Nat) : ((s.reserveFor v d).2).host = s.host := rfl
@[simp] theorem State.reserveFor_encAt (s : State) (v : Bool) (d : Option Nat) : ((s.reserveFor v d).2).encAt = s.encAt := rfl
@[simp] theorem State.reserveFor_keys (s : State) (v : Bool) (d : Option Nat) : ((s.reserveFor v d).2).keys = s.keys := rfl
@[simp] theorem State.reserveFor_seq (s : State) (v : Bool) (d : Option Nat) : ((s.reserveFor v d).2).seq = s.seq := rfl
@[simp] theorem State.reserveFor_regions (s : State) (v : Bool) (d : Option Nat) : ((s.reserveFor v d).2).regions = s.regions := rfl
@[simp] theorem State.reserveFor_bays (s : State) (v : Bool) (d : Option Nat) : ((s.reserveFor v d).2).bays = s.bays := rfl
@[simp] theorem State.reserveFor_ring (s : State) (v : Bool) (d : Option Nat) : ((s.reserveFor v d).2).ring = s.ring := rfl
@[simp] theorem State.reserveFor_ingress (s : State) (v : Bool) (d : Option Nat) : ((s.reserveFor v d).2).ingress = s.ingress := rfl
@[simp] theorem State.reserveFor_hostReads (s : State) (v : Bool) (d : Option Nat) : ((s.reserveFor v d).2).hostReads = s.hostReads := rfl
@[simp] theorem State.reserveFor_hostRetries (s : State) (v : Bool) (d : Option Nat) : ((s.reserveFor v d).2).hostRetries = s.hostRetries := rfl
@[simp] theorem State.reserveFor_migrs (s : State) (v : Bool) (d : Option Nat) : ((s.reserveFor v d).2).migrs = s.migrs := rfl
@[simp] theorem State.reserveFor_refused (s : State) (v : Bool) (d : Option Nat) : ((s.reserveFor v d).2).refused = s.refused := rfl
@[simp] theorem State.reserveFor_merges (s : State) (v : Bool) (d : Option Nat) : ((s.reserveFor v d).2).merges = s.merges := rfl
@[simp] theorem State.reserveFor_almanac (s : State) (v : Bool) (d : Option Nat) : ((s.reserveFor v d).2).almanac = s.almanac := rfl
@[simp] theorem State.reserveFor_colls (s : State) (v : Bool) (d : Option Nat) : ((s.reserveFor v d).2).colls = s.colls := rfl
@[simp] theorem State.reserveFor_collNext (s : State) (v : Bool) (d : Option Nat) : ((s.reserveFor v d).2).collNext = s.collNext := rfl
@[simp] theorem State.reserveFor_presence (s : State) (v : Bool) (d : Option Nat) : ((s.reserveFor v d).2).presence = s.presence := rfl
@[simp] theorem State.reserveFor_gust (s : State) (v : Bool) (d : Option Nat) : ((s.reserveFor v d).2).gust = s.gust := rfl
@[simp] theorem State.reserveFor_ctl (s : State) (v : Bool) (d : Option Nat) : ((s.reserveFor v d).2).ctl = s.ctl := rfl
@[simp] theorem State.reserveFor_rel (s : State) (v : Bool) (d : Option Nat) : ((s.reserveFor v d).2).rel = s.rel := rfl
@[simp] theorem State.reserveFor_resets (s : State) (v : Bool) (d : Option Nat) : ((s.reserveFor v d).2).resets = s.resets := rfl
@[simp] theorem State.reserveFor_holdStep (s : State) (v : Bool) (d : Option Nat) : ((s.reserveFor v d).2).holdStep = s.holdStep := rfl
@[simp] theorem State.reserveFor_upsets (s : State) (v : Bool) (d : Option Nat) : ((s.reserveFor v d).2).upsets = s.upsets := rfl
@[simp] theorem State.reserveFor_freeCtr (s : State) (v : Bool) (d : Option Nat) : ((s.reserveFor v d).2).freeCtr = s.freeCtr := rfl
@[simp] theorem State.reserveFor_stuck (s : State) (v : Bool) (d : Option Nat) : ((s.reserveFor v d).2).stuck = s.stuck := rfl

/-! ## What updates of a core and a context leave -/

@[simp] theorem Core.setCtx_cur (k : Core) (c : Nat) (x : Ctx) : (k.setCtx c x).cur = k.cur := rfl
@[simp] theorem Core.setCtx_group (k : Core) (c : Nat) (x : Ctx) : (k.setCtx c x).group = k.group := rfl
@[simp] theorem Core.setCtx_dead (k : Core) (c : Nat) (x : Ctx) : (k.setCtx c x).dead = k.dead := rfl
@[simp] theorem Core.setCtx_lastPipe (k : Core) (c : Nat) (x : Ctx) : (k.setCtx c x).lastPipe = k.lastPipe := rfl
@[simp] theorem Core.setCtx_sp (k : Core) (c : Nat) (x : Ctx) : (k.setCtx c x).sp = k.sp := rfl
@[simp] theorem Core.setCtx_spPoison (k : Core) (c : Nat) (x : Ctx) : (k.setCtx c x).spPoison = k.spPoison := rfl
@[simp] theorem Core.setCtx_owner (k : Core) (c : Nat) (x : Ctx) : (k.setCtx c x).owner = k.owner := rfl
@[simp] theorem Core.setCtx_flips (k : Core) (c : Nat) (x : Ctx) : (k.setCtx c x).flips = k.flips := rfl
@[simp] theorem Core.setCtx_flipped (k : Core) (c : Nat) (x : Ctx) : (k.setCtx c x).flipped = k.flipped := rfl
@[simp] theorem Core.setCtx_num (k : Core) (c : Nat) (x : Ctx) : (k.setCtx c x).num = k.num := rfl
@[simp] theorem Core.setCtx_sems (k : Core) (c : Nat) (x : Ctx) : (k.setCtx c x).sems = k.sems := rfl
@[simp] theorem Core.setCtx_semSat (k : Core) (c : Nat) (x : Ctx) : (k.setCtx c x).semSat = k.semSat := rfl
@[simp] theorem Core.setCtx_accs (k : Core) (c : Nat) (x : Ctx) : (k.setCtx c x).accs = k.accs := rfl
@[simp] theorem Core.setCtx_latches (k : Core) (c : Nat) (x : Ctx) : (k.setCtx c x).latches = k.latches := rfl
@[simp] theorem Core.setCtx_tileOps (k : Core) (c : Nat) (x : Ctx) : (k.setCtx c x).tileOps = k.tileOps := rfl
@[simp] theorem Core.setCtx_units (k : Core) (c : Nat) (x : Ctx) : (k.setCtx c x).units = k.units := rfl
@[simp] theorem Core.setCtx_lastArray (k : Core) (c : Nat) (x : Ctx) : (k.setCtx c x).lastArray = k.lastArray := rfl
@[simp] theorem Core.setCtx_lastTgang (k : Core) (c : Nat) (x : Ctx) : (k.setCtx c x).lastTgang = k.lastTgang := rfl
@[simp] theorem Core.setCtx_gangQueue (k : Core) (c : Nat) (x : Ctx) : (k.setCtx c x).gangQueue = k.gangQueue := rfl
@[simp] theorem Core.setCtx_gangDue (k : Core) (c : Nat) (x : Ctx) : (k.setCtx c x).gangDue = k.gangDue := rfl
@[simp] theorem Core.setCtx_banks (k : Core) (c : Nat) (x : Ctx) : (k.setCtx c x).banks = k.banks := rfl
@[simp] theorem Core.setCtx_divFree (k : Core) (c : Nat) (x : Ctx) : (k.setCtx c x).divFree = k.divFree := rfl
@[simp] theorem Core.setCtx_vecFree (k : Core) (c : Nat) (x : Ctx) : (k.setCtx c x).vecFree = k.vecFree := rfl
@[simp] theorem Core.setCtx_view (k : Core) (c : Nat) (x : Ctx) : (k.setCtx c x).view = k.view := rfl
@[simp] theorem Core.setCtx_viewUse (k : Core) (c : Nat) (x : Ctx) : (k.setCtx c x).viewUse = k.viewUse := rfl
@[simp] theorem Core.setCtx_viewGen (k : Core) (c : Nat) (x : Ctx) : (k.setCtx c x).viewGen = k.viewGen := rfl
@[simp] theorem Core.setCtx_viewAll (k : Core) (c : Nat) (x : Ctx) : (k.setCtx c x).viewAll = k.viewAll := rfl
@[simp] theorem Core.setCtx_viewDrop (k : Core) (c : Nat) (x : Ctx) : (k.setCtx c x).viewDrop = k.viewDrop := rfl
@[simp] theorem Core.setCtx_blocks (k : Core) (c : Nat) (x : Ctx) : (k.setCtx c x).blocks = k.blocks := rfl
@[simp] theorem Core.setCtx_stamp (k : Core) (c : Nat) (x : Ctx) : (k.setCtx c x).stamp = k.stamp := rfl
@[simp] theorem Core.setCtx_subs (k : Core) (c : Nat) (x : Ctx) : (k.setCtx c x).subs = k.subs := rfl
@[simp] theorem Core.setCtx_fwds (k : Core) (c : Nat) (x : Ctx) : (k.setCtx c x).fwds = k.fwds := rfl
@[simp] theorem Core.setCtx_side (k : Core) (c : Nat) (x : Ctx) : (k.setCtx c x).side = k.side := rfl
@[simp] theorem Core.setCtx_sidePos (k : Core) (c : Nat) (x : Ctx) : (k.setCtx c x).sidePos = k.sidePos := rfl
@[simp] theorem Core.setCtx_engines (k : Core) (c : Nat) (x : Ctx) : (k.setCtx c x).engines = k.engines := rfl
@[simp] theorem Core.setCtx_sigs (k : Core) (c : Nat) (x : Ctx) : (k.setCtx c x).sigs = k.sigs := rfl
@[simp] theorem Core.setCtx_walker (k : Core) (c : Nat) (x : Ctx) : (k.setCtx c x).walker = k.walker := rfl
@[simp] theorem Core.setCtx_monitors (k : Core) (c : Nat) (x : Ctx) : (k.setCtx c x).monitors = k.monitors := rfl
@[simp] theorem Core.setCtx_queue (k : Core) (c : Nat) (x : Ctx) : (k.setCtx c x).queue = k.queue := rfl
@[simp] theorem Core.setCtx_yielded (k : Core) (c : Nat) (x : Ctx) : (k.setCtx c x).yielded = k.yielded := rfl
@[simp] theorem Core.setCtx_rtCache (k : Core) (c : Nat) (x : Ctx) : (k.setCtx c x).rtCache = k.rtCache := rfl
@[simp] theorem Core.setCtx_rtUse (k : Core) (c : Nat) (x : Ctx) : (k.setCtx c x).rtUse = k.rtUse := rfl
@[simp] theorem Core.setCtx_vit (k : Core) (c : Nat) (x : Ctx) : (k.setCtx c x).vit = k.vit := rfl
@[simp] theorem Core.setCtx_natFree (k : Core) (c : Nat) (x : Ctx) : (k.setCtx c x).natFree = k.natFree := rfl
@[simp] theorem Core.setCtx_calls (k : Core) (c : Nat) (x : Ctx) : (k.setCtx c x).calls = k.calls := rfl
@[simp] theorem Core.setCtx_tw (k : Core) (c : Nat) (x : Ctx) : (k.setCtx c x).tw = k.tw := rfl
@[simp] theorem Core.setCtx_pool (k : Core) (c : Nat) (x : Ctx) : (k.setCtx c x).pool = k.pool := rfl

@[simp] theorem Ctx.reserve_status (x : Ctx) (v : Bool) (d : Option Nat) (w : PredW) : (x.reserve v d w).status = x.status := rfl
@[simp] theorem Ctx.reserve_wait (x : Ctx) (v : Bool) (d : Option Nat) (w : PredW) : (x.reserve v d w).wait = x.wait := rfl
@[simp] theorem Ctx.reserve_epoch (x : Ctx) (v : Bool) (d : Option Nat) (w : PredW) : (x.reserve v d w).epoch = x.epoch := rfl
@[simp] theorem Ctx.reserve_readyAt (x : Ctx) (v : Bool) (d : Option Nat) (w : PredW) : (x.reserve v d w).readyAt = x.readyAt := rfl
@[simp] theorem Ctx.reserve_pc (x : Ctx) (v : Bool) (d : Option Nat) (w : PredW) : (x.reserve v d w).pc = x.pc := rfl
@[simp] theorem Ctx.reserve_xfer (x : Ctx) (v : Bool) (d : Option Nat) (w : PredW) : (x.reserve v d w).xfer = x.xfer := rfl
@[simp] theorem Ctx.reserve_rep (x : Ctx) (v : Bool) (d : Option Nat) (w : PredW) : (x.reserve v d w).rep = x.rep := rfl
@[simp] theorem Ctx.reserve_s (x : Ctx) (v : Bool) (d : Option Nat) (w : PredW) : (x.reserve v d w).s = x.s := rfl
@[simp] theorem Ctx.reserve_v (x : Ctx) (v : Bool) (d : Option Nat) (w : PredW) : (x.reserve v d w).v = x.v := rfl
@[simp] theorem Ctx.reserve_f (x : Ctx) (v : Bool) (d : Option Nat) (w : PredW) : (x.reserve v d w).f = x.f := rfl
@[simp] theorem Ctx.reserve_c (x : Ctx) (v : Bool) (d : Option Nat) (w : PredW) : (x.reserve v d w).c = x.c := rfl
@[simp] theorem Ctx.reserve_m (x : Ctx) (v : Bool) (d : Option Nat) (w : PredW) : (x.reserve v d w).m = x.m := rfl
@[simp] theorem Ctx.reserve_shadow (x : Ctx) (v : Bool) (d : Option Nat) (w : PredW) : (x.reserve v d w).shadow = x.shadow := rfl
@[simp] theorem Ctx.reserve_ckpt (x : Ctx) (v : Bool) (d : Option Nat) (w : PredW) : (x.reserve v d w).ckpt = x.ckpt := rfl
@[simp] theorem Ctx.reserve_link (x : Ctx) (v : Bool) (d : Option Nat) (w : PredW) : (x.reserve v d w).link = x.link := rfl
@[simp] theorem Ctx.reserve_sr (x : Ctx) (v : Bool) (d : Option Nat) (w : PredW) : (x.reserve v d w).sr = x.sr := rfl
@[simp] theorem Ctx.reserve_log (x : Ctx) (v : Bool) (d : Option Nat) (w : PredW) : (x.reserve v d w).log = x.log := rfl
@[simp] theorem Ctx.reserve_pubPos (x : Ctx) (v : Bool) (d : Option Nat) (w : PredW) : (x.reserve v d w).pubPos = x.pubPos := rfl
@[simp] theorem Ctx.reserve_hist (x : Ctx) (v : Bool) (d : Option Nat) (w : PredW) : (x.reserve v d w).hist = x.hist := rfl
@[simp] theorem Ctx.reserve_pubAt (x : Ctx) (v : Bool) (d : Option Nat) (w : PredW) : (x.reserve v d w).pubAt = x.pubAt := rfl
@[simp] theorem Ctx.reserve_acq (x : Ctx) (v : Bool) (d : Option Nat) (w : PredW) : (x.reserve v d w).acq = x.acq := rfl
@[simp] theorem Ctx.reserve_loads (x : Ctx) (v : Bool) (d : Option Nat) (w : PredW) : (x.reserve v d w).loads = x.loads := rfl
@[simp] theorem Ctx.reserve_heldOps (x : Ctx) (v : Bool) (d : Option Nat) (w : PredW) : (x.reserve v d w).heldOps = x.heldOps := rfl
@[simp] theorem Ctx.reserve_detAtoms (x : Ctx) (v : Bool) (d : Option Nat) (w : PredW) : (x.reserve v d w).detAtoms = x.detAtoms := rfl
@[simp] theorem Ctx.reserve_detWords (x : Ctx) (v : Bool) (d : Option Nat) (w : PredW) : (x.reserve v d w).detWords = x.detWords := rfl
@[simp] theorem Ctx.reserve_detReads (x : Ctx) (v : Bool) (d : Option Nat) (w : PredW) : (x.reserve v d w).detReads = x.detReads := rfl
@[simp] theorem Ctx.reserve_detFlying (x : Ctx) (v : Bool) (d : Option Nat) (w : PredW) : (x.reserve v d w).detFlying = x.detFlying := rfl
@[simp] theorem Ctx.reserve_ops (x : Ctx) (v : Bool) (d : Option Nat) (w : PredW) : (x.reserve v d w).ops = x.ops := rfl
@[simp] theorem Ctx.reserve_atoms (x : Ctx) (v : Bool) (d : Option Nat) (w : PredW) : (x.reserve v d w).atoms = x.atoms := rfl
@[simp] theorem Ctx.reserve_carried (x : Ctx) (v : Bool) (d : Option Nat) (w : PredW) : (x.reserve v d w).carried = x.carried := rfl
@[simp] theorem Ctx.reserve_arrived (x : Ctx) (v : Bool) (d : Option Nat) (w : PredW) : (x.reserve v d w).arrived = x.arrived := rfl
@[simp] theorem Ctx.reserve_again (x : Ctx) (v : Bool) (d : Option Nat) (w : PredW) : (x.reserve v d w).again = x.again := rfl
@[simp] theorem Ctx.reserve_barRes (x : Ctx) (v : Bool) (d : Option Nat) (w : PredW) : (x.reserve v d w).barRes = x.barRes := rfl
@[simp] theorem Ctx.reserve_phaseOf (x : Ctx) (v : Bool) (d : Option Nat) (w : PredW) : (x.reserve v d w).phaseOf = x.phaseOf := rfl
@[simp] theorem Ctx.reserve_phaseAt (x : Ctx) (v : Bool) (d : Option Nat) (w : PredW) : (x.reserve v d w).phaseAt = x.phaseAt := rfl
@[simp] theorem Ctx.reserve_hdrWait (x : Ctx) (v : Bool) (d : Option Nat) (w : PredW) : (x.reserve v d w).hdrWait = x.hdrWait := rfl
@[simp] theorem Ctx.reserve_transfer (x : Ctx) (v : Bool) (d : Option Nat) (w : PredW) : (x.reserve v d w).transfer = x.transfer := rfl
@[simp] theorem Ctx.reserve_startVec (x : Ctx) (v : Bool) (d : Option Nat) (w : PredW) : (x.reserve v d w).startVec = x.startVec := rfl
@[simp] theorem Ctx.reserve_record (x : Ctx) (v : Bool) (d : Option Nat) (w : PredW) : (x.reserve v d w).record = x.record := rfl
@[simp] theorem Ctx.reserve_halted (x : Ctx) (v : Bool) (d : Option Nat) (w : PredW) : (x.reserve v d w).halted = x.halted := rfl

@[simp] theorem Ctx.writeReg_status (x : Ctx) (vec : Bool) (n : Nat) (v : Val) : (x.writeReg vec n v).status = x.status := by cases vec <;> rfl
@[simp] theorem Ctx.writeReg_wait (x : Ctx) (vec : Bool) (n : Nat) (v : Val) : (x.writeReg vec n v).wait = x.wait := by cases vec <;> rfl
@[simp] theorem Ctx.writeReg_epoch (x : Ctx) (vec : Bool) (n : Nat) (v : Val) : (x.writeReg vec n v).epoch = x.epoch := by cases vec <;> rfl
@[simp] theorem Ctx.writeReg_nextId (x : Ctx) (vec : Bool) (n : Nat) (v : Val) : (x.writeReg vec n v).nextId = x.nextId := by cases vec <;> rfl
@[simp] theorem Ctx.writeReg_readyAt (x : Ctx) (vec : Bool) (n : Nat) (v : Val) : (x.writeReg vec n v).readyAt = x.readyAt := by cases vec <;> rfl
@[simp] theorem Ctx.writeReg_pc (x : Ctx) (vec : Bool) (n : Nat) (v : Val) : (x.writeReg vec n v).pc = x.pc := by cases vec <;> rfl
@[simp] theorem Ctx.writeReg_xfer (x : Ctx) (vec : Bool) (n : Nat) (v : Val) : (x.writeReg vec n v).xfer = x.xfer := by cases vec <;> rfl
@[simp] theorem Ctx.writeReg_rep (x : Ctx) (vec : Bool) (n : Nat) (v : Val) : (x.writeReg vec n v).rep = x.rep := by cases vec <;> rfl
@[simp] theorem Ctx.writeReg_q (x : Ctx) (vec : Bool) (n : Nat) (v : Val) : (x.writeReg vec n v).q = x.q := by cases vec <;> rfl
@[simp] theorem Ctx.writeReg_c (x : Ctx) (vec : Bool) (n : Nat) (v : Val) : (x.writeReg vec n v).c = x.c := by cases vec <;> rfl
@[simp] theorem Ctx.writeReg_m (x : Ctx) (vec : Bool) (n : Nat) (v : Val) : (x.writeReg vec n v).m = x.m := by cases vec <;> rfl
@[simp] theorem Ctx.writeReg_pend (x : Ctx) (vec : Bool) (n : Nat) (v : Val) : (x.writeReg vec n v).pend = x.pend := by cases vec <;> rfl
@[simp] theorem Ctx.writeReg_shadow (x : Ctx) (vec : Bool) (n : Nat) (v : Val) : (x.writeReg vec n v).shadow = x.shadow := by cases vec <;> rfl
@[simp] theorem Ctx.writeReg_ckpt (x : Ctx) (vec : Bool) (n : Nat) (v : Val) : (x.writeReg vec n v).ckpt = x.ckpt := by cases vec <;> rfl
@[simp] theorem Ctx.writeReg_link (x : Ctx) (vec : Bool) (n : Nat) (v : Val) : (x.writeReg vec n v).link = x.link := by cases vec <;> rfl
@[simp] theorem Ctx.writeReg_sr (x : Ctx) (vec : Bool) (n : Nat) (v : Val) : (x.writeReg vec n v).sr = x.sr := by cases vec <;> rfl
@[simp] theorem Ctx.writeReg_log (x : Ctx) (vec : Bool) (n : Nat) (v : Val) : (x.writeReg vec n v).log = x.log := by cases vec <;> rfl
@[simp] theorem Ctx.writeReg_pubPos (x : Ctx) (vec : Bool) (n : Nat) (v : Val) : (x.writeReg vec n v).pubPos = x.pubPos := by cases vec <;> rfl
@[simp] theorem Ctx.writeReg_hist (x : Ctx) (vec : Bool) (n : Nat) (v : Val) : (x.writeReg vec n v).hist = x.hist := by cases vec <;> rfl
@[simp] theorem Ctx.writeReg_pubAt (x : Ctx) (vec : Bool) (n : Nat) (v : Val) : (x.writeReg vec n v).pubAt = x.pubAt := by cases vec <;> rfl
@[simp] theorem Ctx.writeReg_acq (x : Ctx) (vec : Bool) (n : Nat) (v : Val) : (x.writeReg vec n v).acq = x.acq := by cases vec <;> rfl
@[simp] theorem Ctx.writeReg_loads (x : Ctx) (vec : Bool) (n : Nat) (v : Val) : (x.writeReg vec n v).loads = x.loads := by cases vec <;> rfl
@[simp] theorem Ctx.writeReg_heldOps (x : Ctx) (vec : Bool) (n : Nat) (v : Val) : (x.writeReg vec n v).heldOps = x.heldOps := by cases vec <;> rfl
@[simp] theorem Ctx.writeReg_detAtoms (x : Ctx) (vec : Bool) (n : Nat) (v : Val) : (x.writeReg vec n v).detAtoms = x.detAtoms := by cases vec <;> rfl
@[simp] theorem Ctx.writeReg_detWords (x : Ctx) (vec : Bool) (n : Nat) (v : Val) : (x.writeReg vec n v).detWords = x.detWords := by cases vec <;> rfl
@[simp] theorem Ctx.writeReg_detReads (x : Ctx) (vec : Bool) (n : Nat) (v : Val) : (x.writeReg vec n v).detReads = x.detReads := by cases vec <;> rfl
@[simp] theorem Ctx.writeReg_detFlying (x : Ctx) (vec : Bool) (n : Nat) (v : Val) : (x.writeReg vec n v).detFlying = x.detFlying := by cases vec <;> rfl
@[simp] theorem Ctx.writeReg_ops (x : Ctx) (vec : Bool) (n : Nat) (v : Val) : (x.writeReg vec n v).ops = x.ops := by cases vec <;> rfl
@[simp] theorem Ctx.writeReg_atoms (x : Ctx) (vec : Bool) (n : Nat) (v : Val) : (x.writeReg vec n v).atoms = x.atoms := by cases vec <;> rfl
@[simp] theorem Ctx.writeReg_carried (x : Ctx) (vec : Bool) (n : Nat) (v : Val) : (x.writeReg vec n v).carried = x.carried := by cases vec <;> rfl
@[simp] theorem Ctx.writeReg_arrived (x : Ctx) (vec : Bool) (n : Nat) (v : Val) : (x.writeReg vec n v).arrived = x.arrived := by cases vec <;> rfl
@[simp] theorem Ctx.writeReg_again (x : Ctx) (vec : Bool) (n : Nat) (v : Val) : (x.writeReg vec n v).again = x.again := by cases vec <;> rfl
@[simp] theorem Ctx.writeReg_barRes (x : Ctx) (vec : Bool) (n : Nat) (v : Val) : (x.writeReg vec n v).barRes = x.barRes := by cases vec <;> rfl
@[simp] theorem Ctx.writeReg_phaseOf (x : Ctx) (vec : Bool) (n : Nat) (v : Val) : (x.writeReg vec n v).phaseOf = x.phaseOf := by cases vec <;> rfl
@[simp] theorem Ctx.writeReg_phaseAt (x : Ctx) (vec : Bool) (n : Nat) (v : Val) : (x.writeReg vec n v).phaseAt = x.phaseAt := by cases vec <;> rfl
@[simp] theorem Ctx.writeReg_hdrWait (x : Ctx) (vec : Bool) (n : Nat) (v : Val) : (x.writeReg vec n v).hdrWait = x.hdrWait := by cases vec <;> rfl
@[simp] theorem Ctx.writeReg_transfer (x : Ctx) (vec : Bool) (n : Nat) (v : Val) : (x.writeReg vec n v).transfer = x.transfer := by cases vec <;> rfl
@[simp] theorem Ctx.writeReg_startVec (x : Ctx) (vec : Bool) (n : Nat) (v : Val) : (x.writeReg vec n v).startVec = x.startVec := by cases vec <;> rfl
@[simp] theorem Ctx.writeReg_record (x : Ctx) (vec : Bool) (n : Nat) (v : Val) : (x.writeReg vec n v).record = x.record := by cases vec <;> rfl
@[simp] theorem Ctx.writeReg_halted (x : Ctx) (vec : Bool) (n : Nat) (v : Val) : (x.writeReg vec n v).halted = x.halted := by cases vec <;> rfl

/-! ## Cores and contexts after an update -/

/-- A core after a write of one. -/
theorem State.core_setCore (s : State) (n m : Nat) (k : Core) : (s.setCore n k).core m = if m = n then k else s.core m :=
  tget_tset _ _ _ _ _

@[simp] theorem State.core_setCore_same (s : State) (n : Nat) (k : Core) : (s.setCore n k).core n = k := tget_tset_same _ _ _ _

@[simp] theorem State.core_setCore_ne (s : State) {m n : Nat} (k : Core) (h : m ≠ n) : (s.setCore n k).core m = s.core m :=
  tget_tset_ne _ _ _ h

@[simp] theorem State.core_updCore_same (s : State) (n : Nat) (f : Core → Core) : (s.updCore n f).core n = f (s.core n) :=
  tget_tset_same _ _ _ _

@[simp] theorem State.core_updCore_ne (s : State) {m n : Nat} (f : Core → Core) (h : m ≠ n) : (s.updCore n f).core m = s.core m :=
  tget_tset_ne _ _ _ h

/-- A context of a core after a write of one. -/
theorem Core.ctx_setCtx (k : Core) (c d : Nat) (x : Ctx) : (k.setCtx c x).ctx d = if d = c then x else k.ctx d :=
  tget_tset _ _ _ _ _

@[simp] theorem Core.ctx_setCtx_same (k : Core) (c : Nat) (x : Ctx) : (k.setCtx c x).ctx c = x := tget_tset_same _ _ _ _

@[simp] theorem Core.ctx_setCtx_ne (k : Core) {c d : Nat} (x : Ctx) (h : d ≠ c) : (k.setCtx c x).ctx d = k.ctx d :=
  tget_tset_ne _ _ _ h

/-- The core of a context written, but for that context. -/
@[simp] theorem State.core_setCtx_same (s : State) (n c : Nat) (x : Ctx) : (s.setCtx n c x).core n = (s.core n).setCtx c x :=
  tget_tset_same _ _ _ _

@[simp] theorem State.core_setCtx_ne (s : State) {m n : Nat} (c : Nat) (x : Ctx) (h : m ≠ n) : (s.setCtx n c x).core m = s.core m :=
  tget_tset_ne _ _ _ h

/-- The context written, read again. -/
@[simp] theorem State.ctx_setCtx_same (s : State) (n c : Nat) (x : Ctx) : (s.setCtx n c x).ctx n c = x := by
  simp [State.ctx]

@[simp] theorem State.ctx_updCtx_same (s : State) (n c : Nat) (f : Ctx → Ctx) : (s.updCtx n c f).ctx n c = f (s.ctx n c) :=
  s.ctx_setCtx_same n c _

/-- A context other than the one written. -/
theorem State.ctx_setCtx_ne (s : State) {n m c d : Nat} (x : Ctx) (h : m ≠ n ∨ d ≠ c) : (s.setCtx n c x).ctx m d = s.ctx m d := by
  by_cases hm : m = n
  · subst hm
    simp [State.ctx, h.resolve_left (fun k => k rfl)]
  · simp [State.ctx, hm]

@[simp] theorem State.ctx_setCore_ne (s : State) {m n : Nat} (k : Core) (c : Nat) (h : m ≠ n) : (s.setCore n k).ctx m c = s.ctx m c := by
  simp [State.ctx, h]

@[simp] theorem State.core_at (s : State) (d r u : Nat) (e : Instr) (n : Nat) : (s.at d r u e).core n = s.core n := rfl

@[simp] theorem State.ctx_at (s : State) (d r u : Nat) (e : Instr) (n c : Nat) : (s.at d r u e).ctx n c = s.ctx n c := rfl

/-- The context and its core that acts, after the agenda has grown. -/
@[simp] theorem State.at_agenda (s : State) (d r u : Nat) (e : Instr) : (s.at d r u e).agenda = s.agenda ++ [⟨s.cycle + d, r, u, e⟩] := rfl

end Sys2Proof.Machine
end

