-- ==== Sys2Proof/Laws/Home.lean ====
section
/-! SUPPORT. Laws of a home's shared operations: which bytes of a write a key lets through, and what taking a bank and raising a
counter leave. -/

namespace Sys2Proof.Machine

open Sys2Proof

/-- A number made of bits, one for each index, has them. -/
theorem testBit_bits (p : Nat → Bool) (n j : Nat) :
    ((List.range n).foldr (fun i acc => (if p i then 1 else 0) + 2 * acc) 0).testBit j = (decide (j < n) && p j) := by
  induction n generalizing p j with
  | zero => simp
  | succ n ih =>
    rw [List.range_succ_eq_map, List.foldr_cons, List.foldr_map]
    have h := ih (fun i => p (i + 1))
    cases j with
    | zero => cases p 0 <;> simp [Nat.testBit_zero, Nat.add_mul_mod_self_left]
    | succ j =>
      rw [Nat.testBit_succ, show ∀ b x : Nat, b ≤ 1 → (b + 2 * x) / 2 = x from fun b x hb => by omega]
      · rw [h]; simp
      · split <;> omega

/-- R215 rule 3: the bytes that a drained entry's key lets it write. -/
theorem State.higherBytes_getLsbD (s : State) (p : Place) (mask : BitVec 64) (k : Key) (j : Nat) :
    (s.higherBytes p mask k).getLsbD j = (mask.getLsbD j && (tget s.keys none (p.keyAt j)).all (fun o => keyLt o k)) := by
  rw [State.higherBytes, BitVec.getLsbD_ofNat, testBit_bits]
  by_cases hj : j < 64
  · cases tget s.keys none (p.keyAt j) <;> simp [hj]
  · simp [hj, BitVec.getLsbD_of_ge mask j (by omega)]

/-- R215 rule 4: the bytes that the key of an atomic, a host write or an engine write lets it write. -/
theorem State.openBytes_getLsbD (s : State) (p : Place) (mask : BitVec 64) (k : Key) (j : Nat) :
    (s.openBytes p mask k).getLsbD j = (mask.getLsbD j && (tget s.keys none (p.keyAt j)).all (fun o => !keyLt k o)) := by
  rw [State.openBytes, BitVec.getLsbD_ofNat, testBit_bits]
  by_cases hj : j < 64
  · cases tget s.keys none (p.keyAt j) <;> simp [hj]
  · simp [hj, BitVec.getLsbD_of_ge mask j (by omega)]

/-- Bytes of one place have numbers of their own. -/
theorem Place.keyAt_inj (p : Place) {i j : Nat} (h : p.keyAt i = p.keyAt j) : i = j := by
  cases p <;> simp only [Place.keyAt] at h <;> omega

/-- The key of a write stands on each byte of its mask, and on the others what stood. -/
theorem State.setKeys_keyAt (s : State) (p : Place) (mask : BitVec 64) (k : Key) (j : Nat) :
    tget (s.setKeys p mask k).keys none (p.keyAt j) = if mask.getLsbD j then some k else tget s.keys none (p.keyAt j) := by
  have h (l : List Nat) (t : Tbl (Option Key)) :
      tget (l.foldl (fun t i => if mask.getLsbD i then tset t none (p.keyAt i) (some k) else t) t) none (p.keyAt j)
        = if j ∈ l ∧ mask.getLsbD j then some k else tget t none (p.keyAt j) := by
    induction l generalizing t with
    | nil => simp
    | cons i l ih =>
      rw [List.foldl_cons, ih]
      by_cases hi : i = j
      · subst hi; by_cases hm : mask.getLsbD i <;> simp [hm]
      · have hk : p.keyAt j ≠ p.keyAt i := fun e => hi (p.keyAt_inj e).symm
        have hj : j ≠ i := fun e => hi e.symm
        by_cases hm : mask.getLsbD i <;> simp [hm, hj, tget_tset_ne _ _ _ hk]
  have hr := h (List.range 64) s.keys
  by_cases hj : j < 64
  · simpa [State.setKeys, hj] using hr
  · have hm : mask.getLsbD j = false := BitVec.getLsbD_of_ge mask j (by omega)
    simpa [State.setKeys, hm] using hr

/-- R213: an operation that takes its bank changes its bay alone. -/
theorem State.useBank_bays (s : State) (bay : Nat) (x : Xl) : s.useBank bay x = { s with bays := (s.useBank bay x).bays } := by
  simp only [State.useBank, State.takeBank]; split <;> rfl

@[simp] theorem State.useBank_byteIn (s : State) (bay : Nat) (x : Xl) (m : Space) (a : Nat) : (s.useBank bay x).byteIn m a = s.byteIn m a := by
  rw [State.useBank_bays]; cases m <;> rfl

@[simp] theorem State.useBank_ctx (s : State) (bay : Nat) (x : Xl) (n c : Nat) : (s.useBank bay x).ctx n c = s.ctx n c := by
  rw [State.useBank_bays]; rfl

@[simp] theorem State.useBank_keys (s : State) (bay : Nat) (x : Xl) : (s.useBank bay x).keys = s.keys := by
  rw [State.useBank_bays]

@[simp] theorem State.useBank_seqOf (s : State) (bay : Nat) (x : Xl) (d : Nat) : (s.useBank bay x).seqOf d = s.seqOf d := by
  rw [State.useBank_bays]; rfl

/-- R259: a counter raised is no lower than it was, and above what came from another die. -/
theorem State.raiseSeq_seqOf (s : State) (d n v e : Nat) :
    (s.raiseSeq d n v).seqOf e = if e = d ∧ d ≠ n then max (s.seqOf d) (v + 1) else s.seqOf e := by
  unfold State.raiseSeq
  by_cases h : d = n
  · simp [h]
  · by_cases he : e = d
    · subst he; simp [h, State.seqOf]
    · simp [h, he, State.seqOf, tget_tset_ne]

theorem State.raiseSeq_seq (s : State) (d n v : Nat) : s.raiseSeq d n v = { s with seq := (s.raiseSeq d n v).seq } := by
  unfold State.raiseSeq; split <;> rfl

@[simp] theorem State.raiseSeq_byteIn (s : State) (d n v : Nat) (m : Space) (a : Nat) : (s.raiseSeq d n v).byteIn m a = s.byteIn m a := by
  rw [State.raiseSeq_seq]; cases m <;> rfl

@[simp] theorem State.raiseSeq_ctx (s : State) (d n v i c : Nat) : (s.raiseSeq d n v).ctx i c = s.ctx i c := by
  rw [State.raiseSeq_seq]; rfl

@[simp] theorem State.raiseSeq_keys (s : State) (d n v : Nat) : (s.raiseSeq d n v).keys = s.keys := by
  rw [State.raiseSeq_seq]

end Sys2Proof.Machine
end

