-- ==== Sys2Proof/Laws/Memory.lean ====
section
/-! SUPPORT. The canonical form of the memories: every operation over them keeps it, and the machine right after reset has it. -/

namespace Sys2Proof.Machine

open Sys2Proof

/-- A segment's bytes moved keep the canonical form. -/
theorem wf_tmove (t : Tbl Byte) (from_ to_ n : Nat) (w : Memory.wf t = true) : Memory.wf (tmove t 0 from_ to_ n) = true :=
  twf_tsetAll _ _ _ (twf_tfilter _ _ _ w)

/-- A run of bytes stored in a scratchpad keeps its form. -/
@[simp] theorem Core.spPut_wf (k : Core) (a n x p : Nat) (w : Memory.wf k.sp = true) : Memory.wf (k.spPut a n x p).sp = true :=
  wf_putBytes _ _ _ _ w

/-- A line stored in a scratchpad keeps its form. -/
@[simp] theorem Core.spPutLine_wf (k : Core) (a : Nat) (d : Line) (m : BitVec 64) (p : BitVec 8) (w : Memory.wf k.sp = true) :
    Memory.wf (k.spPutLine a d m p).sp = true :=
  wf_putLine _ _ _ _ w

/-- The check of a physical address touches no memory. -/
@[simp] theorem State.checkPa_dram (s : State) (pa : Nat) : (s.checkPa pa).dram = s.dram := by unfold State.checkPa; split <;> rfl
@[simp] theorem State.checkPa_hall (s : State) (pa : Nat) : (s.checkPa pa).hall = s.hall := by unfold State.checkPa; split <;> rfl
@[simp] theorem State.checkPa_host (s : State) (pa : Nat) : (s.checkPa pa).host = s.host := by unfold State.checkPa; split <;> rfl
@[simp] theorem State.checkPa_cores (s : State) (pa : Nat) : (s.checkPa pa).cores = s.cores := by unfold State.checkPa; split <;> rfl

/-- Noting what a block's read met touches no memory. -/
theorem State.noteBlock_keeps (s : State) (pa : Nat) (enc : Bool) :
    (s.noteBlock pa enc).dram = s.dram ∧ (s.noteBlock pa enc).hall = s.hall ∧ (s.noteBlock pa enc).host = s.host
      ∧ (s.noteBlock pa enc).cores = s.cores := by
  unfold State.noteBlock
  cases s.mismatches pa <;> simp only <;> (repeat' split) <;> exact ⟨rfl, rfl, rfl, rfl⟩

/-- A bay made to fit its storage touches no memory. -/
theorem State.fitBay_memory (s : State) (bay : Nat) :
    (s.fitBay bay).dram = s.dram ∧ (s.fitBay bay).hall = s.hall ∧ (s.fitBay bay).host = s.host ∧ (s.fitBay bay).cores = s.cores := by
  unfold State.fitBay
  simp only
  split <;> exact ⟨rfl, rfl, rfl, rfl⟩

/-- A line of DRAM read through a bay touches no memory. -/
theorem State.readDram_keeps (s : State) (bay pa : Nat) (enc : Bool) :
    (s.readDram bay pa enc).2.2.dram = s.dram ∧ (s.readDram bay pa enc).2.2.hall = s.hall
      ∧ (s.readDram bay pa enc).2.2.host = s.host ∧ (s.readDram bay pa enc).2.2.cores = s.cores := by
  have h := State.noteBlock_keeps (s.checkPa pa) pa enc
  unfold State.readDram
  simp only
  split
  · simp
  · split
    · simp
    · simp only [State.fitBay_memory]
      split
      · simp
      · simpa using h

/-- A block stored keeps the form of DRAM, and touches no other memory. -/
theorem State.storeBlock_keeps (s : State) (pa : Nat) (enc : Bool) (d : Line) (m : BitVec 64) (p : BitVec 8) :
    (Memory.wf s.dram = true → Memory.wf (s.storeBlock pa enc d m p).dram = true) ∧ (s.storeBlock pa enc d m p).hall = s.hall
      ∧ (s.storeBlock pa enc d m p).host = s.host ∧ (s.storeBlock pa enc d m p).cores = s.cores :=
  ⟨fun w => wf_putLine _ _ _ _ w, rfl, rfl, rfl⟩

/-- A line written at any place keeps the form of every memory. -/
theorem State.writePlace_wf (s : State) (bay : Nat) (p : Place) (d : Line) (m : BitVec 64) (po : BitVec 8) (w : s.memoryWf) :
    (s.writePlace bay p d m po).memoryWf := by
  obtain ⟨wd, wh, wo, wc⟩ := w
  cases p with
  | hall ia => exact ⟨wd, wf_putLine _ _ _ _ wh, wo, wc⟩
  | host a => exact ⟨wd, wh, wf_putLine _ _ _ _ wo, wc⟩
  | dram pa enc =>
    have hc (t : State) (h : t.dram = s.dram ∧ t.hall = s.hall ∧ t.host = s.host ∧ t.cores = s.cores) : t.memoryWf := by
      obtain ⟨h1, h2, h3, h4⟩ := h
      refine ⟨h1 ▸ wd, h2 ▸ wh, h3 ▸ wo, fun n => ?_⟩
      unfold State.core
      rw [h4]
      exact wc n
    have hs (t : State) (e : Bool) (d : Line) (m : BitVec 64) (po : BitVec 8) (h : t.memoryWf) : (t.storeBlock pa e d m po).memoryWf :=
      ⟨wf_putLine _ _ _ _ h.1, h.2.1, h.2.2.1, h.2.2.2⟩
    have h0 : (s.checkPa pa).memoryWf := hc _ ⟨by simp, by simp, by simp, by simp⟩
    have hb (t : State) (b : Tbl Bay) (h : t.memoryWf) : ({ t with bays := b } : State).memoryWf := h
    unfold State.writePlace
    dsimp only
    split
    · exact h0
    · apply hb
      split
      · exact hs _ _ _ _ _ h0
      · apply hs
        apply hc
        have := State.readDram_keeps (s.checkPa pa) bay pa enc
        simpa using this

/-- A core replaced by one whose scratchpad has the form keeps the form of every memory. -/
theorem State.setCore_wf (s : State) (n : Nat) (k : Core) (w : s.memoryWf) (hk : Memory.wf k.sp = true) : (s.setCore n k).memoryWf := by
  refine ⟨w.1, w.2.1, w.2.2.1, fun j => ?_⟩
  unfold State.core State.setCore
  simp only [tget_tset]
  split
  · exact hk
  · exact w.2.2.2 j

/-- What a byte of a memory reads as after n bytes were stored in DRAM or the host's memory. -/
theorem tget_putBytes (t : Tbl Byte) (a n x b : Nat) :
    tget (putBytes t a n x) 0 b = if a ≤ b ∧ b < a + n then byteOf x (b - a) else tget t 0 b := by
  by_cases h : a ≤ b ∧ b < a + n
  · rw [if_pos h]
    unfold putBytes
    obtain ⟨h1, h2⟩ := h
    induction n generalizing t with
    | zero => omega
    | succ n ih =>
      rw [List.range_succ, List.foldl_append]
      simp only [List.foldl_cons, List.foldl_nil, tget_tset]
      split
      · rename_i e; rw [e, Nat.add_sub_cancel_left]
      · exact ih t (by omega)
  · rw [if_neg h]
    exact tget_putBytes_ne t a n x b (by omega)

/-- The memories of the machine right after reset have their canonical form. -/
theorem State.reset_memoryWf : State.reset.memoryWf := ⟨rfl, rfl, rfl, fun _ => rfl⟩

end Sys2Proof.Machine
end

