-- ==== Sys2Proof/Laws/Result.lean ====
section
/-! SUPPORT. Laws of the results that slots put on their way: everything that pushing one does. -/

namespace Sys2Proof.Machine

open Sys2Proof

/-- A byte of memory after a context is written. -/
@[simp] theorem State.byteIn_setCtx (s : State) (n c : Nat) (x : Ctx) (m : Space) (a : Nat) :
    (s.setCtx n c x).byteIn m a = s.byteIn m a := by
  cases m with
  | pad j =>
    by_cases h : j = n
    · subst h; simp [State.byteIn, Core.setCtx]
    · simp [State.byteIn, h]
  | _ => rfl

@[simp] theorem State.byteIn_at (s : State) (d r u : Nat) (e : Instr) (m : Space) (a : Nat) :
    (s.at d r u e).byteIn m a = s.byteIn m a := by cases m <;> rfl

/-- A core with a context written, its contexts put back. -/
theorem Core.setCtx_ctxs (k : Core) (c : Nat) (x : Ctx) : { k.setCtx c x with ctxs := k.ctxs } = k := rfl

/-- A context written, and the agenda grown, is all of the acting context's doing. -/
theorem onlyActing_setCtx (s : State) (x : Ctx) : OnlyActing s (s.setCtx s.issue.core s.issue.ctx x) where
  module := rfl
  cores n := by
    by_cases h : n = s.issue.core
    · subst h; simp [Core.setCtx]
    · simp [h]
  contexts n c h := State.ctx_setCtx_ne s x h
  memory m a := by simp

theorem OnlyActing.at {s t : State} (h : OnlyActing s t) (d r u : Nat) (e : Instr) : OnlyActing s (t.at d r u e) where
  module := h.module
  cores := h.cores
  contexts := h.contexts
  memory m a := by simpa using h.memory m a

/-- R46, R53: everything that a push does. -/
theorem State.push_yields (s : State) (lat : Nat) (port : Bool) (v : Val) (dst : Option Nat) (pw : PredW) :
    Yields s (s.push lat port v dst pw) lat port v dst pw where
  rest := (onlyActing_setCtx s _).at _ _ _ _
  kept := by simp [State.me, State.push, Ctx.reserve]
  queue := by simp [State.me, State.push, Ctx.reserve, pushEntry]
  named n h := by
    subst h
    simp [State.me, State.push, Ctx.reserve, Ctx.settled]
  comes := by simp [State.push, State.me, Nat.add_assoc]

/-- R56, R128: everything that an A-class result does. -/
theorem State.aPush_yields (s : State) (f : AvtF) (lat : Nat) (port : Bool) (v : Word) (poison : Bool) (pw : PredW) :
    AYields s (s.aPush f lat port v poison pw) f lat port v poison pw := by
  unfold AYields State.aPush
  split
  · exact s.push_yields _ _ _ _ _
  · split
    · rename_i n h
      simp only [h]
      exact s.push_yields _ _ _ _ _
    · rename_i h
      simpa [h, Val.zero, Val.word, Val.sp] using s.push_yields lat port (.scalar 0 (s.govern f).poison) none .none

end Sys2Proof.Machine
end

