-- ==== Sys2Proof/Tests/Slice0.lean ====
section
/-! SUPPORT. Tests, each with its source in the spec; ill-formed terms, one for each static check, which the check refuses; and, for every statement
with hypotheses, a state and operands that meet them. -/

namespace Sys2Proof.Tests

open Sys2Proof Sys2Proof.Machine

/- The theorems below are checked one after another. -/
set_option Elab.async false

/-! ## States to test on -/

/-- Core 0's context 0 acting in slot 1 at cycle 1,000, with nothing due, changed as given. -/
def actor (g : Ctx → Ctx) : State :=
  let s := State.reset.placeBundle 0
  let x := g (s.ctx 0 0)
  { s with cycle := 1000, agenda := [], cores := tset s.cores .reset 0 { s.core 0 with ctxs := ⟨[(0, x)]⟩ }
           issue := { issueFrame 0 0 x 7 with slot := 1 } }

/-- It, changed as given. -/
def actorOn (g : Ctx → Ctx) (h : Core → Core) : State := (actor g).updCore 0 h

/-- Named scalar registers set, from s1 on. -/
def regs (l : List Nat) (x : Ctx) : Ctx := { x with s := ⟨(l.zipIdx 1).map (fun p => (p.2, .scalar (BitVec.ofNat 64 p.1) false))⟩ }

/-- What a next state is tested for. -/
def nextIs (o : Host.Outcome State Fault Refusal) (p : State → Bool) : Bool :=
  match o with
  | .next t => p t
  | _ => false

/-- The value of the last result that an instruction puts on its way, if it is a scalar: its word and its cycle. -/
def yielded (o : Host.Outcome State Fault Refusal) : Option (Nat × Nat) :=
  match o with
  | .next t => match t.agenda.getLast? with
    | some ⟨c, _, _, .resultProduced p⟩ => some (p.val.word.toNat, c - 1000)
    | _ => none
  | _ => none

/-- A lane of the last result. -/
def yieldedLane (w i : Nat) (o : Host.Outcome State Fault Refusal) : Option Nat :=
  match o with
  | .next t => match t.agenda.getLast? with
    | some ⟨_, _, _, .resultProduced p⟩ => some (laneOf w p.val.bits i)
    | _ => none
  | _ => none

/-- The fields of an A-, V- or T-class slot with a type, operands and EXT, and no mods. -/
def avtOf (ty : Ty) (a b c : BitVec 7) (ext : BitVec 7) : AvtF := ⟨ext, 0, 0, ty.toBits, 0, 0, 0, c, b, a, 63⟩

/-! ## Decoding: words written out in the spec -/

/-- R116: callr dot4s, RETR, CKPT. -/
theorem test_decode_control : decodeSlot .c 0x00001400000008 = .ok (.callr ⟨5, 0, 0, 0, 0, 0⟩) ∧ decodeSlot .c 9 = .ok .retr
    ∧ decodeSlot .c 0x00000400000008 = .ok (.callr ⟨1, 0, 0, 0, 0, 0⟩) := ⟨rfl, rfl, rfl⟩

/-- R129 (add) and the R84 bundle's slot 1 (li). -/
theorem test_decode_scalar : decodeSlot .a 0x0088803E001401 = .ok (.add ⟨0, 0, 1, 1, 0, 1, 0, 0, 124, 0, 5⟩)
    ∧ decodeSlot .a 0x00000000401C30 = .ok (.li ⟨0, 0, 0, 0, 0, 0, 0, 0, 0, 64, 7⟩) := ⟨rfl, rfl⟩

/-- The R84 bundle's slot 3 (ld.b8), R228 (st.b4) and R236 (atom.fadd). -/
theorem test_decode_memory : decodeSlot .m 0x087F8024461001 = .ok (.ld ⟨8, 3, 63, 0, 18, 17, 4, 1, 0⟩)
    ∧ decodeSlot .m 0x044002284E1008 = .ok (.st ⟨4, 2, 0, 2, 20, 19, 4, 1, 0⟩)
    ∧ decodeSlot .m 0x015F8070563820 = .ok (.atomFadd ⟨1, 2, 63, 0, 56, 21, 4, 3, 2⟩) := ⟨rfl, rfl, rfl⟩

/-- Chapter 18: subs and lpub.pkg. -/
theorem test_decode_subscribe_publish : decodeSlot .m 0x001FC138061028 = .ok (.subs ⟨0, 0, 63, 65, 28, 1, 4, 1, 0⟩)
    ∧ decodeSlot .m 0x00600070624019 = .ok (.lpub ⟨0, 3, 0, 0, 56, 24, 4, 4, 0⟩) := ⟨rfl, rfl⟩

/-- The R84 bundle's slots 4 and 5, and R148's vcvt. -/
theorem test_decode_vector : decodeSlot .v 0x0049058A000804 = .ok (.vfma ⟨0, 0, 0, 9, 0, 2, 0, 22, 20, 0, 2⟩)
    ∧ decodeSlot .v 0x0148200182FC01 = .ok (.vadd ⟨0, 1, 0, 9, 0, 0, 1, 0, 3, 2, 63⟩)
    ∧ decodeSlot .v 0x1258004A800C20 = .ok (.vcvt ⟨9, 0, 0, 0xB, 0, 0, 0, 1, 21, 0, 3⟩) := ⟨rfl, rfl, rfl⟩

/-- R167 (tmac) and chapter 20 (tgang). -/
theorem test_decode_tile : decodeSlot .t 0x0258000A940003 = .ok (.tmac ⟨1, 0, 0, 0xB, 0, 0, 0, 0, 21, 20, 0⟩)
    ∧ decodeSlot .t 0x00580C5C300008 = .ok (.tgang ⟨0, 0, 0, 0xB, 0, 0, 0, 49, 56, 48, 0⟩) := ⟨rfl, rfl⟩

/-- R245 (cpy), R337 (almc), R352 (inval), R361 (fring, migr). -/
theorem test_decode_engine : decodeSlot .e 0x0000058A942401 = .ok (.cpy ⟨0, 0, 22, 21, 20, 9⟩)
    ∧ decodeSlot .e 0x0001000A940038 = .ok (.almcRec ⟨1, 0, 0, 21, 20, 0⟩) ∧ decodeSlot .e 0x00000000150030 = .ok (.invalAll ⟨0, 0, 0, 0, 21, 0⟩)
    ∧ decodeSlot .e 0x00020000001832 = .ok (.fringHead ⟨2, 0, 0, 0, 0, 6⟩) ∧ decodeSlot .e 0x00000000140032 = .ok (.fringAck ⟨0, 0, 0, 0, 20, 0⟩)
    ∧ decodeSlot .e 0x0000000A942431 = .ok (.migr ⟨0, 0, 0, 21, 20, 9⟩) := ⟨rfl, rfl, rfl, rfl, rfl, rfl⟩

/-- R305 (xmit, imux) and chapter 19 (vitq.wr). -/
theorem test_decode_transfer_vitrine : decodeSlot .e 0x00030000000020 = .ok (.xmit ⟨3, 0, 0, 0, 0, 0⟩)
    ∧ decodeSlot .e 0x0019000012FC21 = .ok (.imux ⟨0x19, 0, 0, 0, 18, 63⟩) ∧ decodeSlot .e 0x0002001CB80040 = .ok (.vitqWr ⟨2, 0, 0, 57, 56, 0⟩) := ⟨rfl, rfl, rfl⟩

/-- R72: a NOP slot. -/
theorem test_decode_nop : decodeSlot .t 0 = .ok .nop ∧ decodeSlot .t 0x400 = .error (.bad .resv) := ⟨rfl, rfl⟩

/-! ## Ill-formed terms, which the static checks refuse -/

/-- R69: a scope of 7. -/
theorem smoke_scope : (Instr.ld ⟨0, 3, 63, 0, 56, 17, 4, 7, 0⟩).check none = some .scope := by decide
/-- R79: a reserved bit. -/
theorem smoke_resv : (Instr.ld ⟨0, 3, 63, 0, 56, 17, 4, 1, 1⟩).check none = some .resv := by decide
/-- R79: a field that the instruction does not use. -/
theorem smoke_unused : (Instr.mov (avtOf .i64 16 17 0 0)).check none = some .resv := by decide
/-- R83, R84: a vector slot that reads a long immediate and owns none; and one whose long immediate has more bits than its type. -/
theorem smoke_opnd : (Instr.vadd (avtOf .f32 64 0 0 0)).check none = some .opnd ∧ (Instr.vadd (avtOf .f32 64 0 0 0)).check (some 0x100000000) = some .opnd := by decide
/-- R169: an odd accumulator in an FP64 form. -/
theorem smoke_accpair : (Instr.tzero { avtOf .f64 0 0 0 1 with dst := 0 }).check none = some .accpair := by decide
/-- R62: a system register number that is not assigned, and one that cannot be written. -/
theorem smoke_sysnum : (Instr.mfs (avtOf .i64 0 0 0 0x3F)).check none = some .sysnum := by decide
theorem smoke_sysro : (Instr.mts { avtOf .i64 16 0 0 0x00 with dst := 0 }).check none = some .sysro := by decide
/-- A well-formed term of each of these instructions. -/
theorem smoke_wellFormed : (Instr.ld ⟨0, 3, 63, 0, 56, 17, 4, 1, 0⟩).wf none = true ∧ (Instr.mov (avtOf .i64 16 0 0 0)).wf none = true
    ∧ (Instr.vadd (avtOf .f32 64 0 0 0)).wf (some 0xFFFFFFFF) = true ∧ (Instr.tzero { avtOf .f64 0 0 0 2 with dst := 0 }).wf none = true
    ∧ (Instr.mfs (avtOf .i64 0 0 0 0x1B)).wf none = true ∧ (Instr.mts { avtOf .i64 16 0 0 0x15 with dst := 0 }).wf none = true := by decide

/-! ## Single steps -/

/-- R59: the empty bundle only moves the program counter. -/
theorem test_step_nop : nextIs (step (State.reset.withFetchWord 0 0)) (fun t => (t.ctx 0 0).pc == 0x100040) = true := by decide +kernel
/-- R116: a bundle whose slot 0 holds CKPT outside a routine moves on. -/
theorem test_step_ckpt : nextIs (step (State.reset.placeBundle (BitVec.ofNat 512 (0xA * 2 ^ 64)))) (fun t => (t.ctx 0 0).pc == 0x100040 && !(t.ctx 0 0).ckpt.valid) = true := by
  decide +kernel

/-! Expected values: chapters 5 (R94 to R104, the tables), 6 (R130 to R136) and 7 (R142 to R156), or worked out from them by hand. A named operand comes through a port and
adds 3 cycles (R87). -/

theorem test_add_wraps : yielded (exec (.add (avtOf .i8 17 57 0 0)) (actor (regs [127]))) = some (0xFFFFFFFFFFFFFF80, 4) := by decide +kernel
theorem test_add_saturates : yielded (exec (.add { avtOf .i8 17 57 0 0 with sat := 1 }) (actor (regs [127]))) = some (127, 4) := by decide +kernel
theorem test_sub_unsigned : yielded (exec (.sub (avtOf .u16 56 57 0 0)) (actor id)) = some (0xFFFF, 1) := by decide +kernel
theorem test_mul_low : yielded (exec (.mul (avtOf .i32 17 17 0 0)) (actor (regs [65536]))) = some (0, 6) := by decide +kernel
theorem test_mulh_high : yielded (exec (.mulh (avtOf .i32 17 18 0 0)) (actor (regs [65536, 0xFFFFFFFF]))) = some (0xFFFFFFFFFFFFFFFF, 6) := by decide +kernel
theorem test_mulhu_high : yielded (exec (.mulhu (avtOf .u32 17 17 0 0)) (actor (regs [65536]))) = some (1, 6) := by decide +kernel
theorem test_div_toward_zero : yielded (exec (.div (avtOf .i32 17 125 0 0)) (actor (regs [7]))) = some (0xFFFFFFFFFFFFFFFE, 22) := by decide +kernel
theorem test_div_by_zero : yielded (exec (.div (avtOf .i16 127 56 0 0)) (actor id)) = some (0xFFFFFFFFFFFFFFFF, 18) := by decide +kernel
theorem test_divu_by_zero : yielded (exec (.divu (avtOf .u16 57 56 0 0)) (actor id)) = some (0xFFFF, 18) := by decide +kernel
theorem test_rem_sign : yielded (exec (.rem (avtOf .i32 121 67 0 0)) (actor id)) = some (0xFFFFFFFFFFFFFFFF, 19) := by decide +kernel
theorem test_shl_modulo : yielded (exec (.shl (avtOf .i8 67 74 0 0)) (actor id)) = some (12, 1) := by decide +kernel
theorem test_sar_sign : yielded (exec (.sar (avtOf .i16 120 57 0 0)) (actor id)) = some (0xFFFFFFFFFFFFFFFC, 1) := by decide +kernel
theorem test_rotl_byte : yielded (exec (.rotl (avtOf .u8 17 57 0 0)) (actor (regs [0x81]))) = some (3, 4) := by decide +kernel
theorem test_clz_zero : yielded (exec (.clz (avtOf .u32 56 0 0 0)) (actor id)) = some (32, 1) := by decide +kernel
theorem test_adda_scales : yielded (exec (.adda (avtOf .i64 67 65 0 3)) (actor id)) = some (11, 1) := by decide +kernel
theorem test_ext_sign : yielded (exec (.ext (avtOf .i64 17 68 0 4)) (actor (regs [0xF8]))) = some (0xFFFFFFFFFFFFFFFF, 4) := by decide +kernel
theorem test_cmp_signed : yielded (exec (.cmp (avtOf .i32 127 57 0 2)) (actor id)) = some (1, 1) := by decide +kernel
theorem test_cmp_unsigned : yielded (exec (.cmp (avtOf .u32 127 57 0 2)) (actor id)) = some (0, 1) := by decide +kernel
theorem test_mfs_priv : yielded (exec (.mfs (avtOf .i64 0 0 0 0x16)) (actor id)) = some (2, 1) := by decide +kernel
/-- R94: 1.0 is 0x3C00 and −2.75 is 0xC180 in FP16; their sum −1.75 is 0xBF00. -/
theorem test_sfadd_half : yielded (exec (.sfadd (avtOf .f16 17 18 0 0)) (actor (regs [0x3C00, 0xC180]))) = some (0xBF00, 7) := by decide +kernel
/-- R105: ∞ · 0 is the canonical NaN, 0x7E00 (R96). -/
theorem test_sfmul_nan : yielded (exec (.sfmul (avtOf .f16 17 18 0 0)) (actor (regs [0x7C00, 0]))) = some (0x7E00, 7) := by decide +kernel
/-- R37: −2.75 in E5M2 is 0xC2, which reads −3.0: FP32 0xC0400000. -/
theorem test_sfcvt_e5m2 : yielded (exec (.sfcvt (avtOf .f32 17 0 0 (Ty.toBits .e5m2).toNat)) (actor (regs [0xC2]))) = some (0xC0400000, 7) := by decide +kernel

/-- A vector register v1 with lanes of a width from lane 0 on. -/
def vreg (w : Nat) (l : List Nat) (x : Ctx) : Ctx :=
  { x with v := ⟨[(1, ⟨true, BitVec.ofNat 2048 ((l.zipIdx).map (fun p => p.1 * 2 ^ (w * p.2))).sum, 0⟩)]⟩ }

/-- R151: the examples of the table, and R149's. -/
theorem test_vrcps_example : yieldedLane 32 0 (exec (.vrcps (avtOf .f32 17 0 0 0)) (actor (vreg 32 [0x40400000]))) = some 0x3EAAB000 := by decide +kernel
theorem test_vrsqs_example : yieldedLane 32 0 (exec (.vrsqs (avtOf .f32 17 0 0 0)) (actor (vreg 32 [0x40000000]))) = some 0x3F350000 := by decide +kernel
theorem test_vexp2f_example : yieldedLane 32 0 (exec (.vexp2f (avtOf .f32 17 0 0 0)) (actor (vreg 32 [0x3F000000]))) = some 0x3FB50000 := by decide +kernel
theorem test_vlog2s_example : yieldedLane 32 0 (exec (.vlog2s (avtOf .f32 17 0 0 0)) (actor (vreg 32 [0x40400000]))) = some 0x3F15C000 := by decide +kernel
theorem test_vrnd_down : yieldedLane 32 0 (exec (.vrnd { avtOf .f32 17 0 0 0 with ernd := 1, rnd := 2 }) (actor (vreg 32 [0xBF000000]))) = some 0xBF800000 := by decide +kernel
theorem test_vrnd_up : yieldedLane 32 0 (exec (.vrnd { avtOf .f32 17 0 0 0 with ernd := 1, rnd := 3 }) (actor (vreg 32 [0xBF000000]))) = some 0x80000000 := by decide +kernel
theorem test_vfrex_subnormal : yieldedLane 32 0 (exec (.vfrexExp (avtOf .f32 17 0 0 1)) (actor (vreg 32 [1]))) = some 0xC3150000 := by decide +kernel
/-- R94: the square of −2.75 is 7.5625. -/
theorem test_vmul_lane1 : yieldedLane 32 1 (exec (.vmul (avtOf .f32 17 17 0 0)) (actor (vreg 32 [0, 0xC0300000]))) = some 0x40F20000 := by decide +kernel
theorem test_viadd_lane : yieldedLane 8 3 (exec (.viadd (avtOf .u8 17 17 0 0)) (actor (vreg 8 [1, 2, 3, 0x81]))) = some 2 := by decide +kernel
theorem test_vextr_lane2 : yielded (exec (.vextr (avtOf .f32 17 58 0 0)) (actor (vreg 32 [1, 2, 0x80000003]))) = some (0x80000003, 7) := by decide +kernel
theorem test_vred_add : yielded (exec (.vred (avtOf .i32 17 0 0 0)) (actor (vreg 32 [5, 6, 7]))) = some (18, 13) := by decide +kernel
theorem test_vshuf_reverse : yieldedLane 32 63 (exec (.vshuf (avtOf .f32 17 0 0 5)) (actor (vreg 32 [9]))) = some 9 := by decide +kernel

/-- R67: a branch of one bundle back. -/
theorem test_br_target : nextIs (exec (.br ⟨BitVec.ofInt 22 (-1), 0, 0, 0, 0, 0⟩) (actor id)) (fun t => t.me.xfer == .goto 0xFFFC0 0) = true := by decide +kernel
/-- R127: TRAP takes its subcode, class 0xF, and resumes past its bundle. -/
theorem test_trap_entry : nextIs (exec (.trap ⟨7, 0, 0, 0, 0, 0⟩) (actor (fun x => { x with sr := { x.sr with trapVec := 0x200000, priv := 0 } })))
    (fun t => t.me.pc == 0x200000 && t.me.sr.trapCode == 0x7000F && t.me.sr.trapPc == 0x100040 && t.me.sr.priv == 1 && t.me.readyAt == 1004) = true := by decide +kernel
/-- R127: ERET goes back to TRAPPC at the level of the shadow. -/
theorem test_eret_resumes : nextIs (exec .eret (actor (fun x => { x with shadow := { Shadow.empty with occupied := true, q := freshQueue }, sr := { x.sr with trapPc := 0x300040, priv := 1 } })))
    (fun t => t.me.pc == 0x300040 && t.me.sr.priv == 0 && !t.me.shadow.occupied) = true := by decide +kernel
/-- R229: a byte stored at the window's last address. -/
theorem test_st_last_byte : nextIs (exec (.st ⟨0, 0, 0, 67, 56, 17, 4, 1, 0⟩) (actor (regs [0xFFFFF]))) (fun t => t.byteIn (.pad 0) 0xFFFFF == 3) = true := by decide +kernel
/-- R229: LD zero-extends. -/
theorem test_ld_byte : yielded (exec (.ld ⟨0, 0, 63, 0, 56, 17, 4, 1, 0⟩) (actorOn (regs [64]) (fun k => { k with sp := ⟨[(64, 0x80)]⟩ }))) = some (0x80, 9) := by decide +kernel
/-- R248: SEMS saturates at 65,535. -/
theorem test_sems_saturates : nextIs (exec (.sems ⟨0, 0, 0, 66, 65, 0⟩) (actorOn id (fun k => { k with sems := ⟨[(1, 65534)]⟩ })))
    (fun t => (t.core 0).sem 1 == 65535 && (t.core 0).semSat.getLsbD 1) = true := by decide +kernel
/-- R247: OWN.eng of tiles 2 to 4. -/
theorem test_own_tiles : nextIs (exec (.ownEng ⟨1, 0, 0, 67, 66, 0⟩) (actor id)) (fun t => (t.core 0).engOwned 4 && !(t.core 0).engOwned 5 && !(t.core 0).engOwned 1) = true := by decide +kernel

/-! ## Witnesses: for each statement with hypotheses, a state and operands that meet them, clause by clause -/

/-- A computation that succeeds, with what is asked of its value and its state. -/
def okAnd {ε α β : Type} (p : Except ε α × β) (g : α → β → Bool) : Bool :=
  match p with
  | (.ok a, u) => g a u
  | _ => false

theorem okAnd_holds {ε α β : Type} {p : Except ε α × β} {g : α → β → Bool} (h : okAnd p g = true) : ∃ a u, p = (.ok a, u) ∧ g a u = true := by
  obtain ⟨r, u⟩ := p
  cases r with
  | error e => exact absurd h Bool.false_ne_true
  | ok a => exact ⟨a, u, rfl, h⟩

/-- A computation that fails, with what is asked of its error and its state. -/
def errAnd {ε α β : Type} (p : Except ε α × β) (g : ε → β → Bool) : Bool :=
  match p with
  | (.error e, u) => g e u
  | _ => false

theorem errAnd_holds {ε α β : Type} {p : Except ε α × β} {g : ε → β → Bool} (h : errAnd p g = true) : ∃ e u, p = (.error e, u) ∧ g e u = true := by
  obtain ⟨r, u⟩ := p
  cases r with
  | error e => exact ⟨e, u, rfl, h⟩
  | ok a => exact absurd h Bool.false_ne_true

/-- AddSubMulResult, MulHighMinMaxResult, BitCounts, VectorIntegerLanes: an integer type, without SAT and with it. -/
theorem witness_integer_type : tyI (avtOf .u8 17 18 0 0).type = true ∧ (avtOf .i64 17 18 0 0).sat = 0 ∧ ({ avtOf .i8 17 18 0 0 with sat := 1 } : AvtF).sat = 1 := by decide

/-- SignedDivision, UnsignedDivision: a signed and an unsigned type; a zero divisor, the overflow, and a plain division. -/
theorem witness_division : tyIs (avtOf .i8 17 18 0 0).type = true ∧ tyIu (avtOf .u64 17 18 0 0).type = true
    ∧ (let s := actor (regs [0x80, 0xFF, 0])
      let f := avtOf .i8 17 18 0 0
      s.intOpnd f f.a = tyMin .i8 ∧ s.intOpnd f f.b = -1 ∧ s.intOpnd (avtOf .i8 17 19 0 0) 19 = 0 ∧ s.intOpnd f 17 ≠ 0) := by decide +kernel

/-- MovesAndFields: the two types of EXT and INS. -/
theorem witness_fields : (avtOf .i64 17 18 0 63).type = .i64 ∧ (avtOf .u64 17 18 0 0).type = .u64 := by decide

/-- CompareSelect, PredicateInstructions: the last condition, a named predicate, and the last test of UNIF. -/
theorem witness_compare : (avtOf .i64 17 18 0 5).x < 6 ∧ (avtOf .i64 8 9 15 3).c ≠ 0 ∧ (avtOf .i64 8 9 15 3).x < 4 ∧ (avtOf .i64 8 0 15 0).x = 0 := by decide

/-- OperandForms, ResultProduced, PrefetchQueue: the first and last of each range of specifiers; a long immediate; a result of the task and of an ended one; and a binding. -/
theorem witness_operands : (0 : BitVec 7).toNat < 16 ∧ (15 : BitVec 7).toNat < 16 ∧ 16 ≤ (16 : BitVec 7).toNat ∧ (47 : BitVec 7).toNat < 48 ∧ 48 ≤ (48 : BitVec 7).toNat
    ∧ (55 : BitVec 7).toNat < 56 ∧ 56 ≤ (56 : BitVec 7).toNat ∧ (59 : BitVec 7).toNat < 60 ∧ (64 : BitVec 7).toNat = 64 ∧ 64 < (65 : BitVec 7).toNat ∧ 64 < (127 : BitVec 7).toNat
    ∧ ({ actor id with issue := { (actor id).issue with limm := some 5 } } : State).issue.limm = some 5 := by decide +kernel
theorem witness_result : (let s := actor id; let p : ResultP := ⟨0, 0, 0, 9, .scalar 1 false, some 3, .c 1 true false⟩
    (s.ctx p.core p.ctx).epoch = p.epoch
      ∧ (s.ctx p.core p.ctx).carried = []
      ∧ (let a := actor (fun x => { x with wait := .acquire 9, carried := [(9, 1, 5)] });
          (a.ctx p.core p.ctx).wait = .acquire p.id ∧ (a.ctx p.core p.ctx).det = false ∧ (a.ctx p.core p.ctx).carried = [(p.id, 1, 5)] ∧ 1 ≠ coreDie p.core)
      ∧ (s.ctx p.core p.ctx).epoch ≠ (8 : Nat) ∧ ∀ y, y ∈ (s.core p.core).yielded → y.2.epoch ≠ 8) := by decide +kernel
theorem witness_binding : (pfqBinds (avtOf .i64 16 47 0 7))[1]? = some (false, 31) := by decide +kernel

/-- MfsReads, MtsWrites: MFS of the first and last registers; MTS from a level that traps, from one that does not, with a value that is not legal, a poisoned one, and a plain one. -/
theorem witness_mfs : (let s := actor id; let f := avtOf .i64 0 0 0 0x1B
    (f.x, s.start.sr.imgRt) ∈ [(0x1B, s.start.sr.imgRt)] ∧ 0x40 ≤ (avtOf .i64 0 0 0 0x40).x ∧ (avtOf .i64 0 0 0 0x5F).x ≤ 0x5F) := by decide +kernel
theorem witness_mts : (let s := actor (regs [48]); let u := actor (fun x => { x with sr := { x.sr with priv := 0 } }); let f := avtOf .i64 57 0 0 0x15
    (sysSupervisor 0x15 = true ∧ u.start.sr.priv = 0)
      ∧ ¬(sysSupervisor f.x = true ∧ s.start.sr.priv = 0) ∧ s.enabled f = true
      ∧ s.enabled { f with pred := 1 } = false
      ∧ sysLegal 0x05 (s.readS 17 .i64).1 = false ∧ sysLegal 0x15 (s.readS 17 .i64).1 = true
      ∧ ((actor (fun x => { x with s := ⟨[(1, .scalar 64 true)]⟩ })).readS 17 .i64).2 = true
      ∧ (s.readS 17 .i64).2 = false ∧ (s.govern f).poison = false ∧ sysAssigned 0x15 = true ∧ sysReadOnly 0x15 = false ∧ sysLegal 0x0E (s.readS 17 .i64).1 = true) := by decide +kernel

/-- ExactValuesKeepTheirCode, ScalarFloat, ScalarConversion: a code that is no NaN, the largest; source and result types of each kind of conversion; a finite value. -/
theorem witness_float : tyIsFloat .e4m3 = true ∧ (0xFE : Nat) < 2 ^ tyWidth .e4m3 ∧ fpDecode .e4m3 0xFE ≠ .nan
    ∧ (avtOf .f16 17 18 0 0).type = .f16 ∧ fpRead .f16 false 0x7E00 = .nan ∧ (avtOf .f16 17 18 0 1).x5 < 8
    ∧ tyI .i32 = true ∧ tyIsFloat .f32 = true ∧ (fpRead .f32 false 0x3F800000 = .fin false 0x800000 (-23)) := by decide +kernel

/-- VectorConversion: an I4X vector with a marker whose block is malformed, and one without; each pair of widths. -/
theorem witness_convert : (let bad := actor (vreg 4 (List.replicate 127 0 ++ [8])); let good := actor (vreg 4 [3]); let f : AvtF := avtOf .f32 17 0 0 (BitVec.ofNat 7 (Ty.toBits .i4x).toNat)
    (bad.vcvtBad f).isSome = true ∧ good.vcvtBad f = none ∧ Ty.ofBits (f.ext.truncate 4) = .i4x ∧ tyWidth .f32 = tyWidth .i32 ∧ tyWidth .f16 < tyWidth .f32
      ∧ (1 : Nat) < tyWidth .f32 / tyWidth .f16 ∧ Ty.ofBits ((avtOf .f32 17 0 0 0xA).ext.truncate 4) ≠ .i4x) := by decide +kernel

/-- PermutesAndBroadcasts: the six patterns. -/
theorem witness_patterns : (avtOf .f32 17 18 0 0).x = 0 ∧ (avtOf .f32 17 18 0 3).x = 3 ∧ (avtOf .f32 17 18 19 4).x = 4 ∧ (avtOf .f32 17 0 0 5).x = 5 := by decide

/-- ReductionTreeOrder, IntegerReductionsAndScans: a floating and an integer type; lanes enabled and none enabled. -/
theorem witness_reductions : (let f := avtOf .bf16 17 0 0 2; let g := avtOf .i8 17 0 0 1; let s := actor id; let none' : AvtF := { g with pred := 1 }
    tyF f.type = true ∧ f.x5 < 3 ∧ tyI g.type = true ∧ g.sat = 0
      ∧ (List.range 256).filter (fun i => s.laneOn g 8 i) ≠ [] ∧ (List.range 256).filter (fun i => s.laneOn none' 8 i) = []) := by decide +kernel

/-- DelayedTransfers, BundleAdvancesPc: plain and poisoned predicates and targets; no jump and no image asked for. -/
theorem witness_transfers : (let s := actor (regs [0x100080]); let p := actor (fun x => { x with c := ⟨[(2, ⟨true, true⟩)]⟩, s := ⟨[(1, .scalar 0 true)]⟩ })
    (tget s.start.c .zero 2).poison = false ∧ (tget p.start.c .zero 2).poison = true ∧ (s.readS 17 .i64).2 = false ∧ (p.readS 17 .i64).2 = true
      ∧ s.issue.ckpt = false ∧ s.issue.jump = false) := by decide +kernel

/-- A loaded image at the placed bundle's region, whose routine table has two entries, the second in the routine cache. -/
def inImage (x : Ctx) : Ctx := { x with sr := { x.sr with imgBase := 0x100000, imgRt := BitVec.ofNat 64 (2 * 2 ^ 48 + 0x100) } }
def withRoutine (k : Core) : Core := { k with rtCache := [⟨0x100000, 1, 0, 0, none, 0⟩] }

/-- RoutineCalls, RepeatCount: a call of a cached routine, an index past the table, a call and a return within a routine, and counts. -/
theorem witness_callr : ∃ v u e, (let s := actorOn inImage withRoutine
    s.start.sr.imgBase ≠ 0 ∧ 1 < s.start.sr.imgRt.toNat / 2 ^ 48 % 2048 ∧ s.start.inRoutine = false
      ∧ s.fetchRun s.issue.core s.start.sr.rng (s.start.sr.imgBase + BitVec.ofNat 64 (s.start.sr.imgRt.toNat % 2 ^ 48 + 32)).toNat 32 = (.ok (v, false), u) ∧ u.safe
      ∧ u.issue = s.issue ∧ (u.core s.issue.core).rtFind s.start.sr.imgBase 1 = some e) := by
  let s := actorOn inImage withRoutine
  obtain ⟨a, u, h, g⟩ := okAnd_holds (p := s.fetchRun s.issue.core s.start.sr.rng (s.start.sr.imgBase + BitVec.ofNat 64 (s.start.sr.imgRt.toNat % 2 ^ 48 + 32)).toNat 32)
    (g := fun a u => !a.2 && decide (u.stuck = none) && decide (u.issue = s.issue) && ((u.core s.issue.core).rtFind s.start.sr.imgBase 1 == some ⟨0x100000, 1, 0, 0, none, 0⟩))
    (by decide +kernel)
  simp only [Bool.and_eq_true, Bool.not_eq_true', decide_eq_true_eq, beq_iff_eq] at g
  refine ⟨a.1, u, _, by decide +kernel, by decide +kernel, by decide +kernel, ?_, g.1.1.2, g.1.2, g.2⟩
  rw [show ((a.1, false) : Nat × Bool) = a from by rw [← g.1.1.1]]
  exact h
theorem witness_routine : (let r := actor (fun x => { inImage x with sr := { (inImage x).sr with routIdx := 1 } }); let u := actor inImage
    u.start.sr.imgRt.toNat / 2 ^ 48 % 2048 ≤ 2 ∧ (actor id).start.sr.imgBase = 0 ∧ r.start.inRoutine = true ∧ u.start.inRoutine = false
      ∧ (r.readS 17 .i64).2 = false ∧ ((actor (fun x => { x with s := ⟨[(1, .scalar 0 true)]⟩ })).readS 17 .i64).2 = true
      ∧ (⟨0, 0, 0, 0, 17, 0⟩ : CF).imm.toNat % 128 = 0 ∧ (⟨127, 0, 0, 0, 17, 0⟩ : CF).imm.toNat % 128 ≠ 0) := by decide +kernel

/-- A group of two cores, the acting one and the next, with two barriers, its job, and a record of that job. -/
def desc0 : GroupDesc :=
  { gid := 5, jobId := 1, w := 2, h := 1, prio := 3, nbar := 2, doldn := 0, aging := false, ens := false, startVec := false, pool := false, launch := 0
    recs := .empty, tiles := [] }
def group0 : Group :=
  { desc := desc0, die := 0, x := 0, y := 0, phase := .placed, hold := false, bars := [0, 1], barriers := .empty, queue := [], lastSink := 0, watch := 0
    hung := false, saved := .empty, time := 0, source := 0, stopAt := 0 }
def job0 : Job :=
  { jobId := 1, trapVec := 0, imgBase := 0, imgRt := 0, rng := .empty, fmode := 0, det := false, cmplAddr := 0, cmplSeq := 0, fail := false, cls := 0
    nonRepro := false, done := false }
/-- Urgency 3, code at 0x100000. -/
def rec0 : RecP := ⟨BitVec.ofNat 256 (3 * 2 ^ 240 + 0x100000), 0x40, 1, false⟩
def grouped (g : Ctx → Ctx) (h : Core → Core) (grp : Group) : State :=
  { actorOn g (fun k => { h k with group := some 5 }) with groups := ⟨[(5, some grp)]⟩, jobs := ⟨[(1, some job0)]⟩ }
/-- A record stands at the window's last 32 bytes. -/
def recordAt (r : BitVec 256) (k : Core) : Core := { k with sp := putBytes .empty 0xFFFE0 32 r.toNat }

/-- SpawnPushesRecord: a good record, a malformed one, and one above the task's urgency; with room; and the pushes' queues. -/
theorem witness_spawn : (let at_ := regs [0xFFFE0]; let s := actorOn (fun x => { at_ x with sr := { x.sr with priv := 0, prio := 3 } }) (recordAt rec0.bits)
      let t := actorOn (fun x => { at_ x with sr := { x.sr with priv := 0, prio := 4 } }) (recordAt rec0.bits); let bad := actorOn at_ (recordAt (rec0.bits + 1))
      let r (s : State) : BitVec 256 := BitVec.ofNat 256 ((s.core 0).spRead 0xFFFE0 32).1
    s.stuck = none ∧ (s.readS 17 .i64) = (0xFFFE0, false) ∧ (s.core 0).meets s.cycle 0xFFFE0 32 false = .ok
      ∧ malformedRecord (r bad) = true ∧ malformedRecord (r s) = false ∧ s.start.sr.priv = 0 ∧ s.start.sr.prio.toNat ≤ recPrio ⟨r s, 0, 0, false⟩
      ∧ recPrio ⟨r t, 0, 0, false⟩ < t.start.sr.prio.toNat ∧ s.waiting 0 < dieLimit ∧ s.queueFull 0 0 = false ∧ s.queueFull 0 1 = false
      ∧ (let g := grouped id id group0; (g.core 0).group = some 5 ∧ g.group 5 = some group0 ∧ g.queueFull 0 1 = false)) := by decide +kernel

/-- DrainRetireHalt, JoinSendsDecrement, YieldToWaitingRecords: nothing outstanding; with no address to join; with a record waiting and without; and a join block in shared memory, in the window, and poisoned. -/
theorem witness_quiet : Quiet (actor id) ∧ ((actor id).core 0).group = none ∧ (actor id).start.sr.joinAddr = 0 ∧ (actor id).me.sr.joinAddr = 0
    ∧ (∀ r, r ∈ ((actor id).core 0).queue → (actor id).start.sr.prio.toNat < recPrio r)
    ∧ (let s := actorOn (fun x => { x with sr := { x.sr with prio := 3 } }) (fun k => { k with queue := [rec0] })
      ∃ r, r ∈ (s.core 0).queue ∧ recPrio r ≤ s.start.sr.prio.toNat) := by
  refine ⟨by unfold Quiet; decide +kernel, by decide +kernel, by decide +kernel, by decide +kernel, by decide +kernel, rec0, by decide +kernel⟩
theorem witness_join : (let s := actor (regs [0x100040]); let w := actor (regs [0xFFFC0]); ∃ x, (s.readS 17 .i64).2 = false ∧ s.place 0x100040 64 needRW false = .shared x
    ∧ x.host = false ∧ (w.readS 17 .i64).1.toNat / 64 * 64 < 0x100000 ∧ ((actor (fun x => { x with s := ⟨[(1, .scalar 0 true)]⟩ })).readS 17 .i64).2 = true) :=
  ⟨⟨0x100040, 0, false, false, false, 0, 0⟩, by decide +kernel⟩

/-- BarrierArrivals, BarrierCompletes: an arrival at each granted barrier, a barrier outside the grant, a wait, a completion, and one that is late. -/
theorem witness_arrivals : (let s := grouped id id group0
    (s.core 0).group = some 5 ∧ s.group 5 = some group0 ∧ s.me.det = false ∧ (s.core 0).fwds = [] ∧ s.me.arrived = [] ∧ s.start.transfer = false
      ∧ 1 < group0.bars.length ∧ group0.bars.length ≤ 2
      ∧ (grouped (fun x => { x with arrived := [(1, 0)] }) id group0).granted 0 1 = true
      ∧ (grouped (fun x => { x with arrived := [(1, 0)] }) id group0).me.arrived = [(1, 0)]) := by decide +kernel
theorem witness_completion : (let b : Barrier := { Barrier.fresh with due := true, arrived := [(0, 0)], phase := 6 }; let g : Group := { group0 with barriers := ⟨[(1, b)]⟩ }
    let s := grouped (fun x => { x with wait := .barrier 1 6, barRes := some (3, none) }) id g; let x := s.ctx 0 0
    s.group 5 = some g ∧ (g.barrier 1).due = true ∧ (g.barrier 1).gangs = 0 ∧ (g.barrier 1).updates = 0 ∧ (g.barrier 1).tw = none ∧ s.merges = []
      ∧ (g.barrier 1).arrived = [(0, 0)] ∧ x.wait = .barrier 1 (g.barrier 1).phase ∧ x.again = none ∧ x.phaseOf = none ∧ x.barRes = some (3, none)) := by decide +kernel
theorem witness_lateCompletion : ∀ g, (actor id).group 5 = some g → (g.barrier 1).phase ≠ 0 := by
  intro g h
  rw [show (actor id).group 5 = none from by decide +kernel] at h
  exact absurd h (by simp)

/-- TrapIsTaken, UntakenTrapKills, TrapAndReturn: a handler and no open trap; an open trap at supervisor level; no handler; and the job of the task. -/
theorem witness_traps : (let x := (actor (fun x => { x with sr := { x.sr with trapVec := 0x200000, priv := 0 } })).me
    let y := (actor (fun x => { x with shadow := { Shadow.empty with occupied := true } })).me; let s := { actor id with jobs := ⟨[(1, some job0)]⟩ }
    x.inRoutine = false ∧ x.sr.trapVec ≠ 0 ∧ x.sr.priv = 0 ∧ (65535 : Nat) < 65536 ∧ x.xfer = .none ∧ ({ x with xfer := .goto 64 0 } : Ctx).xfer = .goto 64 0
      ∧ ({ x with xfer := .retr } : Ctx).xfer = .retr ∧ 1 ≤ y.sr.priv.toNat ∧ y.shadow.occupied = true ∧ y.inRoutine = false
      ∧ (actor id).me.sr.trapVec = 0 ∧ (s.core 0).group = none ∧ s.job ({ rec0 with job := 1 } : RecP).job = some job0 ∧ job0.fail = false
      ∧ x.sr.dlyPend.getLsbD 0 = false ∧ ({ x with sr := { x.sr with dlyPend := 1 } } : Ctx).sr.dlyPend.getLsbD 0 = true ∧ y.shadow.xfer = .none
      ∧ ({ Shadow.empty with xfer := .goto 64 0 } : Shadow).xfer = .goto 64 0 ∧ ({ Shadow.empty with xfer := .retr } : Shadow).xfer = .retr
      ∧ ({ Shadow.empty with xfer := .callr 1 0 0 0 } : Shadow).xfer = .callr 1 0 0 0 ∧ x.shadow.occupied = false) := by decide +kernel

/-- WindowLoads, WindowStores: the last bytes of the window, of each width; a tile that an engine owns; and one about to be given to the threads. -/
theorem witness_window : (let s := actor (regs [0xFFFF8, 0xFFF00]); let own := actorOn (regs [0xFFFF8]) (fun k => { k with owner := ⟨[(511, true)]⟩ })
      let flip := actorOn (regs [0xFFFF8]) (fun k => { k with flips := [⟨1, 1, 511, 1, false⟩] })
    s.stuck = none ∧ (s.effAddr 17 56 0 8) = (0xFFFF8, false) ∧ 0xFFFF8 + sizeBytes 3 ≤ 0x100000 ∧ (s.effAddr 18 56 0 256) = (0xFFF00, false) ∧ 0xFFF00 + sizeBytes 5 ≤ 0x100000
      ∧ Memory.wf (s.core 0).sp = true ∧ (s.core 0).meets s.cycle 0xFFFF8 8 false = .ok ∧ (s.core 0).meets s.cycle 0xFFF00 256 true = .ok ∧ (s.core 0).fwds = []
      ∧ (s.core 0).banksFree s.cycle (tilesOf 0xFFFF8 8) = true ∧ (own.core 0).meets own.cycle 0xFFFF8 8 true = .own 0xFFFF8
      ∧ (flip.core 0).meets flip.cycle 0xFFFF8 8 false = .wait
      ∧ (own.core 0).meets own.cycle 0xFFFF8 8 false = .own 0xFFFF8 ∧ (flip.core 0).meets flip.cycle 0xFFFF8 8 true = .wait ∧ (s.core 0).meets s.cycle 0xFFFF8 8 true = .ok
      ∧ s.issue.checks = false ∧ ({ s.issue with checks := true } : Issue).checks = true) := by decide +kernel

/-- EffectiveAddress, RangeChecks: an access that crosses the window's end; poison; a set that holds the address, the last byte of it, one past it, one without permission; none. -/
theorem witness_addresses : (let s := actor (regs [0xFFFC0, 0x100000, 0x110000]); let p := actor (fun x => { x with s := ⟨[(1, .scalar 0 true)]⟩ })
    s.stuck = none ∧ (s.effAddr 17 56 0 256) = (0xFFFC0, false) ∧ 0xFFFC0 < 0x100000 ∧ 0x100000 < 0xFFFC0 + 256 ∧ (p.effAddr 17 56 0 8).2 = true
      ∧ (s.effAddr 18 56 0 8) = (0x100000, false) ∧ (s.effAddr 19 56 0 8) = (0x110000, false)
      ∧ errAnd (rangeXl s.start.sr.rng 0x110000 8 needR, s) (fun e _ => e == 1) = true ∧ errAnd (rangeXl s.start.sr.rng 0x10FFFC 8 needW, s) (fun e _ => e == 2) = true) := by decide +kernel
theorem witness_rangeSets : (let rng := (actor id).start.sr.rng; let w (i j : Nat) : Nat := (tget rng 0 (4 * i + j)).toNat
    (0 < 8 ∧ (w 0 3).testBit 0 = true ∧ w 0 0 ≤ 0x10FFF8 ∧ 0x10FFF8 < w 0 1) ∧ 0x10FFF8 + 8 ≤ w 0 1 ∧ w 0 1 < 0x10FFF9 + 8
      ∧ ¬ ((needRW.x = true ∧ (w 0 3).testBit 3 = false) ∨ (needRW.w = true ∧ (w 0 3).testBit 2 = false) ∨ (needRW.r = true ∧ (w 0 3).testBit 1 = false))
      ∧ 0x10FFF8 - w 0 0 + w 0 2 < 2 ^ 57
      ∧ (needX.x = true ∧ (3 : Nat).testBit 3 = false)) ∧ ∀ i, ¬ ((i < 8) ∧ (tget (Tbl.empty : Tbl Word) 0 (4 * i + 3)).toNat.testBit 0 = true) := by
  refine ⟨by decide +kernel, fun i h => ?_⟩
  exact absurd h.2 (by simp [tget, Tbl.empty, pairsGet])

/-! Shared memory: a line of the placed bundle's region, which range set 0 gives, Hall-placed, its home bay 0. -/

/-- A request for it, at an offset. -/
def xl0 (n : Nat) : Xl := ⟨0x100000 + n, 0, false, false, false, 0, 0⟩
/-- A path to bay 0. -/
def path0 : Path := [(0, 4)]
/-- A line in the view of core 0, and what it is there. -/
def line0 : ViewLine := ⟨xl0 0x100, 7, 0, 4, 0, .empty, [], none⟩
def viewed (k : Core) : Core := k.allocView line0
/-- An entry of the acting context's segment, on its way. -/
def entry0 : LogEnt := ⟨0, 3, 0x100100, ⟨xl0 0x100, 0, 1, 0⟩, .empty, false, true, false, ⟨1, 0, 0, 0, 3⟩⟩
def packet0 : LogPkt := ⟨0, 0, 0, 3, ⟨xl0 0x100, 5, 1, 0⟩, ⟨1, 0, 0, 0, 3⟩, 0x100100, 0, path0, false, false, 0, none, none⟩
def read0 : ReadReq := ⟨0, 0, 0, 1, xl0 0x100, 4, 0, path0, false, none, none, 0⟩
def load0 : PendLoad :=
  { num := 1, id := 0, dst := none, vec := false, va := 0x100100, size := 8, xls := [xlAt (xl0 0x100) 0x100100], evp := 4, lines := .empty, asked := .empty, view := 0, overlay := []
    held := false, block := none, spawn := none, since := 0, pc := 0, port := false }

theorem okAnd_same {ε α β : Type} [DecidableEq β] {p : Except ε α × β} {s : β} (h : okAnd p (fun _ u => decide (u = s)) = true) : ∃ a, p = (.ok a, s) := by
  obtain ⟨a, u, e, g⟩ := okAnd_holds h
  exact ⟨a, by rw [e, of_decide_eq_true g]⟩

theorem witness_route : ∃ path extra, (actor (regs [0x100100])).routeOf 0 (xl0 0x100) = (.ok (path, extra), actor (regs [0x100100])) := by
  obtain ⟨a, h⟩ := okAnd_same (p := (actor (regs [0x100100])).routeOf 0 (xl0 0x100)) (s := actor (regs [0x100100])) (by decide +kernel)
  exact ⟨a.1, a.2, h⟩

/-- SharedLoads: a load in one line, in the view and not; a read at home that succeeds, and one that a generation stops; and the fill that a load waits for. -/
theorem witness_sharedLoad : (let s := actor (regs [0x100100]); let v := actorOn (regs [0x100100]) viewed
    s.stuck = none ∧ s.effAddr 17 56 0 8 = (0x100100, false) ∧ s.place 0x100100 8 needR true = .shared (xl0 0x100) ∧ 0x100100 % 64 + 8 ≤ 64 ∧ isCtl 0x100100 = false
      ∧ (s.core 0).seenLog 0 = [] ∧ (s.core 0).viewFind (xl0 0x100) = none ∧ (v.core 0).seenLog 0 = [] ∧ ((v.core 0).viewFind (xl0 0x100)).isSome = true
      ∧ s.refused = [] ∧ s.me.loads = []) := by decide +kernel
theorem witness_homeRead : ∃ v d u, (actor id).mustWalk 0 (xl0 0x100) = false ∧ (actor id).bankFree 0 (xl0 0x100) = true
    ∧ ((actor id).useBank 0 (xl0 0x100)).homeRead 0 (xl0 0x100) needR false 1 = (.ok (v, d), u) ∧ u.safe := by
  obtain ⟨a, u, h, g⟩ := okAnd_holds (p := ((actor id).useBank 0 (xl0 0x100)).homeRead 0 (xl0 0x100) needR false 1) (g := fun _ u => decide (u.stuck = none)) (by decide +kernel)
  exact ⟨a.1, a.2, u, by decide +kernel, by decide +kernel, h, by unfold State.safe; exact of_decide_eq_true g⟩
theorem witness_homeFault : ∃ e u, (actor id).mustWalk 0 { xl0 0x100 with gen := 1 } = false
    ∧ ((actor id).useBank 0 { xl0 0x100 with gen := 1 }).homeRead 0 { xl0 0x100 with gen := 1 } needR false 1 = (.error e, u) ∧ u.safe := by
  obtain ⟨e, u, h, g⟩ := errAnd_holds (p := ((actor id).useBank 0 { xl0 0x100 with gen := 1 }).homeRead 0 { xl0 0x100 with gen := 1 } needR false 1) (g := fun _ u => decide (u.stuck = none)) (by decide +kernel)
  exact ⟨e, u, by decide +kernel, h, by unfold State.safe; exact of_decide_eq_true g⟩
theorem witness_bankTaken : (let s : State := { actor id with bays := ⟨[(0, { tget (actor id).bays .reset 0 with banks := ⟨[(lineBank 0x100100, 1001)]⟩ })]⟩ }
    s.stuck = none ∧ s.mustWalk 0 (xl0 0x100) = false ∧ s.bankFree 0 (xl0 0x100) = false) := by
  refine ⟨by decide +kernel, by decide +kernel, ?_⟩
  simp [State.bankFree, State.bankIdle, lineBank, tget, pairsGet, xl0, actor]
  decide
theorem witness_fill : (let s := actor (fun x => { x with loads := [load0] }); let x := s.ctx 0 0
    x.epoch = read0.epoch ∧ x.loads = [load0] ∧ load0.block = none ∧ load0.spawn = none ∧ load0.overlay = [] ∧ load0.lines = .empty
      ∧ load0.xls = [xlAt read0.xl (read0.xl.ia / 64 * 64)] ∧ load0.va % 64 + load0.size ≤ 64) := by decide +kernel

/-- SharedStores, DrainsSendTheLog: a store in shared memory, to host memory with poison, with room and without; a drain with nothing before it; an LPUB; an acknowledgement, and the last one. -/
theorem witness_sharedStore : (let s := actor (regs [0x100100]); let h := actor (fun x => { regs [0x100100] x with sr := { x.sr with rng := tset x.sr.rng 0 3 0x2F } })
    s.effAddr 17 56 0 8 = (0x100100, false) ∧ s.place 0x100100 8 needW true = .shared (xl0 0x100) ∧ h.place 0x100100 8 needW true = .shared { xl0 0x100 with host := true }
      ∧ (s.core 0).logRoom (s.me.opens (lineXls (xl0 0x100) 8)) = true ∧ s.me.det = false
      ∧ (s.core 0).logRoom 140000 = false) := by decide +kernel
theorem witness_drain : (let s := actor (regs [0x100100])
    s.me.ops = [] ∧ s.me.atoms = 0 ∧ s.me.det = false ∧ s.start.det = false ∧ s.place 0x100100 8 needW false = .shared (xl0 0x100)) := by decide +kernel
/-- In a state made by `actor`, no context but the acting one holds anything. -/
theorem actor_others (g : Ctx → Ctx) (c : Nat) (h : c ≠ 0) : (actor g).ctx 0 c = .reset := by
  obtain ⟨n, rfl⟩ := Nat.exists_eq_succ_of_ne_zero h
  rfl
theorem witness_ack : (∀ c, ((actor id).ctx 0 c).ops = []) ∧ ((actor id).ctx 0 0).epoch = 0 := by
  refine ⟨fun c => ?_, by decide +kernel⟩
  by_cases h : c = 0
  · rw [h]; decide +kernel
  · rw [actor_others id c h]; rfl
theorem witness_lastAck : (let s := actor (fun x => { x with ops := [⟨1, .drain, true, 9, false⟩], log := [entry0] })
    (∀ c, c ≠ 0 → (s.ctx 0 c).ops = []) ∧ (s.ctx 0 0).ops = [⟨1, .drain, true, 9, false⟩] ∧ (s.ctx 0 0).log = [entry0] ∧ entry0.epoch = (s.ctx 0 0).epoch
      ∧ (s.core 0).side = []) := by
  refine ⟨fun c h => ?_, by decide +kernel, by decide +kernel, by decide +kernel, by decide +kernel⟩
  rw [actor_others _ c h]; rfl

/-- LoadBlocksAndDiscards: one line and 64; no line and 65; in shared memory, in the view and not, with room for the zeros; and in the window. -/
theorem witness_blocks : (let s := actor (regs [0x100100, 64, 65, 0xFFFC0]); let v := actorOn (regs [0x100100]) viewed
    s.effAddr 17 56 0 64 = (0x100100, false) ∧ s.readS 57 .i64 = (1, false) ∧ s.readS 18 .i64 = (64, false) ∧ s.readS 19 .i64 = (65, false) ∧ s.readS 56 .i64 = (0, false)
      ∧ s.place 0x100100 4096 needR false = .shared (xl0 0x100) ∧ s.place 0x100100 4096 needNone false = .shared (xl0 0x100) ∧ s.place 0x100100 4096 needW false = .shared (xl0 0x100)
      ∧ (s.core 0).blocks.length < 32 ∧ (s.core 0).logRoom (s.me.opens (lineXls (xl0 0x100) 4096)) = true
      ∧ (lineXls (xl0 0x100) 64).filter (fun y => isCtl y.ia || ((v.core 0).viewFind y).isNone) = []
      ∧ (lineXls (xl0 0x100) 64).filter (fun y => isCtl y.ia || ((s.core 0).viewFind y).isNone) ≠ []
      ∧ s.effAddr 20 56 0 64 = (0xFFFC0, false) ∧ s.stuck = none
      ∧ ((actor (fun x => { x with s := ⟨[(1, .scalar 0 true)]⟩ })).effAddr 17 56 0 64).2 = true) := by decide +kernel

/-- EntriesAndWordsAtHome, AcquireReplays: an entry and a publication word at home; an LACQ of one word and of eight, of none and of nine; its word, and the lines it replays. -/
theorem witness_entryAtHome : ∃ fd d u, (let s := actor id; let p := packet0
    p.w.xl.host = false ∧ p.w.xl.rmt = false ∧ isCtl p.w.xl.ia = false ∧ p.replay = false ∧ p.host = false ∧ p.via = none ∧ p.eng = none
      ∧ (s.useBank (pathBay p.path) p.w.xl).parksBehind p.core p.w.xl.ia = false
      ∧ s.mustWalk (pathBay p.path) p.w.xl = false ∧ s.bankFree (pathBay p.path) p.w.xl = true ∧ (s.useBank (pathBay p.path) p.w.xl).xlate (pathBay p.path) p.w.xl needW s.root = (.ok fd, d, u) ∧ u.migrOf p.w.xl.ia = none ∧ u.lands fd.place
      ∧ s.refused = [] ∧ u.safe) := by
  obtain ⟨fd, du, h, g⟩ := okAnd_holds (p := ((actor id).useBank 0 (xl0 0x100)).xlate 0 (xl0 0x100) needW (actor id).root)
    (g := fun fd du => decide (du.2.migrOf 0x100100 = none) && decide (fd.place = .hall 0x100100) && decide (du.2.stuck = none)) (by decide +kernel)
  simp only [Bool.and_eq_true, decide_eq_true_eq] at g
  exact ⟨fd, du.1, du.2, by decide +kernel, by decide +kernel, by decide +kernel, by decide +kernel, by decide +kernel, rfl, rfl, by decide +kernel, by decide +kernel, by decide +kernel, h, g.1.1,
    by rw [g.1.2]; trivial, by decide +kernel, g.2⟩
theorem witness_publication : (let s := actor (fun x => { x with ops := [⟨1, .lpub 4 (xl0 0x100), true, 0, true⟩] })
    (s.ctx 0 0).lpubOp = some (xl0 0x100) ∧ (xl0 0x100).ia % 8 = 0 ∧ s.mustWalk 0 (xl0 0x100) = false ∧ s.bankFree 0 (xl0 0x100) = true
      ∧ okAnd ((s.useBank 0 (xl0 0x100)).xlate 0 (xl0 0x100) needW s.root) (fun fd du => du.2.migrOf 0x100100 == none && fd.place == .hall 0x100100 && du.2.stuck == none) = true
      ∧ okAnd (s.routeOf 0 (xl0 0x100)) (fun _ u => decide (u = s)) = true) := by decide +kernel
theorem witness_lacq : (let s := actor (regs [0x100100, 8, 9])
    s.effAddr 17 56 0 8 = (0x100100, false) ∧ s.readS 57 .i64 = (1, false) ∧ s.readS 18 .i64 = (8, false) ∧ s.readS 19 .i64 = (9, false) ∧ s.readS 56 .i64 = (0, false)
      ∧ okAnd (s.wordXls 0x100100 8, s) (fun l _ => l == (List.range 8).map (fun i => xl0 (0x100 + 8 * i))) = true ∧ s.me.ops = [] ∧ s.refused = []
      ∧ okAnd (s.routeOf 0 (xl0 0x100)) (fun _ u => decide (u = s)) = true) := by decide +kernel
theorem witness_lacqWord : (let s := actor (fun x => { x with ops := [⟨1, .lacq [xl0 0x100] 0, false, 0, true⟩] }); let x := s.ctx 0 0
    x.ops = [⟨1, .lacq (xl0 0x100 :: []) 0, false, 0, true⟩] ∧ okAnd (s.routeOf 0 (xl0 0x100)) (fun _ u => decide (u = s)) = true
      ∧ s.refused = [] ∧ s.mustWalk 0 (xl0 0x100) = false ∧ s.bankFree 0 (xl0 0x100) = true
      ∧ okAnd ((s.useBank 0 (xl0 0x100)).homeRead 0 (xl0 0x100) needR false x.sr.priv.toNat) (fun v u => decide (u.stuck = none) && v.1.1.toNat / 256 ^ (0x100100 % 64) % 2 ^ 64 / 2 ^ 32 == 0) = true
      ∧ (x.acq.find? (fun e => e.pkg == 0 && e.core == 0 && e.ctx == 0)) = none) := by decide +kernel
theorem witness_replay : (let s := actor (fun x => { x with ops := [⟨1, .lacq [xl0 0x100] 2, false, 0, true⟩] }); let c := s.ctx 0 0
    c.ops = [⟨1, .lacq [xl0 0x100] 2, false, 0, true⟩] ∧ (2 : Nat) ≠ 1 ∧ c.epoch = read0.epoch
      ∧ (xl0 0x100).host = false ∧ s.stuck = none ∧ (s.core 0).mayKeep (xl0 0x100) 0 = true ∧ (s.core 0).pinCount < 2048 ∧ (s.core 0).victim 0x100100 ≠ none
      ∧ ({ s.core 0 with viewGen := 3, viewAll := 2 } : Core).mayKeep (xl0 0x100) 1 = false) := by decide +kernel

/-- AtomicsGoHome, AtomicsAtHome: poison; the window; host memory; a word at home, of 8 and of 4 bytes; and operands below the width. -/
def atom0 : AtomReq := ⟨0, 0, 0, some 1, .add, true, 1, 0, false, xl0 0x100, 0x100100, none, false, false, false, 0, 0, 0, path0, false, none⟩
theorem witness_atomic : (let f : MF := ⟨0, 3, 63, 57, 56, 17, 4, 1, 0⟩; let s := actor (regs [0x100100, 0x100]); let p := actor (fun x => { x with s := ⟨[(1, .scalar 0 true)]⟩ })
      let h := actor (fun x => { regs [0x100100] x with sr := { x.sr with rng := tset x.sr.rng 0 3 0x2F } })
    (Instr.atomAdd f, AtomOp.add, true) ∈ [(Instr.atomAdd f, AtomOp.add, true), (.redAdd f, .add, false)] ∧ (p.readS 17 .i64).2 = true ∧ s.readS 17 .i64 = (0x100100, false)
      ∧ s.readS 56 .i64 = (0, false) ∧ (s.readS 18 .i64).1.toNat / 8 * 8 + 8 ≤ 0x100000 ∧ s.place 0x100100 8 needRW false = .shared (xl0 0x100)
      ∧ s.place 0x100100 4 needW false = .shared (xl0 0x100) ∧ h.place 0x100100 8 needRW false = .shared { xl0 0x100 with host := true } ∧ s.refused = []
      ∧ okAnd (s.routeOf 0 (xl0 0x100)) (fun _ u => decide (u = s)) = true) ∧ Quiet (actor (regs [0x100100, 0x100])) := by
  refine ⟨by decide +kernel, by unfold Quiet; decide +kernel⟩
theorem witness_atomicAtHome : (let s := actor id; let r := atom0
    r.xl.rmt = false ∧ r.xl.host = false ∧ isCtl r.xl.ia = false ∧ r.via = none ∧ r.det = false ∧ r.replay = false ∧ r.xl.ia % 64 % 8 = 0 ∧ s.mustWalk 0 r.xl = false ∧ s.bankFree 0 r.xl = true
      ∧ okAnd ((s.useBank 0 r.xl).xlate 0 r.xl needRW s.root) (fun fd du => du.2.migrOf r.xl.ia == none && fd.place == .hall 0x100100 && du.2.stuck == none) = true ∧ s.refused = []
      ∧ s.upset 512 15 = none ∧ (s.useBank 0 r.xl).parksBehind 0 r.xl.ia = false ∧ (2 ^ 32 - 1 < 2 ^ 32 ∧ 2 ^ 64 - 1 < 2 ^ 64)) := by decide +kernel

/-- JoinCounts: a join block whose counter is 0, 2 and 1, with a good record and a malformed one. -/
def join0 : JoinReq := ⟨0, 0, 0, some 1, none, xl0 0x140, 0x100140, 0, 0, 1, 0, path0, false, none⟩
def joinAt (n : Nat) (r : BitVec 256) : State := { actor id with hall := putBytes (actor id).hall 0x100140 64 (n + 2 ^ 256 * r.toNat) }
theorem witness_joinAtHome : ∀ e, e ∈ [(0, rec0.bits), (1, rec0.bits), (2, rec0.bits), (1, rec0.bits + 1)] → (let s := joinAt e.1 e.2; let j := join0
    j.id = some 1 ∧ j.via = none ∧ s.refused = [] ∧ j.xl.rmt = false ∧ isCtl j.xl.ia = false ∧ s.mustWalk 0 j.xl = false ∧ s.bankFree 0 j.xl = true ∧ s.merges = [] ∧ (s.ctx 0 0).det = false
      ∧ okAnd ((s.useBank 0 j.xl).xlate 0 j.xl needRW s.root) (fun fd du => du.2.migrOf j.xl.ia == none && fd.place == .hall 0x100140 && du.2.stuck == none
          && (du.2.readPlace 0 fd.place).1.1.toNat % 2 ^ 64 == e.1) = true)
      ∧ (malformedRecord e.2 = true ↔ e.2 ≠ rec0.bits) := by decide +kernel

/-- Subscriptions: room and none, an overlap; a request; a window that is open and one opened again; an update; an UNSUB with an entry and without; and its arrival. -/
def sub0 : SubEnt := ⟨0, 0x1000, 1, 1, 0x2000, 0, none, false, 900⟩
def fwd0 : FwdEnt := ⟨0, 1, 0x1000, 1, 0x2000, true, 0x2000, 9, 1, 0, 4⟩
def subsReq0 : SubsReq := ⟨0, 0, 0, 1, none, 1, 0, 0x1000, 0x2000, 1, path0⟩
def update0 : SubUpd := ⟨1, 0, 5, 0xFFFC0, 9, 1, 0, none⟩
theorem witness_subs : (let r := regs [0x1000, 0xFFFC0, 1]; let s := grouped r id group0; let covered := grouped r (fun k => { k with subs := [sub0] }) group0
      let full := grouped r (fun k => { k with subs := (List.range 16).map (fun n => { sub0 with entry := n, base := 0x4000 }) }) group0
    s.readS 17 .i64 = (0x1000, false) ∧ s.readS 18 .i64 = (0xFFFC0, false) ∧ s.readS 19 .i64 = (1, false) ∧ 0xFFFC0 + 64 ≤ 0x100000 ∧ 1 < s.groupSize 0 ∧ (1 : Nat) < 2 ^ 26
      ∧ (s.core 0).subs = [] ∧ (s.core 0).freeSub = some 0
      ∧ (sub0 ∈ (covered.core 0).subs ∧ sub0.base < 0x1000 + 64 ∧ 0x1000 < sub0.base + 64 * sub0.lines)
      ∧ ((full.core 0).subs.all (fun e => decide (0x1040 ≤ e.base))) = true ∧ (full.core 0).freeSub = none) := by decide +kernel
theorem witness_subsEvents : (let s := grouped id (fun k => { k with fwds := [fwd0] }) group0; let u := { grouped id id group0 with issue := (actor id).issue }
    (s.core 0).fwds = [fwd0] ∧ fwd0.open_ = true ∧ (grouped id id group0).group update0.gid = some group0 ∧ update0.gid ≠ 2 ^ 32 ∧ update0.bar = none ∧ group0.phase = .placed
      ∧ (s.core (group0.coreAt 1)).banksFree s.cycle [update0.addr / 2048] = true ∧ (u.core subsReq0.pub).freeSub = some 0
      ∧ (let t : State := { grouped id id group0 with bays := .empty }; t.bankIdle (16 * group0.die + Config.saveBank 5 1 (0xFFFC0 / 64) % 16) (Config.saveBank 5 1 (0xFFFC0 / 64) / 16 % 16) = true)
      ∧ ((u.setCore 1 { Core.reset with subs := (List.range 16).map (fun n => { sub0 with entry := n }) }).core 1).freeSub = none) := by decide +kernel
theorem witness_unsub : (let s := grouped (regs [0x1000]) (fun k => { k with subs := [sub0] }) group0
    s.effAddr 17 56 0 64 = (0x1000, false) ∧ (s.core 0).subs = [sub0] ∧ sub0.base = 0x1000 ∧ sub0.ending = none ∧ (actor id).effAddr 56 56 0 64 = (0, false)
      ∧ ∀ e, e ∈ ((actor id).core 0).subs → e.base ≠ 0) := by decide +kernel
theorem witness_unsubArrival : (let x : SubEnt := { sub0 with ending := some 0 }; let e : FwdEnt := { fwd0 with sub := 0, open_ := false }
      let s := (grouped (fun x => { x with wait := .unsub }) (fun k => { k with subs := [x] }) group0).setCore 1 { Core.reset with fwds := [e], group := some 5 }
    (s.core 1).fwds = [e] ∧ e.base = subsReq0.base ∧ s.relCore 1 e.sub = subsReq0.sub ∧ e.open_ = false ∧ (s.core 0).subs = [x] ∧ x.base = subsReq0.base ∧ x.ending = some 0
      ∧ x.flying = 0 ∧ (s.ctx 0 0).wait = .unsub) := by decide +kernel

/-- HostAccessesAndRetries: a write elsewhere, with room and without; one to LAUNCH after bring-up and before; a read that is answered and one that faults; and a refused packet. -/
def hosted (s : State) : State := { s with holdStep := 0, ctl := { s.ctl with linkctl := ⟨[(0, 0x89)]⟩ } }
theorem witness_host : (let w : HostWrite := ⟨ctlBase, 0, BitVec.allOnes 64⟩; let up := hosted (actor id); let off : State := { up with ctl := { up.ctl with asids := .empty } }
    (isCtl w.ia = true ∧ (w.ia - ctlBase) / 64 = 0) ∧ w.mask = BitVec.allOnes 64 ∧ up.holdStep = 0 ∧ up.intake.length < 64 ∧ (actor id).holdStep ≠ 0
      ∧ isCtl 0x100000 = false ∧ up.ingress.length < 4096 ∧ (actor id).hostUp = false ∧ up.hostUp = true ∧ off.hostUp = true
      ∧ up.ctlFault (up.supXl w.ia) false = none ∧ off.ctlFault (off.supXl w.ia) false ≠ none ∧ (1 : BitVec 64) ≠ BitVec.allOnes 64
      ∧ (let r : Refused := ⟨3, .nop, 5, 0, path0, 1, []⟩; ({ up with refused := [r] } : State).refused = [r] ∧ r.id = 3)) := by decide +kernel
theorem witness_hostRead : (let s := hosted (actor id); let off : State := { s with ctl := { s.ctl with asids := .empty } }; let p : State := { s with hallPoison := ⟨[(0x100100 / 8, true)]⟩ }
    s.hostUp = true ∧ off.hostUp = true ∧ p.hostUp = true ∧ (actor id).hostUp = false
      ∧ okAnd (s.homeRead (s.bayOf 0x100100) (s.supXl 0x100100) needR false 1) (fun v u => v.1.2 == 0 && u.stuck == none) = true
      ∧ okAnd (p.homeRead (p.bayOf 0x100100) (p.supXl 0x100100) needR false 1) (fun v u => v.1.2.getLsbD 0 && u.stuck == none) = true ∧ (8 * 0 < 0x100100 % 64 + 8 ∧ 0x100100 % 64 < 8 * 0 + 8)
      ∧ errAnd (off.homeRead (off.bayOf 0x100100) (off.supXl 0x100100) needR false 1) (fun e u => decide (e < 2 ^ 16) && u.stuck == none) = true) := by decide +kernel

/-- FaultRingRules: a ring with room, a full one, none; FRING.base of the least ring; an acknowledgement of a held access and of no record; and the access made again. -/
def ring0 : FaultRing := ⟨0x4000, 6, true, 63, [], [], false⟩
def record0 : RingRec := ⟨BitVec.ofNat 64 (2 ^ 32 + 8), 0, 0, 0, 0, 0, 0, some (.ctx 0 0 0)⟩
theorem witness_ring : (let s : State := { actor (regs [63]) with ring := ring0 }; let g := s.ring
    s.stuck = none ∧ g.set = true ∧ g.unacked.length < 2 ^ g.log2 ∧ g.waiting = [] ∧ g.base % 64 = 0 ∧ g.base + 64 * g.head < Config.packageDram ∧ inExtension (g.base + 64 * g.head) = false
      ∧ s.channelWidth (channelOf (g.base + 64 * g.head)) ≠ 0 ∧ (actor id).ring.set = false
      ∧ (let a : RingEnt := ⟨63, 0, record0⟩; s.readS 17 .i64 = (63, false) ∧ a.pos = 63 ∧ recSegment record0 = none ∧ record0.held = some (.ctx 0 0 0)
          ∧ (∀ e, e ∈ g.unacked → e.pos ≠ 63))) := by decide +kernel
theorem witness_fring : (let s := actor (regs [0x4000, 6, 20]); let b := (s.readS 18 .i64).1.toNat
    s.stuck = none ∧ s.readS 17 .i64 = (0x4000, false) ∧ 0x4000 % 64 = 0 ∧ 6 ≤ b ∧ b ≤ 20 ∧ (s.readS 19 .i64).1.toNat ≤ 20 ∧ 0x4000 + 64 * 2 ^ b ≤ 2 ^ 39
      ∧ 0x4000 / 2 ^ 37 = (0x4000 + 64 * 2 ^ b - 1) / 2 ^ 37 ∧ s.ring.waiting = []) := by decide +kernel
theorem witness_remake : (let s := actor (fun x => { x with heldOps := [[.bayReadRequest read0]], wait := .fault })
    (s.ctx 0 0).heldOps = [[.bayReadRequest read0]] ∧ (s.ctx 0 0).wait = .fault ∧ s.refused = []
      ∧ okAnd (s.routeOf 0 read0.xl) (fun _ u => decide (u = s)) = true) := by decide +kernel
theorem witness_sideReplay : (let e : SideEnt := ⟨0, 0, 0, 0x100100, .logEntryArrival packet0, 1, false⟩; let s := actorOn id (fun k => { k with side := [e] })
    (s.core 0).side = [e] ∧ e.ev = .logEntryArrival packet0 ∧ e.trying = false ∧ s.segment e.ia = s.segment 0x100000 ∧ okAnd (s.routeOf 0 packet0.w.xl) (fun _ u => decide (u = s)) = true) := by
  decide +kernel

/-- TranslationAndInval: a live ASID and one that is not, another generation, a leaf of another ASID, one without permission, one in DRAM; a walk; and INVAL. -/
def tlb0 (leaf : Word) : TlbEnt := ⟨0, 0, 0x100000, 16, leaf, 0⟩
def translated (leaf : Word) : State := { actor id with bays := ⟨[(0, { Bay.reset with tlb := [tlb0 leaf] })]⟩ }
theorem witness_translation : ([0x3E#64, 0x1E#64, 0x26#64, BitVec.ofNat 64 (2 ^ 48 + 0x3E)].all fun leaf => let s := translated leaf
    (tget s.ctl.asids 0 0).getLsbD 4 == true && (tget s.ctl.asids 0 0).toNat % 16 == 0 && (tget s.bays .reset 0).tlbFind 0 0 0x100100 == some (tlb0 leaf)
      && (tget s.ctl.asids 0 7).getLsbD 4 == false && (leaf != 0x26 || (needW.w && !leaf.getLsbD 4)) && (leaf.toNat / 2 ^ 48 % 2 ^ 12 == 0) == decide (leaf.toNat < 2 ^ 48)) = true := by
  decide +kernel
theorem witness_walk : (let w : Walk := ⟨1, 0, 0, 16, 0, []⟩; let m : Miss := ⟨900, 1, .bayReadRequest read0⟩; let b : Bay := { Bay.reset with walks := [w], waiting := [m] }
      let c : Bay := { b with tlb := [tlb0 0x3E] }; let served : State := { actor id with bays := ⟨[(0, c)]⟩ }; let done (s : State) (b : Bay) : State := { s with bays := tset s.bays .reset 0 { b with walks := [] } }
      let v : Walk := { w with waiters := [.bayReadRequest read0] }; let s : State := { actor id with bays := ⟨[(0, b)]⟩ }
      let b' : Bay := { Bay.reset with walks := [v] }; let t : State := { actor id with bays := ⟨[(0, b')]⟩, dram := putBytes (putBytes .empty 0 8 1) 0x80 8 0x3E }
      let e : State := { t with bays := tset t.bays .reset 0 { b' with walks := [] } }
    (tget s.bays .reset 0).walks = [w] ∧ w.waiters = [] ∧ (tget s.bays .reset 0).waiting = [m] ∧ s.stuck = none
      ∧ ((s.homeReq m.ev).map (·.1) == some read0.xl) = true ∧ (done s b).mustWalk 0 read0.xl = true ∧ ((done s b).beginWalk 0 read0.xl m.ev).stuck = none
      ∧ (done served c).mustWalk 0 read0.xl = false ∧ ((done served c).beginWalk 0 read0.xl m.ev).stuck = none ∧ s.bankFree 0 read0.xl = true ∧ read0.via = none ∧ read0.replay = false
      ∧ (tget t.bays .reset 0).walks = [v] ∧ v.waiters = [.bayReadRequest read0] ∧ (tget t.bays .reset 0).waiting = []
      ∧ e.mustWalk 0 read0.xl = true ∧ (let under : State := { e.useBank 0 read0.xl with ctl := { t.ctl with segroot := w.root } }; okAnd (under.homeRead (pathBay read0.path) read0.xl needR false read0.priv) (fun _ u => u.stuck == none) = true)) := by
  decide +kernel
theorem witness_inval : (let s := actor (fun x => { regs [0x100000] x with wait := .inval }); let p := actor (fun x => { x with s := ⟨[(1, .scalar 0 true)]⟩ })
    (s.readS 17 .i64).2 = false ∧ (p.readS 17 .i64).2 = true ∧ (s.ctx 0 0).wait = .inval) := by decide +kernel

/-- TileInstructionsIssue, TileResults: a free unit and one that is taken; a good descriptor, a bad one and a poisoned one; a latch of another format, an odd member of a pair; an engine-owned row; a
marker; and an instruction in flight. -/
theorem witness_tile : (let f := avtOf .f32 17 18 0 0; let s := actor (regs [510, 0, 4096, 511]); let held := actorOn (regs [510, 0]) (fun k => { k with units := ⟨[(0, 1004)]⟩ })
      let d1 := s.readS 17 .i64; let d2 := s.readS 18 .i64; let k := s.core 0
      let rows := (tileShape .tlatch f.type).1; let tile (r : Nat) : Nat := d1.1.toNat % 512 + r / 64 * (d2.1.toNat % 512)
    s.unitFree 0 (tileUnit .tlatch) 1003 = true ∧ k.hazard .tlatch f.type 0 0 1003 = false ∧ held.unitFree 0 (tileUnit .tmac) 1003 = false
      ∧ d1 = (510, false) ∧ d2 = (0, false) ∧ ¬ (4096 ≤ d1.1.toNat) ∧ d1.1.toNat / 512 % 8 = 0 ∧ (tileShape .tlatch f.type).2 ≤ 32 ∧ (∀ r, r < rows → tile r ≤ 511)
      ∧ 4096 ≤ (s.readS 19 .i64).1.toNat ∧ k.latchTy 0 = .f32 ∧ k.accFp64 0 = false
      ∧ k.tilesHeld s.cycle ((List.range rows).map tile).eraseDups false = false ∧ (∀ r, r < rows → k.engOwned (tile r) = false) ∧ k.banks = []) := by decide +kernel
theorem witness_tileFails : (let own := actorOn (regs [510, 0]) (fun k => { k with owner := ⟨[(510, true)]⟩, latches := ⟨[(0, { Latch.zero with ty := .bf16 })]⟩, accs := ⟨[(1, { Acc.zero with fp64 := true })]⟩ })
      let p := actor (fun x => { x with s := ⟨[(1, .scalar 0 true)]⟩ }); let k := own.core 0
      let mark := actorOn (regs [512 + 510, 1]) (fun k => { k with sp := ⟨[(0xFF000 + 63, 0x80)]⟩ })
    (p.readS 17 .i64).2 = true ∧ k.engOwned 510 = true ∧ k.latchTy 0 ≠ .f32 ∧ (k.accFp64 1 = true ∧ 1 % 2 = 1)
      ∧ ((mark.core 0).withStore mark.issue.spw).markerRow (mark.readS 17 .i64).1 (mark.readS 18 .i64).1 = some 0) := by decide +kernel
def tileOp0 (kind : TileKind) (f : AvtF) : TileOp :=
  { id := 1, kind, f, d1 := 0, d2 := 0, cols := 1, colPoison := false, fmode := 0, start := 1000, free := 1020, done := 1020, reads := [0], writes := [], sched := [], rows := .empty, bad := none, store := none
    acc := .zero, latch := .zero, gang := none }
theorem witness_tileInFlight : ∀ kind, kind ∈ [TileKind.tlatch, .ttrn, .tzero, .tmac, .trda, .twra] → (let o := tileOp0 kind (avtOf .f32 17 18 0 0)
      let s := actorOn id (fun k => { k with tileOps := [o] }); let d := actorOn id (fun k => { k with accs := ⟨[(0, { Acc.zero with fp64 := true })]⟩ })
    (s.core 0).tileOps = [o] ∧ o.f.type ≠ .i4x ∧ o.f.type ∈ [Ty.f64, .f32, .f16, .bf16, .e4m3, .e5m2] ∧ ((s.core 0).acc 0).fp64 = decide (o.f.type = .f64)
      ∧ ((d.core 0).acc 0).fp64 ≠ decide (o.f.type = .f64)) := by decide +kernel

theorem witness_trdaRequest : (let o (p : Nat) : TileOp := { tileOp0 .trda (avtOf .f32 17 18 0 0) with d1 := BitVec.ofNat 64 p, sched := [(1000, [5])] }
    (o 0).kind = .trda ∧ (o 0).gang = none ∧ (o 0).store = none ∧ (o 0).sched = [((actor id).cycle, [5])]
      ∧ (∀ q, q < 32 → rowAddr (o 0).d1 (o 0).d2 q = rowAddr (o 0).d1 (o 0).d2 5 → q ≤ 5)
      ∧ (∃ q, q < 32 ∧ 5 < q ∧ rowAddr (o 0xC00).d1 (o 0xC00).d2 q = rowAddr (o 0xC00).d1 (o 0xC00).d2 5)) :=
  ⟨rfl, rfl, rfl, by decide +kernel, by decide +kernel, 6, by decide +kernel⟩

/-- Gangs: the leader's group; within 7 cycles of its last TGANG and later; poison; a bad gang word; a full queue; a share that starts, is held, fails, and is done; and the
status. -/
def gang0 : Gang := ⟨9, 5, 0, 1, 0, 0, 2, 1, 0⟩
def gangEntry0 : GangEntry := ⟨0, 5, 9, 1, avtOf .f32 17 18 19 0, 0, 0, 0, 1, 0, 1, false, 0⟩
theorem witness_tgang : (let w := 2 * 128 + 8192; let s := grouped (regs [0, 0, w, 128 * 3]) id group0; let late := grouped (regs [0, 0, w]) (fun k => { k with lastTgang := 994 }) group0
      let full := (grouped (regs [0, 0, w]) id group0).setCore 1 { Core.reset with gangDue := 4, group := some 5 }
    (s.core 0).group = some 5 ∧ s.group 5 = some group0 ∧ group0.desc.gid = 5 ∧ ¬ ((s.core 0).lastTgang ≠ 0 ∧ s.cycle < (s.core 0).lastTgang + 7)
      ∧ ((late.core 0).lastTgang ≠ 0 ∧ late.cycle < (late.core 0).lastTgang + 7) ∧ (s.readS 17 .i64).2 = false ∧ (s.readS 19 .i64).2 = false
      ∧ descBad .share .f32 0 0 = false ∧ w < 2 ^ 19 ∧ w / 128 % 64 = 2 ∧ 0 + 2 ≤ group0.desc.w * group0.desc.h ∧ w / 8192 % 64 < group0.bars.length
      ∧ group0.desc.w * group0.desc.h < 0 + (s.readS 20 .i64).1.toNat / 128 % 64
      ∧ (∀ p, p < 2 → (s.core (group0.coreAt (0 + p))).gangDue < 4) ∧ 4 ≤ (full.core (group0.coreAt 1)).gangDue) := by decide +kernel
theorem witness_gangShare : (let up (h : Core → Core) : State := { grouped id (fun k => { h k with gangQueue := [gangEntry0] }) group0 with gangs := [gang0], unit := 0 }
      let s := up id; let own := up (fun k => { k with owner := ⟨[(0, true)]⟩ }); let busy := up (fun k => { k with units := ⟨[(0, 1001)]⟩ })
      let tiles := (rowTiles .share .f32 0 0).eraseDups
    (s.core 0).gangQueue = [gangEntry0] ∧ s.gangs = [gang0] ∧ gang0.id = gangEntry0.gang ∧ (s.core 0).formatBad .share gangEntry0.f = none ∧ s.upset 0 14 = none
      ∧ s.unitFree 0 0 s.cycle = true ∧ (s.core 0).hazard .share .f32 0 0 s.cycle = false ∧ (s.core 0).tilesHeld s.cycle tiles false = false
      ∧ busy.unitFree 0 0 busy.cycle = false ∧ (s.core 0).ownedRow .share .f32 0 0 = none ∧ (own.core 0).ownedRow .share .f32 0 0 = some 0) := by decide +kernel
theorem witness_gangEnds : (let o : TileOp := { tileOp0 .share (avtOf .f32 17 18 19 0) with gang := some gangEntry0 }
      let s : State := { grouped id (fun k => { k with tileOps := [o] }) group0 with gangs := [gang0] }
    (s.core 0).tileOps = [o] ∧ o.kind = .share ∧ o.gang = some gangEntry0 ∧ s.gangs = [gang0] ∧ gang0.id = gangEntry0.gang ∧ ((s.core 0).acc 0).fp64 = decide (o.f.type = .f64)
      ∧ gang0.left = 1 ∧ s.group 5 = some group0 ∧ (group0.barrier gang0.bix).dead = []
      ∧ (let b : TileOp := { o with sched := [(1000, [3])], bad := some 3 }; b.sched = [(s.cycle, [3])] ∧ b.bad = some 3)) := by decide +kernel

/-! Engines: a copy of one run of 64 bytes in the window, and an index list of one element. -/

/-- A copy descriptor: the run's length, no dimensions, untyped. -/
def desc64 : Line := 64
def cmd0 (kind : CmdKind) : Cmd :=
  { num := 1, kind, ctx := 0, epoch := 0, id := 0, dst := none, walker := false, f := ⟨0, 1, 19, 18, 17, 63⟩, a := 0, b := 0x1000, c := 0x2000, bPoison := false, desc := desc64
    rng := .empty, asid := 0, detmode := 0, taskId := 0, jobId := 0, entered := 900, started := true, status := 0, run := 0, off := 0, blk := 0, buf := [], idx := [3], flights := []
    outRun := 0, outOff := 0, outBlk := 0, raw := [], reads := [], acks := [], heldReqs := [], badTag := none
    finish := 0, bufs := [], held := false, bundle := 7, pc := 0 }
/-- An engine of the acting core with a command, in a window that the engines own. -/
def engined (e : Nat) (c : Cmd) : State :=
  actorOn id (fun k => { k with engines := ⟨[(e, ⟨[c], [], 900⟩)]⟩, owner := ⟨[(0, true), (2, true), (4, true)]⟩ })

/-- EngineCommandsIssue, EnginesRun: a descriptor that is good and one that is bad, in tiles of both owners; poison; a full queue and one with room; lists; completion words; and migrations. -/
theorem witness_commands : (let at_ := regs [0xFFFC0, 0x3000, 0x4000, 0x100100, 0x10000]; let sp (k : Core) : Core := { k with sp := putBytes .empty 0xFFFC0 64 64 }
      let s := actorOn at_ sp; let own := actorOn at_ (fun k => { sp k with owner := ⟨[(511, true)]⟩ }); let flip := actorOn at_ (fun k => { sp k with flips := [⟨1, 1, 511, 1, true⟩] })
      let p := actor (fun x => { x with s := ⟨[(1, .scalar 0 true)]⟩ }); let bad := actorOn at_ id
      let full := actorOn at_ (fun k => { k with engines := ⟨[(0, ⟨List.replicate 16 { cmd0 .cpy with started := false }, [], 0⟩)]⟩ })
    s.ctl.buffers.entries = [] ∧ (p.readS 17 .i64).2 = true ∧ (s.readS 17 .i64).2 = false ∧ s.readS 17 .i64 = (0xFFFC0, false) ∧ 0xFFFC0 + 64 ≤ 0x100000
      ∧ (flip.core 0).meets flip.cycle 0xFFFC0 64 false = .wait ∧ (own.core 0).meets own.cycle 0xFFFC0 64 false = .own 0xFFFC0 ∧ (s.core 0).meets s.cycle 0xFFFC0 64 false = .ok
      ∧ (∀ j, j < 8 → tget (s.core 0).spPoison false (0xFFFC0 / 8 + j) = false) ∧ ((s.core 0).spRead 0xFFFC0 64).1 = 64 ∧ ((bad.core 0).spRead 0xFFFC0 64).1 = 0
      ∧ describedAt s.start.sr.rng 0x3000 = false ∧ describedAt s.start.sr.rng 0x4000 = false
      ∧ 16 ≤ (((full.core 0).engine 0).queue.filter (fun c => !c.started)).length ∧ ¬ 16 ≤ (((s.core 0).engine 0).queue.filter (fun c => !c.started)).length ∧ (s.core 0).banks = []
      ∧ (0xFFFC0 + 4 * (0 % 2 ^ 13 + 1) ≤ 0x100000 ∧ 0x100000 < 0xFFFC0 + 4 * (8191 % 2 ^ 13 + 1))
      ∧ s.place 0x100100 8 needW false = .shared (xl0 0x100) ∧ s.readS 21 .i64 = (0x10000, false) ∧ (0x10000 % 2 ^ 16 = 0 ∧ 0x10000 % 2 ^ 21 ≠ 0)) := by decide +kernel
theorem witness_engineStart : (let c := { cmd0 .cpy with started := false, entered := 998 }; let s := engined 0 c; let g := (s.core 0).engine 0
    g.queue = [c] ∧ c.held = false ∧ c.started = false ∧ s.stoppedCore 0 = false ∧ s.cycle < max (c.entered + 4) (g.lastAccess + 1)) := by decide +kernel
theorem witness_copyReads : (let c := cmd0 .cpy; let s := engined 0 c; let thr := actorOn id (fun k => { k with engines := ⟨[(0, ⟨[c], [], 900⟩)]⟩ })
    s.stuck = none ∧ ((s.core 0).engine 0).queue = [c] ∧ c.started = true ∧ c.held = false ∧ s.stoppedCore 0 = false ∧ c.decodes = false ∧ c.encodes = false ∧ c.reads = [] ∧ c.flights = []
      ∧ c.status = 0 ∧ c.run < cpyRuns c.desc ∧ c.off < c.desc.toNat % 2 ^ 32 ∧ cpyAddr c.desc c.b c.run false + c.off = 0x1000 ∧ (s.core 0).flips = []
      ∧ (s.core 0).engOwned (tileOf 0x1000) = true ∧ (thr.core 0).engOwned (tileOf 0x1000) = false ∧ Memory.wf (s.core 0).sp = true
      ∧ (s.core 0).banksFree s.cycle (tilesOf 0x1000 64) = true) := by decide +kernel
theorem witness_copyFails : (let c := { cmd0 .cpy with reads := [⟨0, 0x1000, 0, 0, 0, none, some (5, 0)⟩] }; let s := engined 0 c
    s.stuck = none ∧ ((s.core 0).engine 0).queue = [c] ∧ c.kind = .cpy ∧ c.started = true ∧ c.held = false ∧ s.stoppedCore 0 = false
      ∧ c.reads = [⟨0, 0x1000, 0, 0, 0, none, some (5, 0)⟩]) := by decide +kernel
theorem witness_gather : (let c := cmd0 .gath; let s := engined 1 c; let sa := (c.b + BitVec.ofNat 64 (3 * 2 ^ (c.f.cmd.toNat / 2 ^ 13))).toNat; let ta := c.c.toNat
    ((s.core 0).engine 1).queue = [c] ∧ c.kind = .gath ∧ c.started = true ∧ c.held = false ∧ s.stoppedCore 0 = false ∧ c.reads = [] ∧ c.flights = [] ∧ c.status = 0 ∧ (s.core 0).flips = [] ∧ c.idx = 3 :: [] ∧ c.off = 0 ∧ c.run < c.f.cmd.toNat % 2 ^ 13 + 1 ∧ sa = 0x1003 ∧ sa % 64 + 1 ≤ 64 ∧ ta % 64 + 1 ≤ 64
      ∧ (s.core 0).engOwned (tileOf sa) = true ∧ (s.core 0).banksFree s.cycle (tilesOf sa 1) = true) := by decide +kernel
theorem witness_copyWrites : (let fl : Flight := ⟨1000, 0x2000, List.replicate 64 (7, false)⟩; let c := { cmd0 .cpy with run := 1, flights := [fl] }; let s := engined 0 c
    ((s.core 0).engine 0).queue = [c] ∧ c.reads = [] ∧ c.flights = [fl]
      ∧ (let r : Fetch := ⟨0, 0x1000, 64, 0x2000, 1000, some (List.replicate 64 (7, false)), none⟩; let d := { cmd0 .cpy with run := 1, reads := [r] };
          d.flights = [] ∧ d.reads = [r] ∧ r.got = some fl.bytes ∧ r.to_ = fl.va ∧ r.bad = none ∧ r.due ≤ s.cycle)
      ∧ s.stuck = none ∧ c.kind = .cpy ∧ c.started = true ∧ c.held = false ∧ s.stoppedCore 0 = false ∧ c.status = 0 ∧ (s.core 0).flips = [] ∧ cpyRuns c.desc ≤ c.run ∧ fl.due ≤ s.cycle ∧ fl.va + fl.bytes.length ≤ 0x100000 ∧ fl.va % 64 + fl.bytes.length ≤ 64
      ∧ 0 < fl.bytes.length ∧ (s.core 0).engOwned (tileOf fl.va) = true ∧ (s.core 0).banksFree s.cycle (tilesOf fl.va 64) = true ∧ c.decodes = false ∧ c.encodes = false) := by
  decide +kernel
theorem witness_copyCompletes : (let c := { cmd0 .cpy with finish := 1000 }; let w : SigWait := ⟨7, 1, 65535, 1⟩
      let s := actorOn id (fun k => { k with engines := ⟨[(0, ⟨[], [c], 999⟩)]⟩, sigs := [w] })
    ((s.core 0).engine 0).ending = [c] ∧ c.finish ≤ s.cycle ∧ c.acks = [] ∧ c.held = false ∧ c.walker = false ∧ c.kind ≠ .cmpl ∧ c.bufs = [] ∧ (s.core 0).group = none ∧ (s.core 0).sigs = [w]
      ∧ w.bundle = c.bundle ∧ w.cmds = 1 ∧ (s.core 0).sem w.sem + w.inc ≤ 65535 ∧ 1 < (⟨7, 1, 1, 2⟩ : SigWait).cmds) := by decide +kernel

/-- Semaphores, OwnershipFlips: the last semaphore and one past it, the largest increment and one more, a wait that passes and one that does not; and tiles. -/
theorem witness_semaphores : (let s := grouped (regs [255, 256, 65535, 65536, 1, 511, 512]) (fun k => { k with sems := ⟨[(1, 3)]⟩ }) group0
    (s.readS 17 .i64).1.toNat ≤ 255 ∧ 255 < (s.readS 18 .i64).1.toNat ∧ (s.readS 19 .i64).1.toNat ≤ 65535 ∧ 65535 < (s.readS 20 .i64).1.toNat
      ∧ (s.readS 21 .i64).1.toNat < s.groupSize 0 ∧ s.groupSize 0 ≤ (s.readS 18 .i64).1.toNat ∧ isPort 17 = true ∧ isPort 65 = false ∧ (s.core 0).sem 1 < 4 ∧ 3 ≤ (s.core 0).sem 1
      ∧ (s.readS 56 .i64).1.toNat = 0 ∧ ((actor id).core 0).group = none
      ∧ ¬ ((s.readS 57 .i64).1.toNat = 0 ∨ 512 < (s.readS 22 .i64).1.toNat + (s.readS 57 .i64).1.toNat) ∧ 512 < (s.readS 23 .i64).1.toNat + (s.readS 57 .i64).1.toNat
      ∧ (s.core 0).flips = [] ∧ (s.core 0).coreAccess s.cycle 511 1 = false ∧ (∀ e, e < 4 → ((s.core 0).engine e).queue = [])) := by decide +kernel
theorem witness_flips : (let p : Flip := ⟨1, 1, 511, 1, true⟩; let s := actorOn id (fun k => { k with flips := [p] }); let t := actorOn id (fun k => { k with flips := [p], banks := [(1002, 511)] })
    (s.core 0).flips = [p] ∧ (s.core 0).flipReady s.cycle p = true ∧ (t.core 0).flips = [p] ∧ (t.core 0).flipReady t.cycle p = false
      ∧ (t.core 0).coreAccess t.cycle 511 1 = true) := by decide +kernel

/-- Collectives: no set and a set of two members; poison; a count too wide; a full queue; contributions that are not the last, are late, agree and differ; a result and a failure;
and presence. -/
def setOfTwo : State :=
  { actor (regs [0x3000, 0x4000, 1]) with ctl := { (actor id).ctl with collTag := ⟨[(3, BitVec.ofNat 64 (2 ^ 63 + 24 * 2 ^ 40))]⟩, collMask := ⟨[(3, 5)]⟩ }, jobs := ⟨[(0, some job0)]⟩ }
def coll0 : Coll := ⟨3, 0, some 0, 900, [(0, contribution 0 1 [(7, false)])], false⟩
theorem witness_coll : (let s := actor (regs [0x3000, 0x4000, 1, 2 ^ 42]); let p := actor (fun x => { x with s := ⟨[(1, .scalar 0 true)]⟩ }); let u := setOfTwo
    (p.readS 17 .i64).2 = true ∧ (s.readS 19 .i64) = (1, false) ∧ 2 ^ 42 ≤ (s.readS 20 .i64).1.toNat ∧ describedAt s.start.sr.rng 0x3000 = false ∧ describedAt s.start.sr.rng 0x4000 = false
      ∧ s.collSetOf 0 = none ∧ (s.core 0).group = none ∧ u.collSetOf 0 = some 3 ∧ u.ctl.buffers.entries = [] ∧ u.issue.blocked = none
      ∧ (((u.core 0).engine 2).queue.filter (fun c => !c.started)).length < 4) := by decide +kernel
theorem witness_collRuns : (let c : Cmd := { cmd0 .coll with f := ⟨0, 0, 19, 18, 17, 63⟩, b := 0x4000, c := 1, off := 8, idx := [3, 0] }
      let s : State := { engined 2 c with ctl := setOfTwo.ctl }; let t : State := { s with presence := [(0, 0), (0, 2)] }
    ((s.core 0).engine 2).queue = [c] ∧ c.kind = .coll ∧ c.run = 0 ∧ c.idx = [3, 0] ∧ c.held = false ∧ c.started = true ∧ s.stoppedCore 0 = false ∧ c.status = 0 ∧ s.stuck = none
      ∧ c.reads = [] ∧ describedAt c.rng c.a.toNat = false ∧ Ty.ofBits (BitVec.ofNat 4 (c.f.cmd.toNat / 32)) ≠ .i4x ∧ (s.collAt 3 0).any (·.dead) = false
      ∧ (c.jobId.toNat, 1025) ∉ s.presence ∧ (2 ∈ s.collMembers 3 ∧ (c.jobId.toNat, 2) ∉ s.presence)
      ∧ (∀ m, m ∈ t.collMembers 3 → (c.jobId.toNat, m) ∈ t.presence) ∧ (1 * (tyWidth (collTy c.f) / 4) + 1) / 2 ≤ c.off ∧ (t.collMembers 3).head? = some t.pkgId) := by decide +kernel
theorem witness_contributions : (let s : State := { setOfTwo with colls := [coll0] }; let dead : Coll := { coll0 with dead := true }; let none' : Coll := { coll0 with got := [] }
    s.colls = [coll0] ∧ coll0.set = 3 ∧ coll0.index = 0 ∧ coll0.dead = false ∧ dead.dead = true ∧ coll0.core = some 0 ∧ s.collMembers 3 = [0, 2] ∧ (0 : Nat) ≠ 2
      ∧ coll0.got = [(0, contribution 0 1 [(7, false)])] ∧ (2 ∈ s.collMembers 3 ∧ 2 ≠ 0 ∧ ∀ g, g ∈ none'.got → g.1 ≠ 2)
      ∧ s.enters 2 = true ∧ ({ s with ctl := { s.ctl with syrctl := 0 } } : State).enters 2 = false ∧ (0 : Nat) = s.pkgId
      ∧ (s.collMembers 3).head? = some s.pkgId ∧ ({ s with ctl := { s.ctl with syrctl := 2 ^ 33 + 1 } } : State).pkgId = 2 ∧ ((0 : BitVec 16) ≠ 1) ∧ Ty.ofBits (BitVec.ofNat 4 (0 / 32)) = .i64
      ∧ Ty.ofBits (BitVec.ofNat 4 (0x100 / 32)) = .f64) := by decide +kernel
theorem witness_collResults : (let c : Cmd := { cmd0 .coll with run := 1, idx := [3, 0] }; let s : State := { engined 2 c with colls := [coll0] }
    ((s.core 0).engine 2).queue = [c] ∧ c.kind = .coll ∧ c.run = 1 ∧ c.idx = [3, 0] ∧ s.colls = [coll0] ∧ coll0.core = some 0
      ∧ (0x80000000_0003000D : Word).toNat % 65536 ≠ 0xE
      ∧ (let t : State := { s with ctl := setOfTwo.ctl }; (2 ∈ t.collMembers 3 ∧ ¬ (2 = t.pkgId ∨ ∃ g, g ∈ coll0.got ∧ g.1 = 2))
          ∧ ∀ m, m ∈ t.collMembers 3 → m = t.pkgId ∨ ∃ g, g ∈ coll0.got ++ [(2, [])] ∧ g.1 = m)) := by decide +kernel
theorem witness_presence : (let s : State := { setOfTwo with unit := 0 }; let t : State := { s with presence := [(0, 0), (0, 2)] }
    s.collSetOf s.unit = some 3 ∧ s.groups.entries = [] ∧ s.job s.unit = some job0 ∧ job0.fail = false ∧ (2 ∈ s.collMembers 3 ∧ (s.unit, 2) ∉ s.presence)
      ∧ ∀ m, m ∈ t.collMembers 3 → (t.unit, m) ∈ t.presence) := by decide +kernel

/-- CompletionWordsAndMigration: a word in host memory and one at home; and a migration of a segment whose leaf lies outside its new place. -/
theorem witness_cmplWrite : ([false, true].all fun h => let c : Cmd := { cmd0 .cmpl with a := 0x100100, rng := tset (actor id).start.sr.rng 0 3 (if h then 0x2F else 0xF) }
      let s : State := { engined 3 c with unit := 3, ctl := { (engined 3 c).ctl with linkctl := ⟨[(0, 0x89)]⟩ } }
      let u : State := s.updCtx 0 0 (fun y => { y with ops := y.ops.filter (fun o => match o.kind with | .cmpl _ => !o.sent | _ => true) })
    s.unit / 8 == 0 && ((s.core 0).engine 3).queue == [c] && decide (0x100000 ≤ c.a.toNat) && !c.detmode.getLsbD 0
      && okAnd (rangeXl c.rng c.a.toNat 8 needW, s) (fun x _ => x == { xl0 0x100 with host := h })
      && okAnd (u.engRoute 0 { xl0 0x100 with host := h } needW) (fun _ w => decide (({ w with freeCtr := u.freeCtr, regions := u.regions } : State) = u) && w.stuck == none && w.refused == [])) = true := by decide +kernel
theorem witness_cmplAtHome : (let c := { cmd0 .cmpl with acks := [5] }; let p : LogPkt := { packet0 with eng := some (3, 1), pos := 5 }; let s := engined 3 c; let h := { xl0 0x100 with host := true }
      let v := s.useBank 0 (xl0 0x100)
    p.eng = some (3, 1) ∧ p.via = none ∧ p.host = false ∧ (s.core p.core).cmd? 3 1 = some c ∧ c.badTag = none ∧ s.refused = [] ∧ s.stuck = none ∧ h.host = true
      ∧ (xl0 0x100).ia % 64 + 8 ≤ 64 ∧ s.mustWalk 0 (xl0 0x100) = false ∧ s.bankFree 0 (xl0 0x100) = true
      ∧ okAnd (v.xlate 0 (xl0 0x100) needW s.root) (fun fd du => fd.place == .hall 0x100100 && du.2.stuck == none && du.2.migrOf 0x100100 == none) = true) := by decide +kernel
theorem witness_cmplAck : (let c := { cmd0 .cmpl with acks := [5] }; let s := actorOn id (fun k => { k with engines := ⟨[(3, ⟨[], [c], 900⟩)]⟩ })
    ((s.core 0).engine 3).queue = [] ∧ ((s.core 0).engine 3).ending = [c] ∧ c.num = 1 ∧ c.acks = [5]) := by decide +kernel
def migr0 : Migr := ⟨0, 0x100000, 65536, 0, 65536, 0x40000, []⟩
theorem witness_migration : (let c := cmd0 .migr; let s : State := { engined 3 c with unit := 0, migrs := [migr0] }; let m := migr0
    s.stuck = none ∧ s.migrs = [m] ∧ m.core = 0 ∧ ((s.core 0).engine 3).queue = [c] ∧ Memory.wf s.dram = true ∧ m.from_ + m.size ≤ 2 ^ 39 ∧ m.to_ + m.size ≤ 2 ^ 39 ∧ m.from_ % 64 = 0
      ∧ m.to_ % 64 = 0 ∧ m.size % 64 = 0 ∧ 0 < m.size ∧ m.entry % 8 = 0 ∧ m.entry < 2 ^ 39 ∧ inExtension m.entry = false ∧ m.to_ + m.size ≤ m.entry ∧ s.rel.cells = .empty ∧ s.ctl.buffers.entries = []
      ∧ s.ctl.chstat = .empty ∧ ∀ e, e ∈ s.bays.entries → e.2.holdQ = []) ∧ ∀ n, (engined 3 (cmd0 .migr)).channelWidth n ≠ 0 :=
  ⟨by decide +kernel, fun n => by rw [show (engined 3 (cmd0 .migr)).channelWidth n = 2 from rfl]; decide⟩

/-- ItineraryWalker: an aligned list at the window's end, a walker that runs and one at rest; and a node of each kind, in every case that the statement tells apart. -/
def node (kind next : Nat) (fields : List (Nat × Nat)) : Line := BitVec.ofNat 512 (kind + next * 2 ^ 24 + (fields.map (fun p => p.2 * 2 ^ p.1)).sum)
def walking (n : Line) (l : Option Line) : State :=
  { actorOn id (fun k => { k with sp := putBytes .empty 0x1000 64 n.toNat, walker := { Walker.idle with running := true, base := 0x1000, line := l } }) with unit := 4 }
theorem witness_itin : (let s := actor (regs [0xFFFC0, 0xFFFC4]); let p := actor (fun x => { x with s := ⟨[(1, .scalar 0 true)]⟩ }); let r := actorOn id (fun k => { k with walker := { Walker.idle with running := true } })
    (p.readS 17 .i64).2 = true ∧ s.readS 17 .i64 = (0xFFFC0, false) ∧ 0xFFFC0 % 64 = 0 ∧ 0xFFFC0 + 64 ≤ 0x100000 ∧ s.readS 18 .i64 = (0xFFFC4, false) ∧ 0xFFFC4 % 64 ≠ 0
      ∧ (s.core 0).walker.running = false ∧ (r.core 0).walker.running = true
      ∧ (let w : Line := node 3 0 [(34, 2), (384, 1)]; let v := actorOn (regs [0x1000]) (fun k => { k with sp := putBytes .empty 0x1000 64 w.toNat }); let first := BitVec.ofNat 512 (bytesAt (v.core 0).sp 0x1000 64)
          nodeBad first = false ∧ first.toNat % 2 ^ 16 = 3 ∧ first.toNat / 2 ^ 24 % 2 ^ 20 ≠ 0 ∧ (node 3 0 [(384, 1)]).toNat / 2 ^ 24 % 2 ^ 20 = 0 ∧ nodeBad (node 3 0 [(384, 1)]) = false
            ∧ nodeBad (node 0 0 []) = false ∧ (node 0 0 []).toNat % 2 ^ 16 = 0 ∧ nodeBad (node 5 0 []) = true ∧ (v.core 0).fwds = [])) := by decide +kernel
theorem witness_nodes : ([node 0 0 [], node 1 1 [(44, 0x010), (128, 255), (192, 65535)], node 1 1 [(44, 0x010), (64, 1), (128, 255), (192, 65535)], node 1 1 [(44, 0x008), (64, 1), (128, 511), (192, 1)],
      node 1 1 [(44, 0x002), (128, 0xFFFFC)], node 1 1 [(44, 0x003), (128, 0xFFFFC)], node 1 1 [(44, 0x018), (128, 0x100100)], node 1 1 [(44, 0x005)],
      node 2 1 [(34, 2), (16, 5), (320, 0xFFFF8), (384, 1)], node 3 1 [(34, 2), (384, 1)], node 4 1 [], node 5 0 []].all fun n => let s := walking n (some n); let k := s.core 0; let w := k.walker
    s.stuck == none && s.unit / 8 == 0 && w.running && !w.held && !s.stoppedCore 0 && w.fail == 0 && w.line == some n && (nodeBad n == (n == node 5 0 []))
      && k.banksFree s.cycle (tilesOf 0xFFFF8 8) && k.group == none && k.fwds == [] && s.walkerDone 0 && decide (0 < s.groupSize 0) && !k.engineFull 1 && !k.engineFull 3
      && s.ctl.buffers.entries.isEmpty) = true := by decide +kernel
theorem witness_nodeCommands : (let cpy := node 1 1 [(44, 0x001), (128, 0xFFFC0), (192, 0x3000), (256, 0x4000)]; let coll := node 1 1 [(44, 0x004), (64, 0), (128, 0x3000), (192, 0x4000), (256, 1)]
      let s : State := { (walking cpy (some cpy)).updCore 0 (fun k => { k with sp := putBytes k.sp 0xFFFC0 64 64 }) with ctl := setOfTwo.ctl }; let k := s.core 0; let w := k.walker
    nodeBad cpy = false ∧ nodeBad coll = false ∧ s.stuck = none ∧ w.line = some cpy ∧ 0xFFFC0 % 64 = 0 ∧ 0xFFFC0 + 64 ≤ 0x100000 ∧ k.banksFree s.cycle (tilesOf 0xFFFC0 64) = true ∧ k.engineFull 0 = false
      ∧ cpyBad (BitVec.ofNat 512 (k.spRead 0xFFFC0 64).1) = false ∧ describedAt w.rng 0x3000 = false ∧ describedAt w.rng 0x4000 = false ∧ collFields 0 = true
      ∧ s.collSetOf w.jobId.toNat = some 3 ∧ k.engineFull 2 = false ∧ s.ctl.buffers.entries = []
      ∧ (let b := s.updCore 0 (fun k => { k with walker := { w with out := 1 } }); b.walkerDone 0 = false)) := by decide +kernel
theorem witness_nodeReads : (let s := walking 0 none; let k := s.core 0; let w := k.walker; let far : Walker := { w with base := 0xFFFC0, node := 1 }; let busy : Core := { k with banks := [(1000, 2)] }
    s.stuck = none ∧ s.unit / 8 = 0 ∧ w.running = true ∧ w.held = false ∧ s.stoppedCore 0 = false ∧ k.group = none ∧ w.fail = 0 ∧ w.line = none ∧ w.stopping = false ∧ w.out = 0
      ∧ ({ w with stopping := true } : Walker).stopping = true ∧ ({ w with fail := 5 } : Walker).fail ≠ 0 ∧ 0x100000 < far.base.toNat + 64 * far.node + 64
      ∧ w.base.toNat + 64 * w.node + 64 ≤ 0x100000 ∧ s.upset 0 12 = none ∧ k.banksFree s.cycle (tilesOf 0x1000 64) = true ∧ busy.banksFree s.cycle (tilesOf 0x1000 64) = false) := by decide +kernel

/-- TransferMode: a context in transfer mode and one that is not. -/
theorem witness_transferMode : (actor id).start.transfer = false ∧ (actor (fun x => { x with transfer := true })).start.transfer = true := by decide +kernel

/-- NativeDispatch: a call in progress with no entry, with dispatch off, with its unit busy and free; a native call whose body returns, and one whose body must wait; the vitrine's
first and last entries and controls. -/
def calling (e : Option Nat) (on : Bool) (free : Nat) : State :=
  actorOn inImage (fun k => { k with rtCache := [⟨0x100000, 1, 0, 0, e, 0⟩], calls := ⟨[(0, ⟨true, 1, 0, none, 0⟩)]⟩, vit := if on then .empty else ⟨[(0, 0)]⟩
                                     natFree := ⟨[(vitUnit (e.getD 0), free)]⟩ })
theorem witness_dispatch : ([calling none true 0, calling (some 0) false 0, calling (some 12) true 0, calling (some 12) true 1001].all fun s => let k := s.core 0; let x := k.ctx 0
    (tget k.calls .none 0).on && (tget k.calls .none 0).native == none && (k.rtFind x.sr.imgBase 1).isSome && x.q.all (·.produced) && x.loads == []) = true
    ∧ (let k := (calling (some 12) true 1001).core 0; (k.vitControl 0).getLsbD 0 = true ∧ k.vitEnabled 12 = true ∧ 1000 < tget k.natFree 0 (vitUnit 12))
    ∧ (((calling (some 0) false 0).core 0).vitControl 0).getLsbD 0 = false ∧ (calling none true 0).stoppedCore 0 = false
    ∧ (let w := calling (some 12) true 0; let o := w.updCtx 0 0 (fun x => { x with q := ⟨5, .scalar 0 false, false⟩ :: x.q.drop 1 });
        tget (o.core 0).natFree 0 (vitUnit 12) ≤ o.cycle ∧ ∃ q, q ∈ (o.ctx 0 0).q ∧ q.produced = false)
    ∧ (let st : State := { grouped id id { group0 with phase := .stopping } with unit := 0 }; st.stoppedCore 0 = true) := by
  refine ⟨by decide +kernel, by decide +kernel, by decide +kernel, by decide +kernel, ⟨by decide +kernel, ⟨5, .scalar 0 false, false⟩, by decide +kernel, rfl⟩, by decide +kernel⟩
/-- A body that starts with a bundle, whose call is due at a cycle. -/
def nativeBody (b : BitVec 512) (due : Nat) : State :=
  let s := State.reset.placeBundle b
  let x := s.ctx 0 0
  { s with cycle := 1000, agenda := []
           cores := ⟨[(0, { s.core 0 with ctxs := ⟨[(0, { x with sr := { x.sr with routIdx := 1 }, link := 0x100080, wait := .engine 16 })]⟩, calls := ⟨[(0, ⟨true, 1, 0, some 0, due⟩)]⟩ })]⟩ }
def nativeRun (s : State) (toPoint : Bool) : CallRun := (s.runBody 0 0).runCall 0 0 (s.ctx 0 0).epoch (s.ctx 0 0).shadow.occupied toPoint 65536
def nativeBack (u : State) : Bool := !u.gone 0 0 0 && !(u.ctx 0 0).inRoutine && !(u.ctx 0 0).shadow.occupied
/-- RETR, and an empty delay bundle: it ends, due or not; a CKPT first: its point; a header that waits for a semaphore; and a bundle that traps, with no handler. -/
theorem witness_nativeReturn : (let retr : BitVec 512 := BitVec.ofNat 512 (9 * 2 ^ 64); let s := nativeBody retr 1000; let k := s.core 0
    (tget k.calls .none 0).on = true ∧ (tget k.calls .none 0).native = some 0 ∧ s.upset 0 13 = none ∧ s.stuck = none ∧ (tget k.calls .none 0).until_ ≤ s.cycle
      ∧ ¬ (tget ((nativeBody retr 1001).core 0).calls .none 0).until_ ≤ s.cycle
      ∧ (match nativeRun s false with | .ended u => u.stuck == none && nativeBack u && !(s.ctx 0 0).shadow.occupied | _ => false) = true
      ∧ (match nativeRun (nativeBody retr 1001) true with | .ended u => u.stuck == none && nativeBack u | _ => false) = true
      ∧ (match nativeRun (nativeBody (BitVec.ofNat 512 (0xA * 2 ^ 64)) 1001) true with | .point u => u.stuck == none && u.cycle == 1000 && !(nativeBody 0 1001).stoppedCore 0 | _ => false) = true
      ∧ (match nativeRun (nativeBody (BitVec.ofNat 512 (2 ^ 32)) 1000) false with | .waits u => u.stuck == none && u.cycle == 1000 | _ => false) = true
      ∧ (match nativeRun (nativeBody (BitVec.ofNat 512 (0x400 * 2 ^ 64)) 1000) false with | .ended u => u.stuck == none && !nativeBack u | _ => false) = true) := by decide +kernel
theorem witness_vitrine : (let s := actor (regs [255, 256, 12, 13]); (s.readS 17 .i64).1.toNat < 256 ∧ 256 ≤ (s.readS 18 .i64).1.toNat ∧ (s.readS 19 .i64).1.toNat < 13 ∧ 13 ≤ (s.readS 20 .i64).1.toNat
    ∧ (s.readS 68 .i64).1.toNat ≤ 4 ∧ 4 < (s.readS 69 .i64).1.toNat ∧ s.changeoverDue 511 ≤ 64) := by decide +kernel

/-- Monitors, AlmanacControls: the last monitor and one past it, the least and the greatest window, the last word; a window that ends; a sample; the Almanac in each of its states; a
header that fits and one that does not; and a wait that its record has not ended. -/
theorem witness_monitors : (let s := actor (regs [7, 8, 10, 40, 41, 18, 19]); let m : Monitor := { Monitor.off with on := true, window := 1024, stamp := 5 }
      let t := actorOn id (fun k => { k with monitors := ⟨[(4, m)]⟩ })
    (s.readS 17 .i64).1.toNat ≤ 7 ∧ 7 < (s.readS 18 .i64).1.toNat ∧ 10 ≤ (s.readS 19 .i64).1.toNat ∧ (s.readS 20 .i64).1.toNat ≤ 40 ∧ 40 < (s.readS 21 .i64).1.toNat
      ∧ (s.readS 22 .i64).1.toNat ≤ 18 ∧ 18 < (s.readS 23 .i64).1.toNat ∧ ((t.core 0).monitor 4).on = true ∧ ((t.core 0).monitor 4).stamp = 5 ∧ ((s.core 0).monitor 4).on = false
      ∧ t.cores.entries = [(0, t.core 0)] ∧ (tget t.docents .reset 0).items.length < 2 ^ 64) := by decide +kernel
theorem witness_almanac : (let s := actor (regs [0x100000, 16, 34, 35]); let play : Almanac := { s.almanac with state := 2, base := 0x100000, log2 := 16 }
      let p := actor (fun x => { x with s := ⟨[(1, .scalar 0 true)]⟩ }); let h (n : Nat) : State := { s with hall := putBytes s.hall 0x100000 24 n }
    s.readS 17 .i64 = (0x100000, false) ∧ 0x100000 % 64 = 0 ∧ 16 ≤ (s.readS 18 .i64).1.toNat ∧ (s.readS 19 .i64).1.toNat ≤ 34 ∧ 34 < (s.readS 20 .i64).1.toNat ∧ s.almanac.state = 0
      ∧ (p.readS 17 .i64).2 = true
      ∧ (let r := (h 0x4C415147).almWords (play.xl (h 0x4C415147)) 0x100000 8; r.1 = some [0x4C415147, 0, 0, 0, 0, 0, 0, 0] ∧ r.2.stuck = none
          ∧ (let q := r.2.almWords (play.xl r.2) 0x100040 0; q.1 = some [] ∧ q.2.stuck = none))
      ∧ (let r := (h 1).almWords (play.xl (h 1)) 0x100000 8; r.1 = some [1, 0, 0, 0, 0, 0, 0, 0] ∧ r.2.stuck = none)
      ∧ (let r := s.almWords ({ play with asid := 7 }.xl s) 0x100000 8; r.1 = none ∧ r.2.stuck = none)
      ∧ (let a : State := { s with almanac := { play with state := 1 } }; a.almanac.state = 1 ∧ a.almHeader.stuck = none)) := by decide +kernel
theorem witness_almanacWait : (let s : State := { grouped (fun x => { x with status := .idle }) id group0 with almanac := { Almanac.reset with state := 2, jobId := 1, complete := true } }
    (s.core 0).group = some 5 ∧ s.group 5 = some group0 ∧ s.job group0.desc.jobId = some job0 ∧ s.almanac.binds 0 1 = true ∧ tget s.almanac.cursors 0 0 + 1 = 1 ∧ (s.ctx 0 0).status = .idle
      ∧ s.ctl.detctl.getLsbD 1 = false ∧ (actor id).almanac.binds 0 1 = false) := by decide +kernel

/-! Launches: a template, a group descriptor, its record, an image header and a start vector in the placed region, and blocks that name them. -/

def template0 (flags : Nat) : Nat := 0x100000 + 2 ^ 64 * (0x110000 + 2 ^ 64 * (0x100000 + 2 ^ 64 * flags))
def launchHall : Tbl Byte :=
  let m := (actor id).hall
  let m := putBytes m 0x101000 32 (template0 0x2F)
  let m := putBytes m 0x102000 64 (7 + 0x103000 * 2 ^ 64 + 2 ^ 128 + 2 ^ 144 + 2 ^ 152 + 3 * 2 ^ 168)
  let m := putBytes m 0x103000 32 rec0.bits.toNat
  let m := putBytes m 0x100000 64 (0x4D495147 + 2 ^ 32 + 2 ^ 48 + 0x1000 * 2 ^ 384)
  putBytes m 0x101000 8 0x100000
def block0 (kind : Nat) : Line := BitVec.ofNat 512 (kind + 2 ^ 32 + 0x102000 * 2 ^ 64 + 2 ^ 128 + 0x101000 * 2 ^ 320)
/-- A start-vector launch: the header, and the vector at 0x1000 from it, whose first word is the template's base, a code offset. -/
def blockStart : Line := BitVec.ofNat 512 (2 ^ 32 + 0x100000 * 2 ^ 64 + 0x108000 * 2 ^ 320 + 0x100000 * 2 ^ 384)
def launch0 (b : Line) (die : Nat) : Launch := ⟨1, b, 1, [], false, 900, die⟩
def launching (l : Launch) : State :=
  { actor id with hall := putBytes launchHall 0x108000 32 (template0 0xF), intake := [l], holdStep := 0, ctl := { (actor id).ctl with linkctl := ⟨[(0, 0x89)]⟩ } }

/-- LaunchesAndCurator: an intake with room and a full one; a launch that is read, of each kind, and a refused one, with a template and without; an ensemble that fits and one that
does not; and a group that a die admits and one that none does. -/
theorem witness_taskLaunch : (let l := launch0 (block0 1) 0; let s := launching l
    okAnd (s.curTask l.block.toNat l.num) (fun a u => u.stuck == none && decide (u.intake = [l]) && a.2.length == 1 && a.2.all (fun g => !g.ens)) = true ∧ l.die < 4 ∧ s.intake.length < 64) := by
  decide +kernel
theorem witness_startLaunch : (let l := launch0 blockStart 0; let s := launching l
    okAnd (s.curStart l.block.toNat l.num) (fun a u => u.stuck == none && decide (u.intake = [l]) && !a.2.1.isEmpty && a.2.2 == []) = true) := by decide +kernel
/-- One with no entry in its vector, at 0xB000, and one tile of core 127, the last of its window. -/
def looseHall : Tbl Byte :=
  let m := putBytes launchHall 0x100000 64 (0x4D495147 + 2 ^ 32 + 2 ^ 48 + 2 ^ 288 + 0x9000 * 2 ^ 320 + 0xB000 * 2 ^ 384)
  let m := putBytes m 0x108000 32 (template0 0xF)
  putBytes m 0x109000 32 (0xA000 + 2048 * 2 ^ 64 + 3 * 2 ^ 192 + 511 * 2 ^ 208 + 2 ^ 223 + 127 * 2 ^ 224)
theorem witness_looseTiles : (let l := launch0 blockStart 0; let s : State := { launching l with hall := looseHall }
    okAnd (s.curStart l.block.toNat l.num) (fun a u => u.stuck == none && decide (u.intake = [l]) && a.2.1.isEmpty && a.2.2 == [⟨127, 511, true, 2048, 0, 0⟩] && (u.core 127).group == none) = true
      ∧ 2048 * 511 + 2048 ≤ 0x100000 ∧ 2048 % 2048 = 0) := by decide +kernel
theorem witness_refusedLaunch : (let l := launch0 (block0 1 + 2 ^ 160) 0; let s := launching l; let c := launch0 (block0 1 + 2 ^ 160 + 0x100100 * 2 ^ 192) 0; let t := launching c
      let n := launch0 (block0 1 + 2 ^ 160 - 0x101000 * 2 ^ 320) 0; let v := launching n
    errAnd (s.curTask l.block.toNat l.num) (fun _ u => decide (u.intake = [l])) = true
      ∧ okAnd (t.curRead (c.block.toNat / 2 ^ 320 % 2 ^ 64) 256) (fun w v => okAnd (rangeXl (legalSets (wordsOf 32 w.1)) (c.block.toNat / 2 ^ 192 % 2 ^ 64 / 8 * 8) 8 needW, v) (fun x v =>
          x.host && okAnd (v.routeOf 0 x) (fun _ w => w.stuck == none))) = true
      ∧ c.block.toNat / 2 ^ 192 % 2 ^ 64 / 8 * 8 ≠ 0
      ∧ errAnd (v.curRead (n.block.toNat / 2 ^ 320 % 2 ^ 64) 256) (fun _ w => w.stuck == none) = true) := by decide +kernel
theorem witness_dispatches : (let g : GroupDesc := { desc0 with ens := true }; let l : Launch := { launch0 0 0 with groups := [g] }; let p : Launch := { l with groups := [desc0] }; let s := launching l
      let doc := tget s.docents .reset 0
    s.intake = [l] ∧ l.groups = [g] ∧ g.ens = true ∧ g.startVec = false ∧ l.die < 4 ∧ (g.nbar ≤ doc.barsFree.length ∧ (findRect (s.freeCores 0) 0 g.w g.h).isSome = true)
      ∧ ¬ (65 ≤ doc.barsFree.length) ∧ (launching p).intake = [p] ∧ desc0.ens = false
      ∧ (∀ d, d < 4 → ((launching p).freeCores d).length = 128 ∧ (tget (launching p).docents .reset d).barsFree.length = 64)) := by decide +kernel

/-- GroupPlacement: too early; nothing waiting; a saved group, a loose record and a group, with a place and without; victims and none; a pool context and none. -/
def item0 (kind : ItemKind) : Item := ⟨4, kind, 2, 900, 0, 0, false, false, false⟩
def waitingItem (i : Item) (s : State) : State := { s with docents := ⟨[(0, { Docent.reset with items := [i] })]⟩, unit := 0, jobs := ⟨[(1, some job0)]⟩ }
theorem witness_placement : (let g : GroupDesc := { desc0 with gid := 9, recs := ⟨[(0, rec0)]⟩ }; let i := item0 (.group g); let s := waitingItem i (actor id)
      let big := item0 (.group { g with nbar := 65 }); let b := waitingItem big (actor id); let early : Docent := { Docent.reset with nextDecision := 1001 }
    s.headItem 0 = some i ∧ s.boundLoose 0 = none ∧ s.placeFor 0 i = some (0, 0) ∧ s.stuck = none ∧ s.almanac.state = 0 ∧ s.group g.gid = none ∧ g.startVec = false ∧ g.pool = false ∧ g.tiles = []
      ∧ g.ens = false ∧ g.doldn = 0 ∧ (∀ e, e ∈ g.recs.entries → (s.job e.2.job).isSome = true) ∧ g.recs.entries = [(0, rec0)] ∧ s.job rec0.job = some job0 ∧ rec0.joined = false
      ∧ b.headItem 0 = some big ∧ b.placeFor 0 big = none ∧ (actor id).headItem 0 = none ∧ (actor id).cycle < early.nextDecision
      ∧ (tget s.docents .reset 0).nextDecision ≤ s.cycle) := by decide +kernel
theorem witness_preemption : (let i := item0 (.group { desc0 with gid := 9, w := 16, h := 8 }); let s := waitingItem i (grouped id id group0); let t := waitingItem { i with level := 3 } (grouped id id group0)
    s.headItem 0 = some i ∧ (s.itemShape i).1 = 16 ∧ (s.itemShape i).2.1 = 8 ∧ t.headItem 0 = some { i with level := 3 }
      ∧ s.bestVictims 0 16 8 2 = some (0, 0, [5]) ∧ t.bestVictims 0 16 8 3 = none) := by decide +kernel
theorem witness_restore : (let g : Group := { group0 with phase := .saved, bars := [] }; let i := item0 (.saved 5)
      let s := waitingItem i { actor id with groups := ⟨[(5, some g)]⟩ }
    s.headItem 0 = some i ∧ i.kind = .saved 5 ∧ s.group 5 = some g ∧ s.placeFor 0 i = some (0, 0) ∧ g.desc.doldn = 0 ∧ 0 + g.desc.w ≤ 16 ∧ 0 + g.desc.h ≤ 8) := by decide +kernel
theorem witness_loose : (let i := item0 (.loose rec0 1); let s := waitingItem i (actor id); let p := waitingItem i (grouped (fun x => { x with status := .idle }) id { group0 with desc := { desc0 with pool := true, w := 1 } })
    s.stuck = none ∧ s.almanac.state = 0 ∧ s.headItem 0 = some i ∧ i.kind = .loose rec0 1 ∧ s.job rec0.job = some job0 ∧ s.poolContext 0 rec0.job = none ∧ s.placeFor 0 i = some (0, 0)
      ∧ s.group 0xFFFF0000 = none ∧ p.headItem 0 = some i ∧ p.poolContext 0 rec0.job = some (0, 0) ∧ (p.core 0).group = some 5) := by decide +kernel

/-- PreemptionAndKill: a placed group; a stopping one that has quiesced, and one that has not, before its limit and at it; a saving one; one that is unknown; and one with no members. -/
theorem witness_preempt : (let s := grouped id id group0; let g : Group := { group0 with phase := .stopping, stopAt := 1000 }; let q := grouped (fun x => { x with status := .idle }) id g
      let b := grouped (fun x => { x with atoms := 1 }) id g; let late : State := { b with cycle := 17800 }
    s.group 5 = some group0 ∧ group0.phase = .placed ∧ (∀ n, n ∈ group0.coreList → (s.core n).fwds = []) ∧ q.group 5 = some g ∧ g.phase = .stopping ∧ q.quiesced g = true
      ∧ b.quiesced g = false ∧ b.cycle < g.stopAt + 16800 ∧ g.stopAt + 16800 ≤ late.cycle ∧ (grouped id id { group0 with phase := .saving }).group 5 = some { group0 with phase := .saving }
      ∧ (actor id).group 5 = none ∧ (∀ k h, (k, some h) ∈ (actor id).groups.entries → h.desc.gid ≠ 5)
      ∧ (let z : State := { actor id with groups := ⟨[(2 ^ 33, some group0)]⟩ }; z.groups.entries = [(2 ^ 33, some group0)] ∧ group0.desc.gid = 5 ∧ (2 : Nat) ^ 33 < 2 ^ 64)
      ∧ (∃ m, m ∈ s.members group0 ∧ (s.ctx m.1 m.2).delayNext = false) ∧ s.job group0.desc.jobId = some job0 ∧ job0.fail = false
      ∧ (let e := grouped (fun x => { x with status := .idle }) id group0; e.members group0 = [] ∧ e.gangs = []
          ∧ ∀ n, n ∈ group0.coreList → (e.core n).quiet true = true ∧ (e.core n).walker.running = false)) := by
  refine ⟨by decide +kernel, rfl, by decide +kernel, by decide +kernel, rfl, by decide +kernel, by decide +kernel, by decide +kernel, by decide +kernel, by decide +kernel, by decide +kernel, ?_,
    by decide +kernel, ⟨(0, 0), by decide +kernel⟩, by decide +kernel, rfl, by decide +kernel⟩
  intro k h m
  exact absurd m (by rw [show (actor id).groups.entries = [] from rfl]; simp)

/-- RecordsJobsAndWatches: an idle context with a record in its core's queue, in its group's, and in none; an item; a job that is over, with a word and without, and one that is not;
and a watch that has expired, one that has not, and one that has reported. -/
theorem witness_pop : (let idle (x : Ctx) : Ctx := { x with status := .idle }; let s := grouped idle (fun k => { k with queue := [rec0] }) group0; let t := grouped idle id { group0 with queue := [rec0] }
      let n := grouped idle id group0; let m : State := (n.setCore 1 { Core.reset with ctxs := ⟨[(0, { Ctx.reset with status := .running })]⟩, group := some 5 })
    s.stuck = none ∧ (s.core 0).group = some 5 ∧ s.group 5 = some group0 ∧ group0.desc.startVec = false ∧ ((s.core 0).ctx 0).status = .idle ∧ ((s.core 0).ctx 0).halted = false
      ∧ (s.core 0).dead = false ∧ s.almanac.state = 0 ∧ recResume rec0 = false ∧ s.job rec0.job = some job0 ∧ rec0.joined = false ∧ (s.core 0).queue = rec0 :: []
      ∧ (t.core 0).queue = [] ∧ t.group 5 = some { group0 with queue := [rec0] } ∧ (m.core 0).queue = [] ∧ m.groupOver group0 = false) := by decide +kernel
theorem witness_jobs : (let j : Job := { job0 with cmplAddr := 0x100100, rng := tset (actor id).start.sr.rng 0 3 0x2F }
      let at_ (j : Job) : State := { actor id with unit := 1, jobs := ⟨[(1, some j)]⟩, ctl := { (actor id).ctl with linkctl := ⟨[(0, 0x89)]⟩ } }; let s := at_ j
      let busy : State := waitingItem (item0 (.loose rec0 1)) (at_ job0)
    s.stuck = none ∧ s.job s.unit = some j ∧ s.almanac.state = 0 ∧ s.merges = [] ∧ j.done = false ∧ s.jobBusy 1 = false ∧ job0.cmplAddr = 0 ∧ j.cmplAddr ≠ 0
      ∧ okAnd (rangeXl j.rng j.cmplAddr.toNat 8 needW, s) (fun x s => x.host && okAnd (s.routeOf 0 x) (fun _ u => u.stuck == none)) = true ∧ busy.jobBusy 1 = true) := by decide +kernel
theorem witness_aging : (let l : Launch := { launch0 0 0 with groups := [{ desc0 with aging := true }] }; let s := launching l; let i := item0 (.loose rec0 1)
    (tget s.docents .reset 0).items = [] ∧ s.intake = [l] ∧ l.groups = [{ desc0 with aging := true }] ∧ (tget (waitingItem i (actor id)).docents .reset 0).items = [i]) := by decide +kernel
theorem witness_watch : (let g : Group := { group0 with desc := { desc0 with doldn := 0 }, lastSink := 999 }; let s := grouped id id g; let n : Group := { g with lastSink := 1000 }
    s.group 5 = some g ∧ g.hung = false ∧ g.phase = .placed ∧ s.ctl.schedctl.getLsbD 1 = true ∧ g.lastSink + 2 ^ g.desc.doldn ≤ s.cycle ∧ s.cycle < n.lastSink + 2 ^ n.desc.doldn
      ∧ ({ g with hung := true } : Group).hung = true ∧ ({ s with ctl := { s.ctl with schedctl := 0x40001 } } : State).ctl.schedctl.getLsbD 1 = false ∧ (∃ m, m ∈ s.members g ∧ m.1 = 0)) := by
  refine ⟨by decide +kernel, by decide +kernel, by decide +kernel, by decide +kernel, by decide +kernel, by decide +kernel, by decide +kernel, by decide +kernel, (0, 0), by decide +kernel⟩

/-- DramRecovery, LinkRecovery: a block's outcomes; a transfer whose parity mismatches in no group, in one half and in both, before the last attempt and at it; a channel that works; the
scrubber on and off, and a block of one symbol in error; a link that is up and one that is down, a lane within its limit and past it. -/
theorem witness_dram : (let s : State := { actor id with rel := { Rel.reset with parity := ⟨[(0, [0x0F]), (1, [0xFF])]⟩, cells := ⟨[(5, some ⟨1, 3, false, 0⟩)]⟩ } }
    (actor id).mismatches 0 = [] ∧ (s.mismatches 0).headD 0 = 0x0F ∧ (s.mismatches 64).headD 0 = 0xFF ∧ s.channelWidth (channelOf 0) = 2 ∧ s.channelWidth (channelOf 0) ≠ 0
      ∧ ((0x0F : BitVec 8) &&& 0xF0 = 0) ∧ ((0xFF : BitVec 8) &&& 0x0F ≠ 0) ∧ s.ctl.scrubctl.getLsbD 0 = true ∧ s.ctl.scrubctl.getLsbD 1 = true
      ∧ s.agenda = [] ∧ s.rel.cells.entries = [(5, some ⟨1, 3, false, 0⟩)] ∧ s.encAt.entries = [] ∧ 5 % 2 ^ 24 = 5 ∧ s.channelWidth (5 / 2 ^ 24) ≠ 0) := by decide +kernel
theorem witness_links : (let s := actor id; let w (x : Word) : State := { actor id with ctl := { (actor id).ctl with edgestat := ⟨[(0, x)]⟩ } }
    s.linkWidth 64 ≠ 0 ∧ (w 0).linkWidth 64 = 0 ∧ (9 : Nat) ≠ 0 ∧ (s.countLane 64 0 9).1 ≤ wordField s.ctl.relctl 24 8 ∧ (3 : Nat) < 4
      ∧ wordField s.ctl.relctl 24 8 < (({ s with ctl := { s.ctl with relctl := 0 } } : State).countLane 64 0 9).1 + wordField s.ctl.relctl 24 8) := by decide +kernel

/-- PowerManager, RouterPower: a router of the last number; power above, below and between; a domain with errors over its limit, below nominal and at it, and one without. -/
theorem witness_power : (let s : State := { actor id with rel := { Rel.reset with counts := ⟨[(65536, 70000)]⟩, steps := ⟨[(1, 3)]⟩ } }
    (511 : Nat) < 512 ∧ (∃ e, e ∈ s.rel.counts.entries ∧ e.1 / 65536 = 1 ∧ s.pfthr < e.2) ∧ 0 < tget s.rel.steps 0 1 ∧ (∀ e, e ∈ s.rel.counts.entries → e.1 / 65536 = 2 → e.2 = 0)
      ∧ s.ctl.pwrctl.getLsbD 0 = true ∧ s.ctl.relstat.getLsbD 2 = false ∧ tget s.rel.steps 0 2 < 8 ∧ s.rel.changed.getLsbD 0 = false ∧ (3 : Nat) < 4) := by
  refine ⟨by decide, ⟨(65536, 70000), by decide +kernel⟩, by decide +kernel, by decide +kernel, by decide +kernel, by decide +kernel, by decide +kernel, by decide +kernel, by decide⟩

/-- ControlSpace: whole writes and parts; a register, a register cleared by ones, GRPCMD, and an offset where none stands; and a quote in progress. -/
theorem witness_control : (let w : CtlWrite := ⟨0xD80, 0, 0xFFFFFFFF, 0, 0, false, 1, 0, 0, 0⟩; let t : CtlWrite := ⟨0xB00, 8, 0xFFFF, 0, 0, true, 0, 0, 0, 0⟩; let r : CtlWrite := ⟨0x100, 7, 0xFF, 0, 0, false, 1, 0, 0, 0⟩
      let g : CtlWrite := ⟨0x100, 0, 0xFF00, 0, 0, false, 1, 0, 0, 0⟩
    (w.off / 64 * 64 = 0xD80 ∧ w.mask = 0xFFFFFFFF ∧ 1 ≤ w.priv) ∧ (wordField (t.mask.setWidth 64) 0 16 = 65535 ∧ (t.data.extractLsb' 0 64).toNat % 8 = 0 ∧ t.host = true)
      ∧ r.mask ≠ 0 ∧ (∀ j, j < 64 → r.mask.getLsbD j = true → j / 8 = 0) ∧ (ctlMasks 0x100).isSome = true ∧ (0x100 : Nat) ≠ 0x108 ∧ ctlMasks 0xFFFF8 = none
      ∧ (∀ j, j < 64 → g.mask.getLsbD j = true → j / 8 = 1) ∧ 0x100 + 8 * 1 = 0x108 ∧ (actor id).ctl.quoteStamp = 0) := by decide +kernel

/-- MergesApplyInOrder: two tasks that wrote one line of host memory, in bytes of their own and in a common one. -/
def mergePkt (task : Nat) (mask : BitVec 64) : LogPkt := { packet0 with w := ⟨{ xl0 0x100 with host := true }, 9, mask, 0⟩, taskid := task, key := ⟨0, 0, 0, 0, 0⟩ }
def mergeTask (task : Nat) (mask : BitVec 64) : MergeTask := ⟨task, 0, [], [], [mergePkt task mask], [], [], []⟩
def merging (m : MergeSet) : State := { actor id with merges := [m], jobs := ⟨[(1, some { job0 with det := true })]⟩, ctl := { (actor id).ctl with linkctl := ⟨[(0, 0x89)]⟩ } }
theorem witness_merge : ([1, 2].all fun mask => let m : MergeSet := ⟨4, 1, none, none, none, [mergeTask 7 1, mergeTask 8 mask], some .jobComplete⟩; let s := merging m
    decide (s.merges = [m]) && m.order == [mergeTask 7 1, mergeTask 8 mask] && !(mergeTask 7 1).same (mergeTask 8 mask)
      && (match s.mergeWaits m.id (m.order.flatMap MergeTask.reqs) with
        | (false, u) => !s.mergeFlying (mergeTask 7 1) && !s.mergeFlying (mergeTask 8 mask) && u.stuck == none && !u.mixedDet 1 && u.job 1 == some { job0 with det := true } && u.ctl.detctl.getLsbD 0
        | _ => false)) = true ∧ ((1 : BitVec 64) &&& 1 ≠ 0) ∧ ((1 : BitVec 64) &&& 2 = 0) := by decide +kernel
/-- One of a task whose request is still on its way, and one with an entry for a page that no leaf maps. -/
theorem witness_mergeHeld : (let f : MergeTask := { mergeTask 7 1 with flying := [9] }; let m : MergeSet := ⟨4, 1, none, none, none, [f], some .jobComplete⟩
      let s := (merging m).updCtx 0 0 (fun x => { x with detFlying := [9] })
      let p : LogPkt := { mergePkt 7 1 with w := ⟨{ xl0 0x100 with ia := 0x50000000 }, 9, 1, 0⟩ }; let n : MergeSet := ⟨4, 1, none, none, none, [{ mergeTask 7 1 with entries := [p] }], some .jobComplete⟩; let t := merging n
    s.merges = [m] ∧ f ∈ m.order ∧ s.mergeFlying f = true ∧ s.agenda = [] ∧ t.merges = [n] ∧ (∀ x, x ∈ n.order → t.mergeFlying x = false)
      ∧ (let w := t.mergeWaits 4 (n.order.flatMap MergeTask.reqs); w.1 = true ∧ w.2.stuck = none)) := by decide +kernel

/-- ResetAndBringUp: bring-up ends one way or the other, whatever the values that the firmware brings; each of the two is met for some of them. -/
theorem witness_bringUp (s : State) : (Config.bringUpFails s.resets = 0 → Config.hostPorts s.resets ≠ 0 → s.failedStep = none)
    ∧ (Config.bringUpFails s.resets = 3 → s.failedStep = some 3) := by
  refine ⟨fun h k => ?_, fun h => ?_⟩ <;> simp_all [State.failedStep]

/-- StepRunsDecoded: a stopped machine; an event before the bundles; a bundle; a bundle of one instruction, which runs, and an empty one; and NopSlots: a slot of NOP with a bit set. -/
theorem witness_step : (let s := State.reset.placeBundle (BitVec.ofNat 512 (0xA * 2 ^ 64)); let d : Due := ⟨0, 3, 0, .monitorPeriodicSample⟩; let e : State := { s with agenda := [d] }
      let bad := BitVec.ofNat 512 (0x400 * 2 ^ 64)
    s.stuck = none ∧ ({ s with stuck := some .physicalHole } : State).stuck = some .physicalHole ∧ (∀ d, d ∈ s.agenda → d.cycle ≤ s.cycle → 8 ≤ d.rank) ∧ s.nextCore = some 0
      ∧ s.pick 0 = some 0 ∧ (State.reset.pick 0) = none ∧ d ∈ e.agenda ∧ d.cycle ≤ e.cycle ∧ d.rank < 8 ∧ (∀ f, f ∈ e.agenda → f = d) ∧ (encodeSlot .ckpt).isSome = true
      ∧ slotOpc (slotBits bad 0) = 0 ∧ slotBits bad 0 ≠ 0 ∧ surrendered bad 0 = false ∧ (match bundleSlot 0 7 with | .ok .nop => true | _ => false) = true) := by decide +kernel
theorem witness_bundle : ([((0 : BitVec 512), ([] : List (Nat × Instr))), (BitVec.ofNat 512 (0xA * 2 ^ 64), [(0, .ckpt)])].all fun p => let b := p.1; let s := State.reset.placeBundle b
      let q := (s.updCore 0 (fun k => { k with cur := 0 })).updCtx 0 0 (fun x => { x with wait := .none, hdrWait := false }); let x : Ctx := { q.ctx 0 0 with rep := .off }
    s.pick 0 == some 0 && (s.ctx 0 0).wait != .yield && !x.transfer && !(q.ctx 0 0).rep.on
      && okAnd (q.fetchRun 0 x.sr.rng x.pc.toNat 64) (fun a u => a.1 == b.toNat && !a.2 && (let v := u.setCtx 0 0 x
          !hdrHw b && v.checkBundle 0 x b == none && (slotsOf b).map (fun e => (e.1, e.2.toOption)) == p.2.map (fun e => (e.1, some e.2))
            && p.2.all (fun e => x.slotReady b 1 0 e && v.vecReady 0 e && v.upset 0 e.1 == none && slotEngine e.2 == none) && hdrWthr b ≤ (v.core 0).sem (hdrWsem b)))) = true := by
  decide +kernel

/-- EncodingsRoundTrip, MemoryFormKept, VirtualChannels: an instruction with an encoding that passes the checks; a state in canonical form that takes a step; and a packet on its
ring, over the dateline and at a turn. -/
theorem witness_roundTrip : (let i : Instr := .add (avtOf .i64 16 17 0 0); (encodeSlot i).isSome = true ∧ i.wf none = true ∧ decodeSlot .c 9 = .ok .retr) := ⟨by decide, by decide, rfl⟩
theorem witness_canonical : (State.reset.withFetchWord 0 0).Canonical ∧ nextIs (step (State.reset.withFetchWord 0 0)) (fun _ => true) = true := by
  refine ⟨⟨⟨rfl, by decide +kernel, rfl, fun n => ?_⟩, fun key g h => ?_⟩, by decide +kernel⟩
  · cases n with
    | zero => decide +kernel
    | succ n => rfl
  · rw [show (State.reset.withFetchWord 0 0).group key = none from rfl] at h
    exact absurd h (by simp)
theorem witness_channels : (let p : Packet := ⟨[(15, 1), (0, 1), (1, 2), (113, 2)], 1, 0, 0, 0, 0, .nop⟩
    ((p.outAt 0).2 = 1 ∧ (p.outAt 0).1 % 16 = 15) ∧ (p.outAt 1).2 = 1 ∧ (p.outAt 1).1 % 16 ≠ 15 ∧ (p.outAt 2).2 = 2 ∧ (p.outAt 3).1 % 128 / 16 = 7) := by decide

end Sys2Proof.Tests
end

section
/-! The layout of a bundle's slots: the TYPE codes (R75), and what stands in the slots of a bundle, NOP slots among them (R72, R90). -/

namespace Sys2Proof

/-- R75: every TYPE code is one type's. -/
@[simp] theorem Ty.toBits_ofBits (b : BitVec 4) : (Ty.ofBits b).toBits = b := by
  revert b; decide

/-- R72: with opcode 0 a slot is NOP in every class, and its other bits decide. -/
theorem decodeSlot_of_slotOpc_eq_zero (cls : Cls) {w : BitVec 56} (h : slotOpc w = 0) :
    decodeSlot cls w = if w = 0 then .ok .nop else .error (.bad .resv) :=
  if_pos h

theorem bundleSlot_of_not_surrendered {b : BitVec 512} {k : Nat} (h : surrendered b k = false) :
    bundleSlot b k = decodeSlot (slotCls k) (slotBits b k) := by
  simp [bundleSlot, h]

namespace Machine

/-- The slots of a bundle that are not empty: those that hold something other than NOP. -/
theorem mem_slotsOf {b : BitVec 512} {e : Nat × Except DecodeErr Instr} :
    e ∈ slotsOf b ↔ e.1 < 8 ∧ bundleSlot b e.1 = e.2 ∧ e.2 ≠ .ok .nop := by
  obtain ⟨k, r⟩ := e
  simp only [slotsOf, List.mem_filterMap, List.mem_range]
  constructor
  · rintro ⟨j, hj, hr⟩
    split at hr
    case h_1 => cases hr
    case h_2 hne =>
      cases hr
      exact ⟨hj, rfl, hne⟩
  · rintro ⟨hk, rfl, hne⟩
    refine ⟨k, hk, ?_⟩
    split
    case h_1 h => exact absurd h hne
    case h_2 => rfl

/-- R62, R88: no opcode of a supervisor's instruction is 0. -/
theorem needsSup_error_of_slotOpc_eq_zero {b : BitVec 512} {k : Nat} (h : slotOpc (slotBits b k) = 0) (e : DecodeErr) :
    needsSup b k (.error e) = false := by
  simp [needsSup, h]

/-- R90 step 4: a static check that fails in a slot that passes the check of its privilege. -/
theorem State.checkSlot_bad (s : State) (core : Nat) (x : Ctx) {b : BitVec 512} (l : List (Nat × Except DecodeErr Instr)) (seen : List Dest)
    {k : Nat} {e : Bad} (h : needsSup b k (.error (.bad e)) = false) :
    s.checkSlot core x b l seen k (.error (.bad e)) = some (tIllfmt (badSub e) k) := by
  simp [State.checkSlot, h]

end Machine

open Machine

/-- Settles O57: the sixteen codes one by one, and each code given back by the type it stands for. -/
theorem typeCodes : Obligations.TypeCodes :=
  ⟨by decide, Ty.toBits_ofBits, rfl, rfl⟩

/-- Settles O58: opcode 0 is decoded alike in every class, the slots of a bundle leave NOP out, and a NOP with a bit set fails its
static check before any other, no opcode 0 asking for supervisor level. -/
theorem nopSlots : Obligations.NopSlots := by
  refine ⟨fun cls w h => decodeSlot_of_slotOpc_eq_zero cls h, ?empty, ?trap⟩
  case empty =>
    rintro b k hnop e he rfl
    obtain ⟨-, hslot, hne⟩ := mem_slotsOf.mp he
    exact hne (hslot.symm.trans hnop)
  case trap =>
    intro s core k x b l seen _ hsurr hopc hbits
    have hbad : bundleSlot b k = .error (.bad .resv) := by
      rw [bundleSlot_of_not_surrendered hsurr, decodeSlot_of_slotOpc_eq_zero _ hopc, if_neg hbits]
    refine ⟨hbad, ?_⟩
    rw [hbad]
    exact s.checkSlot_bad core x l seen (needsSup_error_of_slotOpc_eq_zero hopc _)

end Sys2Proof
end

section
/-! The virtual channel of a packet along its path (R309): the ring an output lies on, the ring's dateline, and the three channels. -/

namespace Sys2Proof

namespace Machine

/-- Two outputs lie on one ring when both go along a row, east or west, or both along a column, north or south; the local port and the
edge links lie on none. -/
theorem sameRing_iff (a b : Nat) :
    sameRing a b = true ↔ ((a = 1 ∨ a = 3) ∧ (b = 1 ∨ b = 3)) ∨ ((a = 0 ∨ a = 2) ∧ (b = 0 ∨ b = 2)) := by
  simp only [sameRing, Bool.and_eq_true, decide_eq_true_eq, beq_iff_eq]
  omega

/-- R309: the dateline of a row, from its stop 15 eastward or its stop 0 westward, and that of a column, from its stop 7 southward or its
stop 0 northward. -/
theorem crossesDateline_iff (router out : Nat) :
    crossesDateline router out = true ↔ (out = 1 ∧ router % 16 = 15) ∨ (out = 3 ∧ router % 16 = 0)
      ∨ (out = 2 ∧ router % 128 / 16 = 7) ∨ (out = 0 ∧ router % 128 / 16 = 0) := by
  simp [crossesDateline, coreX, coreY, north, east, south, west, or_assoc]

/-- Only an output of a ring crosses a dateline: no local port and no edge link does. -/
theorem lt_four_of_crossesDateline {router out : Nat} (h : crossesDateline router out = true) : out < 4 := by
  rw [crossesDateline_iff] at h
  omega

theorem Packet.stays_iff (p : Packet) (hop : Nat) :
    p.stays hop = true ↔ 0 < hop ∧ sameRing (p.outAt (hop - 1)).2 (p.outAt hop).2 = true := by
  simp [Packet.stays]

theorem Packet.nextVc_of_crossesDateline {p : Packet} {hop : Nat} (vc : Nat)
    (h : crossesDateline (p.outAt hop).1 (p.outAt hop).2 = true) : p.nextVc hop vc = 1 := by
  simp [Packet.nextVc, h, lt_four_of_crossesDateline h]

theorem Packet.nextVc_of_not_crossesDateline {p : Packet} {hop : Nat} (vc : Nat)
    (h : ¬ crossesDateline (p.outAt hop).1 (p.outAt hop).2 = true) : p.nextVc hop vc = if p.stays hop then vc else 0 := by
  simp [Packet.nextVc, Packet.stays, h]

end Machine

open Machine

/-- Settles O59: over the dateline, along the ring, and where a ring is entered, each by the rule of the packet's next channel for that
case. -/
theorem virtualChannels : Obligations.VirtualChannels := by
  intro p hop vc o before row column dateline stays
  have hdate : crossesDateline o.1 o.2 = true ↔ dateline := crossesDateline_iff o.1 o.2
  have hstays : p.stays hop = true ↔ stays := by rw [p.stays_iff hop, sameRing_iff]
  refine ⟨fun hd => ?crosses, fun hd hs => ?along, fun hd hs => ?enters⟩
  case crosses => exact Packet.nextVc_of_crossesDateline vc (hdate.mpr hd)
  case along => rw [Packet.nextVc_of_not_crossesDateline vc (mt hdate.mp hd), if_pos (hstays.mpr hs)]
  case enters => rw [Packet.nextVc_of_not_crossesDateline vc (mt hdate.mp hd), if_neg (mt hstays.mp hs)]

end Sys2Proof
end
